-- ==== Sys2Proof/Word.lean ====
section
/-! DEFINITION. The words the ring and the host's tables are made of, and saturation (00 section 3.2). -/

namespace Sys2Proof

/-- One byte of a ring frame (10 R189). -/
abbrev Byte := BitVec 8

/-- An order reference: the host's own 32-bit name for an order, never interpreted (04 section 4.1). -/
abbrev Ref := BitVec 32

/-- A count that rises by 1 and stays at `cap` (00 section 3.2). -/
def satInc (cap x : Nat) : Nat := if x < cap then x + 1 else cap

/-- The end of the range of every 16-bit counter (R62, R134, R199). -/
abbrev counterMax : Nat := 65535

end Sys2Proof
end

