-- ==== Sys2Proof/Config.lean ====
section
/-! DEFINITION. What an implementation fixes: the sizes of the part's lists and queues, and the free value. -/

namespace Sys2Proof.Config

/-- R16: records of the tracking list. -/
abbrev maxRecords : Nat := 96
/-- R65: entries of the order table. -/
abbrev maxEntries : Nat := 512
/-- R89: fires of one gate's queue; R93: members of one group. -/
abbrev maxFires : Nat := 8
abbrev maxGroup : Nat := 8
/-- R126: records of one lane's verify list. -/
abbrev maxVerify : Nat := 4
/-- R194, R195, R196: forward, control and reply queues. No operation turns a command away at 40 (log 46). -/
abbrev maxForward : Nat := 8
abbrev maxControl : Nat := 40
abbrev maxReplies : Nat := 8
/-- R213, R214: notices queued, and the length at which OVERFLOW is examined. -/
abbrev maxNotices : Nat := 32
abbrev overflowAt : Nat := 16
/-- Lanes and gates 0..16; station records 0..27. -/
abbrev lanes : Nat := 17
abbrev stations : Nat := 28
/-- R201: the highest tote number a tag may carry. -/
abbrev maxTote : Nat := 4094
/-- R3: the odometer is held to 40 bits. -/
abbrev odometerEnd : Nat := 2 ^ 40

/-- R3: "no wrap is defined". What the odometer holds after a count past the end of its range is left
open: a FREE VALUE, one for each use (log 1). -/
opaque odometerAfterEnd : Nat → BitVec 40

/-- DESIGN CHOICE (log 11): how many replans may follow one plan request. R93 and R98 give no bound, and a
chain of more than 8 overlapping records would withdraw one another's fires for ever. -/
abbrev replanBound : Nat := 256

/-- DESIGN CHOICE (log 5): how many reached points one row takes before it acts. -/
abbrev drainBound : Nat := 4096

end Sys2Proof.Config
end

