-- ==== Sys2Proof/Syntax.lean ====
section
/-! DEFINITION. The commands of the part: one constructor per row of spec/opcode_table.json, with its operands. -/

namespace Sys2Proof

/-- What holds the part in reset (R186). -/
inductive ResetCause
  | resetn | supply
  deriving DecidableEq, Repr

/-- The encoder pair, ENCA then ENCB (R1). -/
structure EncPair where
  a : Bool
  b : Bool
  deriving DecidableEq, Repr

/-- One indivisible step of the part (95). Station frames carry the source address they came from, management
commands their tag and arguments, belt points and timers what they belong to: a record handle, a station index,
a gate or a lane. -/
inductive Instr
  -- resets, the ring port, the encoder and the timebase
  | resetAssert (cause : ResetCause)
  | resetRelease (cause : ResetCause) (pair : EncPair)
  | ringPortStart
  | forwardCount
  | reverseCount
  | illegalStep
  | speedWindowEnd
  -- one frame at ring-in: its bytes, and whether one of them lacked its stop bit
  | ringFrame (stopBitMissing : Bool) (bytes : List Byte)
  -- station frames handed to POS, by source address
  | eyeLead (src : Nat)
  | eyeTrail (src : Nat)
  | tag (src : Nat) (read : Option Nat)
  | entry (src : Nat)
  | removal (src : Nat)
  | haltOn (src : Nat)
  | haltOff (src : Nat)
  | atOpen (src : Nat)
  | atClosed (src : Nat)
  | driveFault (src : Nat)
  | inductReady (src : Nat) (tote : Nat) (len : Nat)
  | released (src : Nat)
  | inductEmpty (src : Nat)
  | spurReady (src : Nat) (tote : Nat) (len : Nat)
  | spurMerged (src : Nat)
  | spurEmpty (src : Nat)
  -- belt points
  | originPassage (rec : Nat)
  | sightingDeadline (rec : Nat)
  | jamPoint (station : Nat)
  | tagLimit (station : Nat)
  | openStart (gate : Nat)
  | checkPoint (gate : Nat)
  | closeStart (gate : Nat)
  | endPoint (gate : Nat)
  | passageWatch (rec : Nat)
  | verifyDeadline (lane : Nat)
  | releasePoint
  | confirmPoint
  | holePoint
  | mergePoint
  | mergeConfirmPoint
  | intervalPoint
  | arrivalPoint
  | samplePoint
  | settlePoint
  | resumeEndPoint
  -- timers
  | feedbackTimerExpiry (gate : Nat)
  | stallTimerExpiry
  | idleTimerExpiry
  | parkTimerExpiry
  | wakeWaitExpiry
  | linkTimerExpiry
  -- ring-out
  | transmitStart
  | transmitEnd
  -- management commands handed to CMD
  | heartbeat (tag : Byte)
  | setPointer (tag : Byte) (table index : Nat)
  | putRecords (tag : Byte) (records : List Byte)
  | start (tag : Byte)
  | park (tag : Byte)
  | resume (tag : Byte)
  | dark (tag : Byte)
  | clearFault (tag : Byte)
  | toConfig (tag : Byte)
  | resetTrack (tag : Byte)
  | resetDevice (tag : Byte)
  | orderPut (tag : Byte) (tote : Nat) (ref : Ref) (lane priority lapLimit hold : Nat)
  | orderCancel (tag : Byte) (tote : Nat)
  | orderQuery (tag : Byte) (tote : Nat)
  | laneSetOpen (tag : Byte) (lane : Nat)
  | laneSetClose (tag : Byte) (lane : Nat)
  | laneClear (tag : Byte) (lane : Nat)
  | regulate (tag : Byte) (mode value : Nat)
  | inductSkip (tag : Byte)
  | noticeMask (tag : Byte) (mask : Byte)
  | queryStatus (tag : Byte)
  | queryLane (tag : Byte) (lane : Nat)
  | queryTote (tag : Byte) (tote : Nat)
  | queryCounters (tag : Byte) (group index clear : Nat)
  deriving DecidableEq, Repr

end Sys2Proof
end

