-- ==== Sys2Proof/Machine/State.lean ====
section
/-! DEFINITION. The state of the part, block by block (00 section 1.2), as plain data, and its value after reset. -/

namespace Sys2Proof.Machine

/-- Why a step stops with a fault. No rule of the spec stops the part, and no operand of any row is left without
an effect, so there is no reason: nothing raises a fault (safe: nothing is hidden behind one). -/
inductive Fault
  deriving DecidableEq, Repr

/-- Why a step is refused. -/
inductive Refusal
  /-- Raised only by an arm of `exec` whose command has no meaning yet (safe). No arm raises it now. -/
  | notModelled (mnemonic : String)
  deriving DecidableEq, Repr

/-- The three outcomes of one step of this part. -/
abbrev Out (σ : Type) := Host.Outcome σ Fault Refusal

/-! ## POS: belt travel, the station map, the loop parameters (01) -/

/-- The kind of a station record (section 1.5). -/
inductive StationKind
  | unused | induct | reader | laneDiverter | merge | returnDiverter
  deriving DecidableEq, Repr

/-- A station record (R10): position, primary and secondary address, lane number, open and close swing time in ms,
lead and trail margin, latency. -/
structure Station where
  kind  : StationKind
  pos   : Nat
  prim  : Nat
  sec   : Nat
  lane  : Nat
  so    : Nat
  sc    : Nat
  lead  : Nat
  trail : Nat
  lat   : Nat
  deriving DecidableEq, Repr

/-- R10: a record of kind UNUSED has every other field 0. -/
def Station.empty : Station := ⟨.unused, 0, 0, 0, 0, 0, 0, 0, 0, 0⟩

/-- The 28 station records. -/
abbrev StationMap := Vector Station Config.stations

/-- The position unit (section 1.9). `inForce` is the map made by the last accepted START (R14). -/
structure Pos where
  enc      : EncPair
  tally    : Nat
  odo      : Nat
  winCount : Nat
  v        : Nat
  vref     : Nat
  overspd  : Bool
  map      : StationMap
  inForce  : Option StationMap
  deriving DecidableEq, Repr

/-- The 22 parameters, in the order of the PARAMS table (R204). -/
structure Params where
  loopLen        : Nat := 12000
  window         : Nat := 40
  vnom           : Nat := 100
  vmax           : Nat := 200
  gmin           : Nat := 60
  gmax           : Nat := 300
  otarget        : Nat := 30
  gain           : Nat := 2
  sampleDist     : Nat := 2000
  mergeInterval  : Nat := 3000
  spurLead       : Nat := 20
  releaseConfirm : Nat := 200
  mergeConfirm   : Nat := 300
  jamLen         : Nat := 240
  noreadLimit    : Nat := 8
  settleDist     : Nat := 64
  stallTime      : Nat := 500
  idleTime       : Nat := 120
  parkLimit      : Nat := 900
  wakeTime       : Nat := 800
  linkTimeout    : Nat := 10
  mgmtAddr       : Nat := 1
  deriving DecidableEq, Repr

/-! ## TRK: the tracking list (02) -/

/-- What a record is for (R19). -/
inductive Role
  | order | ret | hole
  deriving DecidableEq, Repr

/-- The return reasons (section 2.2) and, with NONE and DOUBT, the reasons of a RETURNED notice (R130). A record
that is not RETURN holds `none`. -/
inductive Reason
  | none | empty | cancelled | undeliverable | stray | phantom | crowded | size | doubt
  deriving DecidableEq, Repr

/-- The tracking states (R20). -/
inductive Track
  | riding | missing | unsure | verifying
  deriving DecidableEq, Repr

/-- The planning refusal reasons of chapter 5, with FAILED of R128. -/
inductive Refused
  | none | dark | unsure | hold | crowded | faulted | closed | halted | full | room | queue | shadow | late | failed
  deriving DecidableEq, Repr

/-- A tracking record (section 2.2). `id` is the model's own handle for the record (log 10). `watch` is the
record's passage watch, which FPL keeps (R102). The origin passage point is `anchor + L` (R22). -/
structure Rec where
  id       : Nat
  tote     : Option Nat
  role     : Role
  reason   : Reason
  ref      : Ref
  anchor   : Int
  len      : Nat
  dest     : Option Nat
  laps     : Nat
  st       : Track
  missed   : Nat
  doubt    : Nat
  doubtful : Bool
  crowded  : Bool
  deadline : Option Int
  expected : Option Nat
  refusal  : Refused
  watch    : Option Int
  deriving DecidableEq, Repr

/-- The tracking unit: the list in belt order, and its counters (R40). `nextId` is the next handle (log 10). -/
structure Trk where
  list   : List Rec
  nextId : Nat
  lost   : Nat
  jumps  : Nat
  deriving DecidableEq, Repr

/-! ## SGT: eyes, tags and sightings (03) -/

/-- The state of an eye's pass (R41). -/
inductive PassState
  | noPass | opened | awaiting
  deriving DecidableEq, Repr

/-- What a READ has resolved the open pass to (R41, R46). -/
inductive ReadRes
  | unread | seen (id : Nat) | closed
  deriving DecidableEq, Repr

/-- An eye record (R41). `crowded` is the crowded mark with its gap. -/
structure Eye where
  pass       : PassState
  lead       : Option Nat
  trail      : Option Nat
  noreadHeld : Bool
  res        : ReadRes
  crowded    : Option Nat
  jam        : Option Int
  blocked    : Bool
  tagLimit   : Option Int
  prevTrail  : Option Nat
  prevRec    : Option Nat
  deriving DecidableEq, Repr

/-- The initial values of an eye record (R41). -/
def Eye.initial : Eye :=
  ⟨.noPass, Option.none, Option.none, false, .unread, Option.none, Option.none, false, Option.none, Option.none, Option.none⟩

/-- A reader's window counts and health (R61). -/
structure ReaderWindow where
  passes   : Nat
  noreads  : Nat
  degraded : Bool
  deriving DecidableEq, Repr

/-- The sighting unit, its tables indexed by station index. -/
structure Sgt where
  eyes      : Vector (Option Eye) Config.stations
  windows   : Vector (Option ReaderWindow) Config.stations
  passes    : Vector Nat Config.stations
  noreads   : Vector Nat Config.stations
  strays    : Nat
  phantoms  : Nat
  deriving DecidableEq, Repr

/-! ## ORD: the order table (04) -/

/-- The state of an entry (R66). -/
inductive EntryState
  | waiting | riding | lost
  deriving DecidableEq, Repr

/-- An order entry (section 4.1). -/
structure Entry where
  tote     : Nat
  ref      : Ref
  lane     : Nat
  rush     : Bool
  lapLimit : Nat
  hold     : Bool
  st       : EntryState
  deriving DecidableEq, Repr

/-- The order table, in ascending order of tote number. -/
structure OrdTable where
  entries : List Entry
  deriving DecidableEq, Repr

/-! ## FPL: fires (05) -/

/-- The state of a fire (R90). -/
inductive FireState
  | planned | started | closing
  deriving DecidableEq, Repr

/-- A fire (R89): members by handle, open-start F, check point K, close-start C, close distance Dc. `checked` says
that its check point has been taken (R4). -/
structure Fire where
  members  : List Nat
  f        : Int
  k        : Int
  c        : Int
  dc       : Nat
  st       : FireState
  lateGate : Bool
  checked  : Bool
  deriving DecidableEq, Repr

/-- R88: the end point E is C + Dc. -/
def Fire.e (x : Fire) : Int := x.c + x.dc

/-- The fire planner: one queue per gate, and the misses counter of each lane (R103). -/
structure Fpl where
  queues : Vector (List Fire) Config.lanes
  misses : Vector Nat Config.lanes
  deriving DecidableEq, Repr

/-! ## GTC: gates (05) -/

/-- The state of a gate (R108). -/
inductive GateState
  | closed | opening | opened | closing | fault
  deriving DecidableEq, Repr

/-- The cause of a gate fault (R108). -/
inductive GateCause
  | none | openTimeout | closeTimeout | driveFault
  deriving DecidableEq, Repr

/-- A gate record (R108). `timer` holds the limit in ms of a running feedback timer. -/
structure Gate where
  st       : GateState
  timer    : Option Nat
  cause    : GateCause
  recovery : Bool
  deriving DecidableEq, Repr

/-- The gate controller: a record for each gate mapped in the map in force, and the spurious feedback counts. -/
structure Gtc where
  gates    : Vector (Option Gate) Config.lanes
  spurious : Vector Nat Config.lanes
  deriving DecidableEq, Repr

/-! ## LAN: lanes (06) -/

/-- A lane record (section 6.1). -/
structure LaneRec where
  cap      : Nat
  reserve  : Nat
  maxLen   : Nat
  ev       : Nat
  initOpen : Bool
  deriving DecidableEq, Repr

/-- The cause of a faulted flag (R121). -/
inductive LaneCause
  | gate | divert
  deriving DecidableEq, Repr

/-- The reported state of a lane (R122). -/
inductive LaneState
  | opened | full | halted | closed | faulted
  deriving DecidableEq, Repr

/-- One record of a verify list (R126). -/
structure VerifyEntry where
  who      : Nat
  deadline : Int
  late     : Bool
  deriving DecidableEq, Repr

/-- A lane: its record, occupancy, flags, reported state last computed, failed-divert streak, last lamp command,
verify list and counters (R134). -/
structure Lane where
  cfg        : LaneRec
  occ        : Nat
  closed     : Bool
  halted     : Bool
  faulted    : Option LaneCause
  reported   : LaneState
  streak     : Nat
  lampOn     : Bool
  verify     : List VerifyEntry
  deliveries : Nat
  failed     : Nat
  stray      : Nat
  underflows : Nat
  deriving DecidableEq, Repr

/-- The lane unit. -/
structure Lan where
  lanes : Vector Lane Config.lanes
  deriving DecidableEq, Repr

/-! ## IND and REG: induction and the spacing regulator (07) -/

/-- The standing of a pending READY (R136). -/
inductive Standing
  | candidate | heldNoread | heldNoOrder | heldDuplicate
  deriving DecidableEq, Repr

/-- A READY report: the tote number, or absent for NOREAD, and the measured length. -/
structure Ready where
  tote : Option Nat
  len  : Nat
  deriving DecidableEq, Repr

/-- The pending READY with its standing. -/
structure Pending where
  ready    : Ready
  standing : Standing
  deriving DecidableEq, Repr

/-- A release whose GO has been placed and whose RELEASED has not been taken (R136). -/
structure Release where
  tote    : Nat
  len     : Nat
  goOdo   : Nat
  confirm : Int
  deriving DecidableEq, Repr

/-- The induction unit (R136). -/
structure Ind where
  ready        : Option Pending
  last         : Option Ready
  outstanding  : Option Release
  releasePoint : Option Int
  holeWait     : Option Nat
  holePoint    : Option Int
  reject       : Bool
  deriving DecidableEq, Repr

/-- The regulator's mode (R150). -/
inductive RegMode
  | closed | frozen | manual
  deriving DecidableEq, Repr

/-- The spacing regulator (R150). -/
structure Reg where
  s       : Nat
  mode    : RegMode
  next    : Int
  lastN   : Nat
  lastE   : Int
  g       : Nat
  deriving DecidableEq, Repr

/-! ## MRG: the return spur (08) -/

/-- A merge grant (R155). -/
structure Grant where
  ready   : Ready
  goOdo   : Nat
  confirm : Int
  forced  : Bool
  deriving DecidableEq, Repr

/-- The state of the hole of a forced merge (R155). -/
inductive HoleState
  | none | requested | travelling
  deriving DecidableEq, Repr

/-- The merge unit (R155). `count` is the interval count, `since` the reference point of R165: the odometer at
which accrual last started, or the last end of interval (log 16). -/
structure Mrg where
  ready      : Option Ready
  last       : Option Ready
  grant      : Option Grant
  mergePoint : Option Int
  debt       : Int
  count      : Nat
  since      : Int
  interval   : Option Int
  hole       : HoleState
  arrival    : Option Int
  deriving DecidableEq, Repr

/-! ## RUN: run control (09) -/

/-- The run states (section 9.1). -/
inductive RunState
  | config | starting | running | parked | dark | resuming | fault
  deriving DecidableEq, Repr

/-- The resume rule (R171). -/
inductive Rule
  | auto | host
  deriving DecidableEq, Repr

/-- The causes of FAULT (R176). -/
inductive FaultCause
  | none | beltStall | beltReverse | eyeJam | gate
  deriving DecidableEq, Repr

/-- The further causes reported since FAULT was entered (R171), as a set. -/
structure Further where
  stall   : Bool
  reverse : Bool
  jam     : Bool
  gate    : Bool
  deriving DecidableEq, Repr

/-- The resume stage (R171). -/
inductive Stage
  | none | pending | lap
  deriving DecidableEq, Repr

/-- The cause of a STATE notice (R172). -/
inductive StateCause
  | start | settled | park | autoPark | resume | ready | dark | autoDark | lapEnd | allRead | clearFault
  | toConfig | trackReset | fault (c : FaultCause)
  deriving DecidableEq, Repr

/-- Run control (R171). Timers hold their limit in ms while they run. `belt` is the belt run output (R15).
`wakeCause` is the cause of the wake under way (R183). -/
structure Run where
  st        : RunState
  belt      : Bool
  rule      : Option Rule
  cause     : FaultCause
  detail    : Nat
  further   : Further
  asleep    : Bool
  stage     : Stage
  endPoint  : Option Int
  settle    : Option Int
  stall     : Option Nat
  idle      : Option Nat
  park      : Option Nat
  wake      : Option Nat
  wakeCause : Option StateCause
  deriving DecidableEq, Repr

/-! ## CMD, NTQ (11) and RNG (10) -/

/-- The tables the load pointer may name (R203). -/
inductive Table
  | stations | lanes | params
  deriving DecidableEq, Repr

/-- The last paged query (R208): QUERY STATUS, or QUERY LANE of a lane, and the page it gave. -/
structure PageRec where
  lane : Option Nat
  page : Nat
  deriving DecidableEq, Repr

/-- The command unit (R203, R207, R208). `link` holds the limit in ms of a running link timer. `resetWaiting` says
that a RESET DEVICE reply is waiting to leave (R187, R201). -/
structure Cmd where
  table        : Table
  index        : Nat
  link         : Option Nat
  hostless     : Bool
  page         : Option PageRec
  resetWaiting : Bool
  deriving DecidableEq, Repr

/-- The conditions of DARK, in the order they are checked (R181). -/
inductive DarkCond
  | gate | fire | debt | release | grant | verify
  deriving DecidableEq, Repr

/-- What a GATE notice is about (section 10.7). -/
inductive GateNote
  | lateGate (tote : Option Nat)
  | spurious (opened : Bool)
  | fault (cause : GateCause)
  deriving DecidableEq, Repr

/-- The cause of a LOST notice (R35). -/
inductive LostCause
  | deadline | resume
  deriving DecidableEq, Repr

/-- The cause of a DUPLICATE notice (section 10.7). -/
inductive DupCause
  | ready | confirm | merge
  deriving DecidableEq, Repr

/-- The notices, each with the data of section 10.7. -/
inductive Notice
  | delivered (tote : Option Nat) (ref : Ref) (lane laps : Nat) (confirmed late : Bool)
  | returned (tote : Option Nat) (role : Role) (reason : Reason) (ref : Ref) (laps : Nat) (confirmed late : Bool)
  | miss (tote : Option Nat) (role : Role) (dest laps : Nat) (reason : Refused) (ref : Ref) (late : Bool)
  | lost (tote : Option Nat) (role : Role) (reason : Reason) (ref : Ref) (pos missed : Nat) (cause : LostCause)
  | jump (tote : Option Nat) (station oldPos newPos : Nat)
  | stray (tote : Option Nat) (station pos : Nat)
  | phantom (station pos len : Nat)
  | untracked (tote : Option Nat) (station pos : Nat)
  | doubt (tote : Option Nat) (ref : Ref) (station : Nat)
  | duplicate (tote : Option Nat) (len : Nat) (cause : DupCause)
  | crowded (station gap : Nat) (prev tote : Option Nat)
  | undeliverable (tote : Option Nat) (ref : Ref) (lane laps : Nat) (reason : Refused)
  | size (tote : Option Nat) (ref : Ref) (lane len maxLen : Nat)
  | dropped (tote : Nat) (ref : Ref) (lane : Nat)
  | lane (lane : Nat) (st : LaneState) (cause : Option LaneCause) (occ : Nat)
  | strayEntry (lane occ : Nat)
  | gate (note : GateNote) (gate : Nat) (st : GateState)
  | noread (len : Nat)
  | noOrder (tote : Option Nat) (len : Nat)
  | inductTimeout (tote len goOdo : Nat)
  | forced (debt : Int) (len : Nat) (tote : Option Nat)
  | mergeTimeout (tote : Option Nat) (len goOdo : Nat) (forced : Bool)
  | state (old new : RunState) (cause : StateCause)
  | fault (cause : FaultCause) (detail : Nat) (st : RunState)
  | overspeed (v limit : Nat)
  | reader (station : Nat) (degraded : Bool) (noreads : Nat)
  | parkLong (cond : DarkCond) (limit : Nat)
  | hostless (set : Bool)
  | overflow (count : Nat)
  deriving DecidableEq, Repr

/-- A notice in the queue, with the odometer when it was queued (section 11.5). -/
structure Queued where
  odo    : Nat
  notice : Notice
  deriving DecidableEq, Repr

/-- The notice queue (R212 to R214). Bit `class - 1` of the mask enables a class. -/
structure Ntq where
  mask     : Byte
  queue    : List Queued
  overflow : Nat
  deriving DecidableEq, Repr

/-- The commands the part sends to stations (R195). -/
inductive CtlKind
  | gateOpen | gateClose | releaseGo | releaseReject | mergeGo | lampOn | lampOff | sleep | wake
  deriving DecidableEq, Repr

/-- A command of the control queue: its destination, a node address or 63, and its kind with payload. -/
structure Ctl where
  dst  : Nat
  kind : CtlKind
  deriving DecidableEq, Repr

/-- The result of a reply (section 10.7). -/
inductive Result
  | done | late | state | range | full | unknown | format | notEmpty | mapInvalid | gapTooSmall
  deriving DecidableEq, Repr

/-- A reply (R202). `resets` marks the reply of RESET DEVICE (R187). -/
structure Reply where
  op     : Nat
  tag    : Byte
  result : Result
  data   : List Byte
  resets : Bool
  deriving DecidableEq, Repr

/-- A frame without its CRC (section 10.7). -/
structure Frame where
  dst     : Nat
  src     : Nat
  hop     : Nat
  kind    : Nat
  payload : List Byte
  deriving DecidableEq, Repr

/-- What the frame being sent is (R198). -/
inductive SentAs
  | forwarded | command (kind : CtlKind) | reply (resets : Bool) | notice
  deriving DecidableEq, Repr

/-- The frame whose transmission is under way. -/
structure Sending where
  frame : Frame
  kind  : SentAs
  deriving DecidableEq, Repr

/-- The turn marker (R197). -/
inductive Turn
  | forward | own
  deriving DecidableEq, Repr

/-- The ring port (R190 to R200). `bypass` is the BYP pin: the port runs exactly while it is released. -/
structure Rng where
  bypass   : Bool
  forward  : List Frame
  control  : List Ctl
  replies  : List Reply
  turn     : Turn
  sending  : Option Sending
  crcDrops : Nat
  hopDrops : Nat
  fwdDrops : Nat
  unmapped : Nat
  cmdDrops : Nat
  deriving DecidableEq, Repr

/-- Which causes hold the part in reset (R186). -/
structure Held where
  resetn : Bool
  supply : Bool
  deriving DecidableEq, Repr

end Sys2Proof.Machine

namespace Sys2Proof.Machine

/-- The whole state: the fourteen blocks, the parameters, the two reset causes, the counter of the free values
(log 1), and the queue of commands that wait, first in, first out. -/
structure State where
  held    : Held
  pos     : Pos
  params  : Params
  sgt     : Sgt
  trk     : Trk
  ord     : OrdTable
  fpl     : Fpl
  gtc     : Gtc
  lan     : Lan
  ind     : Ind
  reg     : Reg
  mrg     : Mrg
  run     : Run
  cmd     : Cmd
  ntq     : Ntq
  rng     : Rng
  free    : Nat
  pending : List Instr
  deriving DecidableEq, Repr

/-- The default record of lanes 1..16 (section 6.1). -/
def LaneRec.default : LaneRec := ⟨6, 0, 255, 40, false⟩

/-- The default record of lane 0 (section 6.1). -/
def LaneRec.defaultReturn : LaneRec := ⟨12, 0, 255, 40, true⟩

/-- A lane after power-on (section 6.9): its closed flag follows the initial state of its record. -/
def Lane.reset (cfg : LaneRec) : Lane :=
  { cfg := cfg, occ := 0, closed := !cfg.initOpen, halted := false, faulted := Option.none,
    reported := if cfg.initOpen then .opened else .closed, streak := 0, lampOn := false, verify := [],
    deliveries := 0, failed := 0, stray := 0, underflows := 0 }

/-- POS after power-on (section 1.9). The encoder reference is the pair's state when the reset ends: 00 here
(DESIGN CHOICE, log 3). -/
def Pos.reset : Pos :=
  { enc := ⟨false, false⟩, tally := 0, odo := 0, winCount := 0, v := 0, vref := 100, overspd := false,
    map := Vector.replicate Config.stations Station.empty, inForce := Option.none }

/-- SGT after power-on (R41, R62, R64). -/
def Sgt.reset : Sgt :=
  { eyes := Vector.replicate Config.stations Option.none, windows := Vector.replicate Config.stations Option.none,
    passes := Vector.replicate Config.stations 0, noreads := Vector.replicate Config.stations 0,
    strays := 0, phantoms := 0 }

/-- LAN after power-on (R135). -/
def Lan.reset : Lan :=
  { lanes := (Vector.replicate Config.lanes (Lane.reset LaneRec.default)).setIfInBounds 0 (Lane.reset LaneRec.defaultReturn) }

/-- RUN after power-on (R171). -/
def Run.reset : Run :=
  { st := .config, belt := false, rule := Option.none, cause := .none, detail := 0,
    further := ⟨false, false, false, false⟩, asleep := false, stage := .none, endPoint := Option.none,
    settle := Option.none, stall := Option.none, idle := Option.none, park := Option.none, wake := Option.none,
    wakeCause := Option.none }

/-- RNG after power-on (R200): BYP is asserted until the port starts (R190). -/
def Rng.reset : Rng :=
  { bypass := true, forward := [], control := [], replies := [], turn := .forward, sending := Option.none,
    crcDrops := 0, hopDrops := 0, fwdDrops := 0, unmapped := 0, cmdDrops := 0 }

/-- The part right after a reset has ended: every block at its value after power-on, the ring port still waiting
for its 16 ms (R186, R190; log 2). -/
def State.reset : State :=
  { held := ⟨false, false⟩
    pos := Pos.reset
    params := {}
    sgt := Sgt.reset
    trk := { list := [], nextId := 0, lost := 0, jumps := 0 }
    ord := { entries := [] }
    fpl := { queues := Vector.replicate Config.lanes [], misses := Vector.replicate Config.lanes 0 }
    gtc := { gates := Vector.replicate Config.lanes Option.none, spurious := Vector.replicate Config.lanes 0 }
    lan := Lan.reset
    ind := { ready := Option.none, last := Option.none, outstanding := Option.none, releasePoint := Option.none,
             holeWait := Option.none, holePoint := Option.none, reject := false }
    reg := { s := 0, mode := .closed, next := 2000, lastN := 0, lastE := 0, g := 60 }
    mrg := { ready := Option.none, last := Option.none, grant := Option.none, mergePoint := Option.none, debt := 0,
             count := 0, since := 0, interval := Option.none, hole := .none, arrival := Option.none }
    run := Run.reset
    cmd := { table := .stations, index := 0, link := Option.none, hostless := false, page := Option.none,
             resetWaiting := false }
    ntq := { mask := 0xFF#8, queue := [], overflow := 0 }
    rng := Rng.reset
    free := 0
    pending := [] }

end Sys2Proof.Machine
end

