-- ==== Sys2Proof/Machine/Ops.lean ====
section
/-! DEFINITION. The named operations every block uses: tables, belt arithmetic, look-ups in the map in force, the
tracking list, the order table and the fire queues, and the placing of notices, commands and replies. -/

namespace Sys2Proof.Machine

/-! ## One update per block -/

def State.setHeld (s : State) (x : Held) : State := { s with held := x }
def State.setPos (s : State) (x : Pos) : State := { s with pos := x }
def State.setParams (s : State) (x : Params) : State := { s with params := x }
def State.setSgt (s : State) (x : Sgt) : State := { s with sgt := x }
def State.setTrk (s : State) (x : Trk) : State := { s with trk := x }
def State.setOrd (s : State) (x : OrdTable) : State := { s with ord := x }
def State.setFpl (s : State) (x : Fpl) : State := { s with fpl := x }
def State.setGtc (s : State) (x : Gtc) : State := { s with gtc := x }
def State.setLan (s : State) (x : Lan) : State := { s with lan := x }
def State.setInd (s : State) (x : Ind) : State := { s with ind := x }
def State.setReg (s : State) (x : Reg) : State := { s with reg := x }
def State.setMrg (s : State) (x : Mrg) : State := { s with mrg := x }
def State.setRun (s : State) (x : Run) : State := { s with run := x }
def State.setCmd (s : State) (x : Cmd) : State := { s with cmd := x }
def State.setNtq (s : State) (x : Ntq) : State := { s with ntq := x }
def State.setRng (s : State) (x : Rng) : State := { s with rng := x }
def State.setFree (s : State) (x : Nat) : State := { s with free := x }
def State.setPending (s : State) (x : List Instr) : State := { s with pending := x }

/-! ## Tables of fixed size -/

/-- The entry at an index, or `d` beyond the end. -/
def vget {α : Type} {n : Nat} (v : Vector α n) (i : Nat) (d : α) : α := v.toList.getD i d

/-- The table with the entry at an index replaced; beyond the end nothing changes. -/
def vset {α : Type} {n : Nat} (v : Vector α n) (i : Nat) (x : α) : Vector α n :=
  ⟨(v.toList.set i x).toArray, by simp⟩

/-- The table with `f` applied to every entry. -/
def vmap {α β : Type} {n : Nat} (f : α → β) (v : Vector α n) : Vector β n :=
  ⟨(v.toList.map f).toArray, by simp⟩

/-! ## Belt arithmetic (00 section 3.2) -/

/-- The odometer as a point of the belt timeline. -/
def now (s : State) : Int := s.pos.odo

/-- R4: a point stands and the odometer has reached it. -/
def due (p : Option Int) (s : State) : Bool :=
  match p with
  | some x => decide (x ≤ now s)
  | Option.none => false

/-- A position brought into 0..L-1. -/
def onLoop (l : Nat) (x : Int) : Int := x % l

/-- R21: the position of a record with anchor `a`. -/
def posOf (s : State) (a : Int) : Int := onLoop s.params.loopLen (now s - a)

/-- R23: the anchor normalised, so that the position lies in 0..L-1 (DEDUCED for differences of more than one loop
length: log 26). -/
def normAnchor (s : State) (a : Int) : Int := now s - posOf s a

/-- A circular difference, brought into -L/2..L/2-1 by adding or subtracting L (for an odd L: log 15). -/
def circ (l : Nat) (x : Int) : Int := (x + (l / 2 : Nat)) % l - (l / 2 : Nat)

/-- R86: the belt travel in `ms` at `v` counts per second, rounded up. -/
def swing (ms v : Nat) : Nat := (ms * v + 999) / 1000

/-- The distance from `p` down to the next `q`, above 0: L where they are the same (section 1.7). -/
def distDown (l p q : Nat) : Nat := if p < q then q - p else q + l - p

/-- R31: the UNSURE window, four times W capped at 1,020. -/
def unsureWindow (s : State) : Nat := min (4 * s.params.window) 1020

/-- R6: the measured speed brought into Vnom..Vmax. -/
def vrefOf (p : Params) (v : Nat) : Nat := min (max v p.vnom) p.vmax

/-! ## The map in force (R14) -/

/-- A record that stands for a gate (R10). -/
def Station.isDiverter (x : Station) : Bool := x.kind = .laneDiverter || x.kind = .returnDiverter

/-- R10: the gate of a lane diverter is numbered with its lane, the gate of the return diverter is gate 0. -/
def Station.isGate (g : Nat) (x : Station) : Bool :=
  if g = 0 then x.kind = .returnDiverter else x.kind = .laneDiverter && x.lane = g

/-- The records of a map with their indices. -/
def stationsOf (m : StationMap) : List (Station × Nat) := m.toList.zipIdx

/-- The records of the map in force with their indices; none before the first accepted START. -/
def inForce (s : State) : List (Station × Nat) :=
  match s.pos.inForce with
  | some m => stationsOf m
  | Option.none => []

/-- R14, the gate table: the diverter record of a gate, or none for an unmapped lane. -/
def gateRec (s : State) (g : Nat) : Option Station :=
  ((inForce s).find? fun x => x.1.isGate g).map (·.1)

/-- The record of the first station of a kind in the map in force. -/
def firstOf (s : State) (k : StationKind) : Option (Station × Nat) := (inForce s).find? fun x => x.1.kind = k

/-- R14: the merge point m. -/
def mergePos (s : State) : Nat := ((firstOf s .merge).map (·.1.pos)).getD 0

/-- Section 8.1: the slot point q, m less the spur lead. -/
def slotPos (s : State) : Nat := mergePos s - s.params.spurLead

/-- R14: the readers of the map in force. -/
def readers (s : State) : List (Station × Nat) := (inForce s).filter fun x => x.1.kind = .reader

/-- R14: the next reader downstream of a position, by index, with its distance. -/
def nextReader (s : State) (p : Nat) : Option (Nat × Nat) :=
  (readers s).foldl (fun best x =>
    let d := distDown s.params.loopLen p x.1.pos
    match best with
    | some (_, bd) => if d < bd then some (x.2, d) else best
    | Option.none => some (x.2, d)) Option.none

/-- R67: a lane is mapped when the map in force holds a LANE DIVERTER record with that number. -/
def laneMapped (s : State) (n : Nat) : Bool := n ≠ 0 && (gateRec s n).isSome

/-- The station record at an index of the map in force. -/
def stationAt (s : State) (i : Nat) : Station :=
  match s.pos.inForce with
  | some m => vget m i Station.empty
  | Option.none => Station.empty

/-! ## Notices (R212, R213) -/

/-- The class of a notice (section 10.7). -/
def Notice.cls : Notice → Nat
  | .delivered .. | .returned .. => 1
  | .miss .. => 2
  | .lost .. | .jump .. | .stray .. | .phantom .. | .untracked .. | .doubt .. | .crowded .. | .undeliverable ..
  | .size .. | .dropped .. => 3
  | .duplicate _ _ c => match c with | .merge => 3 | .ready | .confirm => 6
  | .lane .. | .strayEntry .. => 4
  | .gate .. => 5
  | .noread .. | .noOrder .. | .inductTimeout .. => 6
  | .forced .. | .mergeTimeout .. => 7
  | .state .. | .fault .. | .overspeed .. | .reader .. | .parkLong .. | .hostless .. => 8
  | .overflow .. => 0

/-- R212: class 0 cannot be masked; the others are enabled by bit class - 1. -/
def Ntq.enabled (q : Ntq) (cls : Nat) : Bool := cls = 0 || q.mask.getLsbD (cls - 1)

/-- R212, R213: a block queues a notice. -/
def notify (n : Notice) (s : State) : State :=
  if s.ntq.enabled n.cls then
    if s.ntq.queue.length < Config.maxNotices then
      s.setNtq { s.ntq with queue := s.ntq.queue ++ [⟨s.pos.odo, n⟩] }
    else s.setNtq { s.ntq with overflow := satInc 255 s.ntq.overflow }
  else s

/-! ## The control and reply queues (R195, R202) -/

/-- R195: a block places a command: it replaces an unsent command with the same destination in its place, or joins
the end, also where 40 stand in the queue already (DESIGN CHOICE, log 46). -/
def placeControl (c : Ctl) (s : State) : State :=
  let q := s.rng.control
  if q.any (fun x => x.dst = c.dst) then
    s.setRng { s.rng with control := q.map fun x => if x.dst = c.dst then c else x }
  else s.setRng { s.rng with control := q ++ [c] }

/-- R202: CMD places a reply. -/
def placeReply (r : Reply) (s : State) : State := s.setRng { s.rng with replies := s.rng.replies ++ [r] }

/-- Place a command for the node of the first station of a kind in the map in force. -/
def placeForKind (k : StationKind) (c : CtlKind) (s : State) : State :=
  match firstOf s k with
  | some x => placeControl ⟨x.1.prim, c⟩ s
  | Option.none => s

/-- The broadcast destination (00 section 3.1). -/
abbrev broadcast : Nat := 63

/-- R9, R193: a frame from no known station, or of a kind not accepted, is counted with the unmapped frames. -/
def countUnmapped (s : State) : State := s.setRng { s.rng with unmapped := satInc counterMax s.rng.unmapped }

/-- R193, R201: a command that is dropped is counted. -/
def countCmdDrop (s : State) : State := s.setRng { s.rng with cmdDrops := satInc counterMax s.rng.cmdDrops }

/-! ## The tracking list -/

/-- R16: a record of role ORDER or RETURN stands for a tote. -/
def Rec.isTote (r : Rec) : Bool := r.role ≠ .hole

/-- R16: the number of tote records. -/
def toteCount (s : State) : Nat := s.trk.list.countP Rec.isTote

/-- R16: whether a hole is present. -/
def holePresent (s : State) : Bool := s.trk.list.any fun r => r.role = .hole

/-- The record with a handle, if it is still in the list. -/
def findRec (s : State) (id : Nat) : Option Rec := s.trk.list.find? fun r => r.id = id

/-- The record that carries a tote number (R18). -/
def carrier (s : State) (t : Nat) : Option Rec := s.trk.list.find? fun r => r.tote = some t

/-- Change the fields of one record in place (R29). -/
def modRec (id : Nat) (f : Rec → Rec) (s : State) : State :=
  s.setTrk { s.trk with list := s.trk.list.map fun r => if r.id = id then f r else r }

/-- R17: seat a record behind every record whose position is equal to or higher than its own, and ahead of every
record whose position is lower. A position is higher exactly when the anchor is lower. -/
def seatIn (r : Rec) (l : List Rec) : List Rec :=
  let rest := l.filter fun x => x.id ≠ r.id
  rest.takeWhile (fun x => x.anchor ≤ r.anchor) ++ r :: rest.dropWhile (fun x => x.anchor ≤ r.anchor)

/-- Seat a record of the list with a new anchor (R17, R23). -/
def reseat (id : Nat) (anchor : Int) (s : State) : State :=
  match findRec s id with
  | some r => s.setTrk { s.trk with list := seatIn { r with anchor := anchor } s.trk.list }
  | Option.none => s

/-- The records of a set of handles, in belt order. -/
def inBeltOrder (s : State) (ids : List Nat) : List Nat :=
  (s.trk.list.filter fun r => ids.contains r.id).map (·.id)

/-- The records still UNSURE. -/
def unsureLeft (s : State) : Bool := s.trk.list.any fun r => r.st = .unsure

/-! ## The order table -/

/-- The entry for a tote number. -/
def findEntry (s : State) (t : Nat) : Option Entry := s.ord.entries.find? fun e => e.tote = t

/-- The entries with one entry put in its place in ascending order, in place of one with the same number. -/
def putEntryIn (e : Entry) : List Entry → List Entry
  | [] => [e]
  | x :: xs => if e.tote < x.tote then e :: x :: xs else if e.tote = x.tote then e :: xs else x :: putEntryIn e xs

/-- R69: create an entry or replace the one with its number. -/
def putEntry (e : Entry) (s : State) : State := s.setOrd { entries := putEntryIn e s.ord.entries }

/-- R80: remove the entry for a number. -/
def removeEntry (t : Nat) (s : State) : State := s.setOrd { entries := s.ord.entries.filter fun e => e.tote ≠ t }

/-- R66: change the state of the entry for a number. -/
def setEntryState (t : Nat) (st : EntryState) (s : State) : State :=
  s.setOrd { entries := s.ord.entries.map fun e => if e.tote = t then { e with st := st } else e }

/-- R65: the number of entries in a state. -/
def entryCount (s : State) (st : EntryState) : Nat := s.ord.entries.countP fun e => e.st = st

/-- What becomes of the entry of an ORDER record that turns back or leaves (R66). -/
inductive EntryFate
  | removed | waiting | lost
  deriving DecidableEq, Repr

/-- R80 to R82: apply a fate to the entry linked to a record. -/
def settleEntry (r : Rec) (fate : EntryFate) (s : State) : State :=
  match r.role, r.tote with
  | .order, some t =>
    match fate with
    | .removed => removeEntry t s
    | .waiting => setEntryState t .waiting s
    | .lost => setEntryState t .lost s
  | _, _ => s

/-- The entry linked to an ORDER record. -/
def linkedEntry (s : State) (r : Rec) : Option Entry :=
  match r.role, r.tote with
  | .order, some t => findEntry s t
  | _, _ => Option.none

/-! ## Fire queues and gates -/

/-- The queue of a gate. -/
def queueOf (s : State) (g : Nat) : List Fire := vget s.fpl.queues g []

/-- Replace the queue of a gate. -/
def setQueue (g : Nat) (q : List Fire) (s : State) : State :=
  s.setFpl { s.fpl with queues := vset s.fpl.queues g q }

/-- R89: the gate and the fire of which a record is a member. -/
def fireOf (s : State) (id : Nat) : Option (Nat × Fire) :=
  s.fpl.queues.toList.zipIdx.findSome? fun q => (q.1.find? fun f => f.members.contains id).map fun f => (q.2, f)

/-- R73: a fire that serves the record is STARTED or CLOSING. -/
def startedFire (s : State) (id : Nat) : Bool :=
  match fireOf s id with
  | some (_, f) => f.st ≠ .planned
  | Option.none => false

/-- R89: a member of a PLANNED or STARTED fire has that fire. -/
def hasFire (s : State) (id : Nat) : Bool :=
  match fireOf s id with
  | some (_, f) => f.st ≠ .closing
  | Option.none => false

/-- The gate record of a gate, if it is mapped. -/
def gateOf (s : State) (g : Nat) : Option Gate := vget s.gtc.gates g Option.none

/-- Replace a gate record. -/
def setGate (g : Nat) (x : Gate) (s : State) : State :=
  s.setGtc { s.gtc with gates := vset s.gtc.gates g (some x) }

/-! ## Lanes -/

/-- A lane of the lane table. -/
def laneOf (s : State) (n : Nat) : Lane := vget s.lan.lanes n (Lane.reset LaneRec.default)

/-- Replace a lane's fields, with no further effect. -/
def modLane (n : Nat) (f : Lane → Lane) (s : State) : State :=
  s.setLan { s.lan with lanes := vset s.lan.lanes n (f (laneOf s n)) }

/-- R125: LAN sends a lamp command to the lane node of a mapped lane, and keeps it as the last one sent. -/
def sendLamp (n : Nat) (on : Bool) (s : State) : State :=
  match gateRec s n with
  | some d => modLane n (fun l => { l with lampOn := on }) (placeControl ⟨d.sec, if on then .lampOn else .lampOff⟩ s)
  | Option.none => s

/-! ## Eyes -/

/-- The eye record of a station index. -/
def eyeOf (s : State) (i : Nat) : Option Eye := vget s.sgt.eyes i Option.none

/-- Replace an eye record. -/
def setEye (i : Nat) (e : Eye) (s : State) : State :=
  s.setSgt { s.sgt with eyes := vset s.sgt.eyes i (some e) }

/-- An eye belongs to each INDUCT, READER or MERGE record (section 3.1). -/
def Station.hasEye (x : Station) : Bool := x.kind = .induct || x.kind = .reader || x.kind = .merge

end Sys2Proof.Machine
end

