-- ==== Sys2Proof/Machine/Operands.lean ====
section
/-! DEFINITION. Every operand form of section 10.7: byte order, the frame with its CRC and its check, station and
lane records, the codes of enumerated fields, and the data of notices. -/

namespace Sys2Proof.Machine

/-! ## Bytes (multi-byte numbers are sent high byte first) -/

/-- `n` in `k` bytes, high byte first. -/
def bytesOf : Nat → Nat → List Byte
  | 0, _ => []
  | k + 1, n => BitVec.ofNat 8 (n / 256 ^ k) :: bytesOf k n

/-- The number a byte holds; beyond the end, 0. -/
def byteAt (bs : List Byte) (i : Nat) : Nat := (bs.getD i 0#8).toNat

/-- The two-byte number at an index. -/
def wordAt (bs : List Byte) (i : Nat) : Nat := 256 * byteAt bs i + byteAt bs (i + 1)

/-- The four-byte order reference at an index. -/
def refAt (bs : List Byte) (i : Nat) : Ref := BitVec.ofNat 32 (65536 * wordAt bs i + wordAt bs (i + 2))

/-- A tote number, 0 for an absent one. -/
def toteBytes (t : Option Nat) : List Byte := bytesOf 2 (t.getD 0)

/-- An order reference. -/
def refBytes (r : Ref) : List Byte := bytesOf 4 r.toNat

/-- An odometer value in 5 bytes, 0 for none (R209, R210). -/
def pointBytes (p : Option Int) : List Byte := bytesOf 5 ((p.getD 0).toNat)

/-- A signed value in one byte, two's complement. -/
def signedByte (x : Int) : List Byte := [BitVec.ofInt 8 x]

/-- A yes/no item: 0 no, 1 yes. -/
def flagByte (b : Bool) : List Byte := [if b then 1#8 else 0#8]

/-- A tote number as a report carries it: 0 or above 4094 is NOREAD (R46, R137, R156). -/
def readNumber (t : Nat) : Option Nat := if t = 0 ∨ Config.maxTote < t then Option.none else some t

/-! ## Codes (section 10.7 and section 11.1) -/

def Role.code : Role → Nat
  | .order => 1 | .ret => 2 | .hole => 3
def Reason.code : Reason → Nat
  | .none => 0 | .empty => 1 | .cancelled => 2 | .undeliverable => 3 | .stray => 4 | .phantom => 5 | .crowded => 6
  | .size => 7 | .doubt => 8
def Refused.code : Refused → Nat
  | .none => 0 | .dark => 1 | .unsure => 2 | .hold => 3 | .crowded => 4 | .faulted => 5 | .closed => 6 | .halted => 7
  | .full => 8 | .room => 9 | .queue => 10 | .shadow => 11 | .late => 12 | .failed => 13
def LaneState.code : LaneState → Nat
  | .opened => 1 | .full => 2 | .halted => 3 | .closed => 4 | .faulted => 5
def laneCauseCode : Option LaneCause → Nat
  | Option.none => 0 | some .gate => 1 | some .divert => 2
def GateState.code : GateState → Nat
  | .closed => 1 | .opening => 2 | .opened => 3 | .closing => 4 | .fault => 5
def GateCause.code : GateCause → Nat
  | .none => 0 | .openTimeout => 1 | .closeTimeout => 2 | .driveFault => 3
def RunState.code : RunState → Nat
  | .config => 1 | .starting => 2 | .running => 3 | .parked => 4 | .dark => 5 | .resuming => 6 | .fault => 7
def FaultCause.code : FaultCause → Nat
  | .none => 0 | .beltStall => 1 | .beltReverse => 2 | .eyeJam => 3 | .gate => 4
def StateCause.code : StateCause → Nat
  | .start => 1 | .settled => 2 | .park => 3 | .autoPark => 4 | .resume => 5 | .ready => 6 | .dark => 7
  | .autoDark => 8 | .lapEnd => 9 | .allRead => 10 | .clearFault => 11 | .toConfig => 12 | .trackReset => 13
  | .fault c => 13 + c.code
def DarkCond.code : DarkCond → Nat
  | .gate => 1 | .fire => 2 | .debt => 3 | .release => 4 | .grant => 5 | .verify => 6
def Result.code : Result → Nat
  | .done => 1 | .late => 2 | .state => 3 | .range => 4 | .full => 5 | .unknown => 6 | .format => 7 | .notEmpty => 8
  | .mapInvalid => 9 | .gapTooSmall => 10
def EntryState.code : EntryState → Nat
  | .waiting => 1 | .riding => 2 | .lost => 3
def Track.code : Track → Nat
  | .riding => 1 | .missing => 2 | .unsure => 3 | .verifying => 4
def ruleCode : Option Rule → Nat
  | Option.none => 0 | some .auto => 1 | some .host => 2
def Stage.code : Stage → Nat
  | .none => 0 | .pending => 1 | .lap => 2
def FireState.code : FireState → Nat
  | .planned => 1 | .started => 2 | .closing => 3
def RegMode.code : RegMode → Nat
  | .closed => 1 | .frozen => 2 | .manual => 3
def HoleState.code : HoleState → Nat
  | .none => 0 | .requested => 1 | .travelling => 2
def Table.code : Table → Nat
  | .stations => 1 | .lanes => 2 | .params => 3
def LostCause.code : LostCause → Nat
  | .deadline => 1 | .resume => 2
def DupCause.code : DupCause → Nat
  | .ready => 1 | .confirm => 2 | .merge => 3

/-! ## Notices -/

/-- The code of a notice (section 10.7). -/
def Notice.code : Notice → Nat
  | .delivered .. => 1 | .returned .. => 2 | .miss .. => 3 | .lost .. => 4 | .jump .. => 5 | .stray .. => 6
  | .phantom .. => 7 | .untracked .. => 8 | .doubt .. => 9 | .duplicate .. => 10 | .crowded .. => 11
  | .undeliverable .. => 12 | .size .. => 13 | .dropped .. => 14 | .lane .. => 15 | .strayEntry .. => 16
  | .gate .. => 17 | .noread .. => 18 | .noOrder .. => 19 | .inductTimeout .. => 20 | .forced .. => 21
  | .mergeTimeout .. => 22 | .state .. => 23 | .fault .. => 24 | .overspeed .. => 25 | .reader .. => 26
  | .parkLong .. => 27 | .hostless .. => 28 | .overflow .. => 29

/-- The confirmation code: 1 CONFIRMED, 2 UNCONFIRMED. -/
def confirmByte (b : Bool) : List Byte := [if b then 1#8 else 2#8]

/-- The data of a notice, in the order section 10.7 gives. -/
def Notice.data : Notice → List Byte
  | .delivered t r ln laps c l => toteBytes t ++ refBytes r ++ bytesOf 1 ln ++ bytesOf 1 laps ++ confirmByte c ++ flagByte l
  | .returned t role reason r laps c l =>
      toteBytes t ++ bytesOf 1 role.code ++ bytesOf 1 reason.code ++ refBytes r ++ bytesOf 1 laps ++ confirmByte c ++ flagByte l
  | .miss t role d laps reason r l =>
      toteBytes t ++ bytesOf 1 role.code ++ bytesOf 1 d ++ bytesOf 1 laps ++ bytesOf 1 reason.code ++ refBytes r ++ flagByte l
  | .lost t role reason r p m c =>
      toteBytes t ++ bytesOf 1 role.code ++ bytesOf 1 reason.code ++ refBytes r ++ bytesOf 2 p ++ bytesOf 1 m ++ bytesOf 1 c.code
  | .jump t i o n => toteBytes t ++ bytesOf 1 i ++ bytesOf 2 o ++ bytesOf 2 n
  | .stray t i p => toteBytes t ++ bytesOf 1 i ++ bytesOf 2 p
  | .phantom i p l => bytesOf 1 i ++ bytesOf 2 p ++ bytesOf 1 l
  | .untracked t i p => toteBytes t ++ bytesOf 1 i ++ bytesOf 2 p
  | .doubt t r i => toteBytes t ++ refBytes r ++ bytesOf 1 i
  | .duplicate t l c => toteBytes t ++ bytesOf 1 l ++ bytesOf 1 c.code
  | .crowded i g p t => bytesOf 1 i ++ bytesOf 2 g ++ toteBytes p ++ toteBytes t
  | .undeliverable t r ln laps reason => toteBytes t ++ refBytes r ++ bytesOf 1 ln ++ bytesOf 1 laps ++ bytesOf 1 reason.code
  | .size t r ln l m => toteBytes t ++ refBytes r ++ bytesOf 1 ln ++ bytesOf 1 l ++ bytesOf 1 m
  | .dropped t r ln => bytesOf 2 t ++ refBytes r ++ bytesOf 1 ln
  | .lane n st c occ => bytesOf 1 n ++ bytesOf 1 st.code ++ bytesOf 1 (laneCauseCode c) ++ bytesOf 1 occ
  | .strayEntry n occ => bytesOf 1 n ++ bytesOf 1 occ
  | .gate note g st =>
      match note with
      | .lateGate t => bytesOf 1 1 ++ bytesOf 1 g ++ bytesOf 1 st.code ++ toteBytes t
      | .spurious o => bytesOf 1 2 ++ bytesOf 1 g ++ bytesOf 1 st.code ++ bytesOf 2 (if o then 1 else 2)
      | .fault c => bytesOf 1 3 ++ bytesOf 1 g ++ bytesOf 1 st.code ++ bytesOf 2 c.code
  | .noread l => bytesOf 1 l
  | .noOrder t l => toteBytes t ++ bytesOf 1 l
  | .inductTimeout t l o => bytesOf 2 t ++ bytesOf 1 l ++ bytesOf 5 o
  | .forced d l t => signedByte d ++ bytesOf 1 l ++ toteBytes t
  | .mergeTimeout t l o f => toteBytes t ++ bytesOf 1 l ++ bytesOf 5 o ++ bytesOf 1 (if f then 2 else 1)
  | .state o n c => bytesOf 1 o.code ++ bytesOf 1 n.code ++ bytesOf 1 c.code
  | .fault c d st => bytesOf 1 c.code ++ bytesOf 1 d ++ bytesOf 1 st.code
  | .overspeed v l => bytesOf 2 v ++ bytesOf 2 l
  | .reader i d n => bytesOf 1 i ++ bytesOf 1 (if d then 2 else 1) ++ bytesOf 1 n
  | .parkLong c l => bytesOf 1 c.code ++ bytesOf 2 l
  | .hostless b => bytesOf 1 (if b then 1 else 2)
  | .overflow n => bytesOf 1 n

/-- The payload of a NOTICE frame: code, class, odometer when queued, data. -/
def Queued.payload (q : Queued) : List Byte :=
  bytesOf 1 q.notice.code ++ bytesOf 1 q.notice.cls ++ bytesOf 5 q.odo ++ q.notice.data

/-- The payload of a REPLY frame: operation, tag, result, data. -/
def Reply.payload (r : Reply) : List Byte := bytesOf 1 r.op ++ [r.tag] ++ bytesOf 1 r.result.code ++ r.data

/-! ## Frames -/

/-- The kind codes of section 10.7. -/
abbrev kEye : Nat := 16
abbrev kTag : Nat := 17
abbrev kLane : Nat := 18
abbrev kGate : Nat := 19
abbrev kInduct : Nat := 20
abbrev kSpur : Nat := 21
abbrev kGateSet : Nat := 32
abbrev kRelease : Nat := 33
abbrev kMergeGo : Nat := 34
abbrev kLamp : Nat := 35
abbrev kSleep : Nat := 36
abbrev kWake : Nat := 37
abbrev kCommand : Nat := 48
abbrev kReply : Nat := 49
abbrev kNotice : Nat := 50

/-- The kind code of a command to a station. -/
def CtlKind.code : CtlKind → Nat
  | .gateOpen | .gateClose => kGateSet
  | .releaseGo | .releaseReject => kRelease
  | .mergeGo => kMergeGo
  | .lampOn | .lampOff => kLamp
  | .sleep => kSleep
  | .wake => kWake

/-- Its payload. -/
def CtlKind.payload : CtlKind → List Byte
  | .gateOpen | .releaseGo | .lampOn => [1#8]
  | .gateClose | .releaseReject | .lampOff => [2#8]
  | .mergeGo | .sleep | .wake => []

/-- R191: one byte through the CRC register, most significant bit first. -/
def crcBits : Nat → BitVec 16 → BitVec 16
  | 0, r => r
  | n + 1, r => crcBits n (if r.msb then (r <<< 1) ^^^ 0x1021#16 else r <<< 1)

/-- R191: the CRC over bytes in the order they are sent, from a register preset to all ones. -/
def crcOf (bs : List Byte) : BitVec 16 :=
  bs.foldl (fun (r : BitVec 16) (b : Byte) => crcBits 8 (r ^^^ ((b.setWidth 16) <<< (8 : Nat)))) 0xFFFF#16

/-- The header and payload of a frame, in the order sent. -/
def Frame.body (x : Frame) : List Byte :=
  bytesOf 1 x.dst ++ bytesOf 1 x.src ++ bytesOf 1 x.hop ++ bytesOf 1 x.kind ++ bytesOf 1 x.payload.length ++ x.payload

/-- The bytes of a frame on the ring: RNG computes the CRC of every frame it sends (R191). -/
def Frame.bytes (x : Frame) : List Byte := x.body ++ bytesOf 2 (crcOf x.body).toNat

/-- R191: the payload length its kind gives. -/
def payloadLengthOk (kind : Nat) (p : List Byte) : Bool :=
  let n := p.length
  match kind with
  | 16 | 18 | 19 | 32 | 33 | 35 => n = 1
  | 17 => n = 3
  | 20 | 21 => if byteAt p 0 = 1 then n = 4 else n = 1
  | 34 | 36 | 37 => n = 0
  | 48 => 2 ≤ n
  | 49 => 3 ≤ n
  | 50 => 7 ≤ n
  | _ => false

/-- The code fields in the data of a notice: offset, lowest and highest code (section 10.7). The detail of FAULT is taken as
a number, not as a code (DESIGN CHOICE, log 45). -/
def noticeCodeFields : Nat → List (Nat × Nat × Nat)
  | 1 => [(8, 1, 2), (9, 0, 1)]
  | 2 => [(2, 1, 3), (3, 0, 8), (9, 1, 2), (10, 0, 1)]
  | 3 => [(2, 1, 3), (5, 0, 13), (10, 0, 1)]
  | 4 => [(2, 1, 3), (3, 0, 8), (11, 1, 2)]
  | 10 => [(3, 1, 3)]
  | 12 => [(8, 0, 13)]
  | 15 => [(1, 1, 5), (2, 0, 2)]
  | 17 => [(0, 1, 3), (2, 1, 5)]
  | 22 => [(8, 1, 2)]
  | 23 => [(0, 1, 7), (1, 1, 7), (2, 1, 17)]
  | 24 => [(0, 0, 4), (2, 1, 7)]
  | 26 => [(1, 1, 2)]
  | 27 => [(0, 1, 6)]
  | 28 => [(0, 1, 2)]
  | _ => []

/-- The item of a GATE notice: the feedback of kind SPURIOUS, the fault cause of kind FAULT, and of kind LATE_GATE a tote
number, which is no code (section 10.7). -/
def gateItemOk (kind item : Nat) : Bool :=
  match kind with
  | 2 => 1 ≤ item && item ≤ 3
  | 3 => item ≤ 3
  | _ => true

/-- Every code field of a notice that its payload reaches holds a listed code. Class 0 passes under every notice (DESIGN
CHOICE, log 45), and which fields are codes is the reading of log 23. -/
def noticeCodesOk (p : List Byte) : Bool :=
  let code := byteAt p 0
  (1 ≤ code && code ≤ 29) && byteAt p 1 ≤ 8 &&
    ((noticeCodeFields code).all fun x =>
      p.length ≤ 7 + x.1 || (x.2.1 ≤ byteAt p (7 + x.1) && byteAt p (7 + x.1) ≤ x.2.2)) &&
    (code ≠ 17 || p.length < 12 || gateItemOk (byteAt p 7) (wordAt p 10))

/-- R191: the payload fields that are codes hold listed values; a COMMAND's are left to CMD. A READY of length 0
fails too. -/
def payloadCodesOk (kind : Nat) (p : List Byte) : Bool :=
  let c := byteAt p 0
  match kind with
  | 16 | 17 | 32 | 33 | 35 => 1 ≤ c && c ≤ 2
  | 18 => 1 ≤ c && c ≤ 4
  | 19 => 1 ≤ c && c ≤ 3
  | 20 | 21 => (1 ≤ c && c ≤ 3) && (c ≠ 1 || byteAt p 3 ≠ 0)
  | 49 => (1 ≤ c && c ≤ 22) && 1 ≤ byteAt p 2 && byteAt p 2 ≤ 10
  | 50 => noticeCodesOk p
  | _ => true

/-- R191: the frame check. `missing` says that a byte lacked its stop bit. -/
def frameOf (missing : Bool) (bs : List Byte) : Option Frame :=
  let n := bs.length
  let payload := (bs.drop 5).take (n - 7)
  let kind := byteAt bs 3
  if missing then Option.none
  else if n < 7 || 31 < n then Option.none
  else if 24 < byteAt bs 4 || byteAt bs 4 ≠ n - 7 then Option.none
  else if (crcOf (bs.take (n - 2))).toNat ≠ wordAt bs (n - 2) then Option.none
  else if 63 < byteAt bs 0 || 63 < byteAt bs 1 || 63 < byteAt bs 2 then Option.none
  else if !payloadLengthOk kind payload then Option.none
  else if !payloadCodesOk kind payload then Option.none
  else some ⟨byteAt bs 0, byteAt bs 1, byteAt bs 2, kind, payload⟩

/-! ## Records of the host's tables -/

/-- The kind of a station record by its code. -/
def stationKindOf : Nat → Option StationKind
  | 0 => some .unused | 1 => some .induct | 2 => some .reader | 3 => some .laneDiverter | 4 => some .merge
  | 5 => some .returnDiverter | _ => Option.none

/-- The 11 bytes of a station record. -/
def stationOf (bs : List Byte) : Option Station :=
  (stationKindOf (byteAt bs 0 / 16)).map fun k =>
    { kind := k, pos := wordAt bs 1, prim := byteAt bs 3, sec := byteAt bs 4, lane := byteAt bs 5
      so := byteAt bs 6 * 16 + byteAt bs 7 / 16, sc := byteAt bs 7 % 16 * 256 + byteAt bs 8
      lead := byteAt bs 9, trail := byteAt bs 10, lat := byteAt bs 0 % 16 }

/-- R10: the fields that apply to the kind lie in their ranges, the others are 0. -/
def stationOk (x : Station) : Bool :=
  let used := x.pos ≤ 64999 && 1 ≤ x.prim && x.prim ≤ 62 && x.lat ≤ 15
  let gate := 1 ≤ x.sec && x.sec ≤ 62 && 20 ≤ x.so && x.so ≤ 400 && 20 ≤ x.sc && x.sc ≤ 400 && x.lead ≤ 63 && x.trail ≤ 63
  let plain := x.sec = 0 && x.lane = 0 && x.so = 0 && x.sc = 0 && x.lead = 0 && x.trail = 0
  match x.kind with
  | .unused => x = Station.empty
  | .induct | .reader | .merge => used && plain
  | .laneDiverter => used && gate && 1 ≤ x.lane && x.lane ≤ 16
  | .returnDiverter => used && gate && x.lane = 0

/-- The 5 bytes of a lane record; none where the initial state is no code. -/
def laneRecOf (bs : List Byte) : Option LaneRec :=
  let mk := fun (o : Bool) => (⟨byteAt bs 0, byteAt bs 1, byteAt bs 2, byteAt bs 3, o⟩ : LaneRec)
  if byteAt bs 4 = 1 then some (mk true) else if byteAt bs 4 = 2 then some (mk false) else Option.none

/-- R115: the ranges of a lane record; 255 for lane 0. -/
def laneRecOk (n : Nat) (x : LaneRec) : Bool :=
  1 ≤ x.cap && x.cap ≤ 12 && x.reserve ≤ 2 && x.reserve < x.cap && 60 ≤ x.maxLen && x.maxLen ≤ 255 &&
    8 ≤ x.ev && x.ev ≤ 255 && (n ≠ 0 || x.maxLen = 255)

/-- The number of bytes of one record of a table. -/
def Table.recordBytes : Table → Nat
  | .stations => 11 | .lanes => 5 | .params => 2

/-- The number of records of a table. -/
def Table.size : Table → Nat
  | .stations => 28 | .lanes => 17 | .params => 22

end Sys2Proof.Machine
end

