-- ==== Sys2Proof/Machine/Flags.lean ====
section
/-! DEFINITION. The computed conditions and flags: FULL and the reported state of a lane, the belt run output, the
DARK conditions, the overspeed limit, the gap target. -/

namespace Sys2Proof.Machine

/-- R118: a lane is FULL while its occupancy is at or above its capacity. -/
def Lane.full (x : Lane) : Bool := x.cfg.cap ≤ x.occ

/-- One of the three flags is set. -/
def Lane.flagged (x : Lane) : Bool := x.faulted.isSome || x.closed || x.halted

/-- R122: the reported state: the first of FAULTED, CLOSED, HALTED, FULL, OPEN that holds. -/
def Lane.computed (x : Lane) : LaneState :=
  if x.faulted.isSome then .faulted else if x.closed then .closed else if x.halted then .halted
  else if x.full then .full else .opened

/-- R122: a flag that was clear is set. -/
def flagRaised (old new : Lane) : Bool :=
  (!old.faulted.isSome && new.faulted.isSome) || (!old.closed && new.closed) || (!old.halted && new.halted)

/-- R122: a flag that was set is clear. -/
def flagDropped (old new : Lane) : Bool :=
  (old.faulted.isSome && !new.faulted.isSome) || (old.closed && !new.closed) || (old.halted && !new.halted)

/-- R15: the run states in which the belt run output is asserted. The stall timer runs in the same ones (R175). -/
def RunState.beltOn : RunState → Bool
  | .starting | .running | .resuming => true
  | .config | .parked | .dark | .fault => false

/-- R7: the overspeed limit. -/
def overspeedLimit (p : Params) : Nat := p.vmax + p.vmax / 8

/-- R152: the gap target. -/
def gapTarget (p : Params) (s : Nat) : Nat := min (p.gmin + s / 4) p.gmax

/-- R172: what RUN answers the fire planner's DARK check. -/
def planningDark (r : Run) : Bool := r.st = .dark || r.asleep || r.stage = .pending

/-- R181: the first condition of DARK that fails. -/
def darkFails (s : State) : Option DarkCond :=
  if s.gtc.gates.toList.any (fun g => match g with | some x => x.st ≠ .closed | Option.none => false) then some .gate
  else if s.fpl.queues.toList.any (fun q => !q.isEmpty) then some .fire
  else if 0 < s.mrg.debt then some .debt
  else if s.ind.outstanding.isSome then some .release
  else if s.mrg.grant.isSome then some .grant
  else if s.trk.list.any (fun r => r.st = .verifying) then some .verify
  else Option.none

/-- R45: some eye is blocked. -/
def anyBlocked (s : State) : Bool :=
  s.sgt.eyes.toList.any fun e => match e with | some x => x.blocked | Option.none => false

/-- R176: the cause is recorded among the further causes. -/
def Further.has (x : Further) : FaultCause → Bool
  | .none => false | .beltStall => x.stall | .beltReverse => x.reverse | .eyeJam => x.jam | .gate => x.gate

/-- R176: a cause joins the further causes. -/
def Further.add (x : Further) : FaultCause → Further
  | .none => x
  | .beltStall => { x with stall := true }
  | .beltReverse => { x with reverse := true }
  | .eyeJam => { x with jam := true }
  | .gate => { x with gate := true }

/-- R209: weight 2 to the power (cause - 1) for each further cause. -/
def Further.weights (x : Further) : Nat :=
  (if x.stall then 1 else 0) + (if x.reverse then 2 else 0) + (if x.jam then 4 else 0) + (if x.gate then 8 else 0)

end Sys2Proof.Machine
end

