-- ==== Sys2Proof/Machine/Gates.lean ====
section
/-! DEFINITION. The gate commands of GTC and its decision after a withdrawal (05 R105, R107, R109, R110). -/

namespace Sys2Proof.Machine

/-- R109: place OPEN or CLOSE for the node of a gate and start its feedback timer at twice the swing time. -/
def driveGate (g : Nat) (opens : Bool) (s : State) : State :=
  match gateRec s g, gateOf s g with
  | some d, some x =>
      setGate g { x with st := if opens then .opening else .closing, timer := some (2 * if opens then d.so else d.sc) }
        (placeControl ⟨d.prim, if opens then .gateOpen else .gateClose⟩ s)
  | _, _ => s

/-- R105: GTC acts on the open-start of a fire. -/
def openForFire (g : Nat) (s : State) : State :=
  match gateOf s g with
  | some x => if x.st = .closed ∨ x.st = .closing then driveGate g true s else s
  | Option.none => s

/-- R107: send CLOSE if the gate is OPENING or OPEN. -/
def closeIfOpen (g : Nat) (s : State) : State :=
  match gateOf s g with
  | some x => if x.st = .opening ∨ x.st = .opened then driveGate g false s else s
  | Option.none => s

/-- R107: the gate is kept for another fire: one is STARTED, or one is PLANNED whose open-start is at or below
the limit that goes with it. -/
def keptOpen (q : List Fire) (limit : Fire → Int) : Bool :=
  q.any fun f => f.st = .started || (f.st = .planned && decide (f.f ≤ limit f))

/-- R107, last paragraph: GTC decides a gate again after a withdrawal, with the close distance of the fire that is still
PLANNED (log 30). -/
def decideGate (g : Nat) (s : State) : State :=
  if keptOpen (queueOf s g) (fun f => now s + f.dc) then s else closeIfOpen g s

/-- The gates of several withdrawals, in the order of the withdrawals (log 30). -/
def decideGates (gs : List Nat) (s : State) : State := gs.foldl (fun t g => decideGate g t) s

end Sys2Proof.Machine
end

