-- ==== Sys2Proof/Machine/Plan.lean ====
section
/-! DEFINITION. The fire planner: passages, the checks of a plan, groups, acceptance and refusal, withdrawal,
close-start moves, the shadow recheck (05 R84 to R102). -/

namespace Sys2Proof.Machine

/-! ## Passages and windows -/

/-- R85: the next passage of a record at position `p`: the first that lies above the odometer. -/
def nextPassage (s : State) (r : Rec) (p : Nat) : Int :=
  if now s - r.anchor < p then r.anchor + p else r.anchor + s.params.loopLen + p

/-- R93, R100: the passage nearest to a point. Of two that lie exactly half a loop from it, the earlier one (DESIGN CHOICE,
log 51). -/
def nearestPassage (s : State) (r : Rec) (p : Nat) (h : Int) : Int :=
  h + circ s.params.loopLen (r.anchor + p - h)

/-- R93: the passage window of a record at a gate, for one passage. -/
def passageWindow (d : Station) (r : Rec) (h : Int) : Int × Int := (h - d.lead, h + r.len + d.trail)

/-- R93: two spans share at least one odometer value. -/
def spansMeet (x y : Int × Int) : Bool := decide (x.1 ≤ y.2) && decide (y.1 ≤ x.2)

/-- R96: a span meets the passage window of a record at a gate for any of its passages. The passage tried is the
last one whose window begins at or below the end of the span. -/
def meetsAnyPassage (s : State) (d : Station) (r : Rec) (w : Int × Int) : Bool :=
  let l : Int := s.params.loopLen
  let h := r.anchor + d.pos
  spansMeet w (passageWindow d r (h + (w.2 + d.lead - h) / l * l))

/-- The window F..E of a fire (R88). -/
def Fire.window (x : Fire) : Int × Int := (x.f, x.e)

/-! ## The checks -/

/-- R92: the first checks of a record, with the lane of its destination. -/
def firstCheck (s : State) (r : Rec) (g : Nat) : Option Refused :=
  let lane := laneOf s g
  if planningDark s.run then some .dark
  else if r.st = .unsure then some .unsure
  else if (match linkedEntry s r with | some e => e.hold | Option.none => false) then some .hold
  else if r.crowded && g ≠ 0 then some .crowded
  else if lane.faulted.isSome then some .faulted
  else if lane.closed then some .closed
  else if lane.halted then some .halted
  else Option.none

/-- R93: a record joins the group of a plan for lane `g` at passage `h`, reached from a member with window `w`. -/
def joins (s : State) (d : Station) (g : Nat) (h : Int) (w : Int × Int) (x : Rec) : Bool :=
  x.dest = some g && (x.st = .riding || x.st = .missing) && !startedFire s x.id && (firstCheck s x g).isNone &&
    spansMeet (passageWindow d x (nearestPassage s x d.pos h)) w

/-- R93: one direction of the walk: at most `n` records join, each from the window of the one before it. -/
def walkGroup (s : State) (d : Station) (g : Nat) (h : Int) : Nat → Int × Int → List Rec → List (Rec × Int)
  | 0, _, _ => []
  | _, _, [] => []
  | n + 1, w, x :: xs =>
      if joins s d g h w x then
        let hx := nearestPassage s x d.pos h
        (x, hx) :: walkGroup s d g h n (passageWindow d x hx) xs
      else []

/-- R93: the group of a record at its planned passage: the record and every one that joined, with their passages. -/
def groupOf (s : State) (d : Station) (g : Nat) (r : Rec) (h : Int) : List (Rec × Int) :=
  let before := s.trk.list.takeWhile fun x => x.id ≠ r.id
  let after := (s.trk.list.dropWhile fun x => x.id ≠ r.id).tail
  let w := passageWindow d r h
  let ahead := walkGroup s d g h (Config.maxGroup - 1) w ((before.reverse ++ after.reverse).filter Rec.isTote)
  let rest := ((after ++ before).filter Rec.isTote).takeWhile fun x => !ahead.any fun y => y.1.id = x.id
  (r, h) :: ahead ++ walkGroup s d g h (Config.maxGroup - 1 - ahead.length) w rest

/-- R94: the members of the PLANNED and STARTED fires of a queue. -/
def fireMembers (q : List Fire) : Nat :=
  ((q.filter fun f => f.st ≠ .closing).map fun f => f.members.length).sum

/-- R94: the committed count of a lane. -/
def committed (s : State) (g : Nat) : Nat :=
  (laneOf s g).occ + fireMembers (queueOf s g) + (laneOf s g).verify.length

/-- R94: the entry of a record is RUSH. -/
def rushed (s : State) (r : Rec) : Bool :=
  match linkedEntry s r with
  | some e => e.rush
  | Option.none => false

/-- R94: the room check. -/
def roomCheck (s : State) (g : Nat) (group : List (Rec × Int)) : Option Refused :=
  let lane := laneOf s g
  let sum := committed s g + group.length
  let room := if group.any (fun x => rushed s x.1) then lane.cfg.cap else lane.cfg.cap - lane.cfg.reserve
  if sum ≤ room then Option.none else if lane.full then some .full else some .room

/-- R88: the fire of a group: F and K from the member whose passage is lowest, C from the member whose window
ends last. -/
def fireFor (s : State) (d : Station) (h : Int) (group : List (Rec × Int)) : Fire :=
  let low := group.foldl (fun m x => min m x.2) h
  let k := low - d.lead
  { members := inBeltOrder s (group.map (·.1.id)), f := k - swing d.so s.pos.vref, k := k,
    c := group.foldl (fun m x => max m (x.2 + x.1.len + d.trail)) low,
    dc := swing d.sc s.pos.vref, st := .planned, lateGate := false, checked := false }

/-- R96: the two cases of SHADOW. -/
def shadowed (s : State) (d : Station) (g : Nat) (group : List (Rec × Int)) (x : Fire) : Bool :=
  (s.trk.list.any fun r => r.isTote && !x.members.contains r.id && meetsAnyPassage s d r x.window) ||
    (queueOf s g).any fun y => group.any fun m => spansMeet (passageWindow d m.1 m.2) y.window

/-- R94, R95, R96 in order. -/
def laterChecks (s : State) (d : Station) (g : Nat) (group : List (Rec × Int)) : Option Refused :=
  match roomCheck s g group with
  | some r => some r
  | Option.none =>
      if Config.maxFires ≤ (queueOf s g).length then some .queue
      else if shadowed s d g group (fireFor s d ((group.map (·.2)).headD 0) group) then some .shadow
      else Option.none

/-! ## Changes of the queues -/

/-- R90, R98: remove fires from a queue. -/
def dropFires (g : Nat) (p : Fire → Bool) (s : State) : State := setQueue g ((queueOf s g).filter fun f => !p f) s

/-- R89: a fire at its place by open-start, behind a fire of equal open-start (DESIGN CHOICE, log 44). -/
def insertFire (x : Fire) : List Fire → List Fire
  | [] => [x]
  | y :: ys => if x.f < y.f then x :: y :: ys else y :: insertFire x ys

/-- R34, R91: take a record off the member lists of a gate's STARTED and CLOSING fires. -/
def leaveFire (g id : Nat) (s : State) : State :=
  setQueue g ((queueOf s g).map fun f => { f with members := f.members.filter fun m => m ≠ id }) s

/-- What a plan leaves to do: the state, the records to plan again, and the gates of the withdrawn fires. -/
structure Planned where
  st    : State
  left  : List Nat
  gates : List Nat

/-- R98: withdraw the PLANNED fire of a record, or take the record off its other fire (R34, R91); the other members
of a withdrawn fire are left to plan again. -/
def detach (id : Nat) (s : State) : Planned :=
  match fireOf s id with
  | Option.none => ⟨s, [], []⟩
  | some (g, f) =>
      if f.st = .planned then
        ⟨dropFires g (fun x => x.st = .planned && x.members.contains id) s, f.members.filter fun m => m ≠ id, [g]⟩
      else ⟨leaveFire g id s, [], []⟩

/-- R93: the members that join leave their PLANNED fires, which are withdrawn. -/
def gather (ids : List Nat) (s : State) : Planned :=
  ids.foldl (fun p id =>
    let q := detach id p.st
    ⟨q.st, p.left ++ q.left, p.gates ++ q.gates⟩) ⟨s, [], []⟩

/-- R100: move the close-start of a STARTED fire of a gate. -/
def moveClose (g : Nat) (x : Fire) (s : State) : State :=
  match gateRec s g with
  | Option.none => s
  | some d =>
      let ends := (x.members.filterMap (findRec s)).map fun r => nearestPassage s r d.pos x.k + r.len + d.trail
      match ends with
      | [] => s
      | e :: es =>
          let c := es.foldl max e
          let c := if c ≤ now s ∨ c ≤ x.f then max (now s) (x.f + 1) else c
          setQueue g ((queueOf s g).map fun y => if y = x then { y with c := c } else y) s

/-- R97: what a decided plan leaves in a record: its last refusal reason, and its watch at its next passage. -/
def markPlan (s : State) (d : Station) (why : Refused) (ids : List Nat) : State :=
  let mark : Rec → Rec := fun r =>
    if ids.contains r.id then { r with refusal := why, watch := some (nextPassage s r d.pos) } else r
  s.setTrk { s.trk with list := s.trk.list.map mark }

/-- R91, R92 to R97: plan a record that has no fire, for lane `g` with diverter `d`. -/
def planRecord (r : Rec) (g : Nat) (d : Station) (s : State) : Planned :=
  let h := nextPassage s r d.pos
  match firstCheck s r g with
  | some why => ⟨markPlan s d why [r.id], [], []⟩
  | Option.none =>
      let late := decide (h - d.lead - swing d.so s.pos.vref ≤ now s)
      let h := if late then h + s.params.loopLen else h
      let group := groupOf s d g r h
      let ids := group.map (·.1.id)
      let p := gather ids s
      let left := p.left.filter fun m => !ids.contains m
      match laterChecks p.st d g group with
      | some why => ⟨markPlan p.st d why ids, left, p.gates⟩
      | Option.none =>
          let x := fireFor p.st d h group
          ⟨markPlan (setQueue g (insertFire x (queueOf p.st g)) p.st) d (if late then .late else .none) ids, left, p.gates⟩

/-- R91: one plan request. A record whose destination has no diverter in the map in force has no gate to be planned
for (log 29). -/
def planOne (id : Nat) (s : State) : Planned :=
  match findRec s id with
  | Option.none => ⟨s, [], []⟩
  | some r =>
      if r.role = .hole ∨ r.st = .verifying then ⟨s, [], []⟩
      else
        match fireOf s id with
        | some (g, f) =>
            if f.st = .started then ⟨moveClose g f s, [], []⟩
            else go r
        | Option.none => go r
where
  /-- The record leaves the fire it has, then it is planned. -/
  go (r : Rec) : Planned :=
    let p := detach id s
    match r.dest with
    | Option.none => p
    | some g =>
        match gateRec p.st g with
        | Option.none => p
        | some d =>
            let q := planRecord r g d p.st
            ⟨q.st, inBeltOrder q.st (p.left ++ q.left), p.gates ++ q.gates⟩

/-- R98: plan the records left, the ones a plan leaves first (log 12), at most `n` plans (log 11). A record that has a
fire by its turn was taken into a group and is planned. The gates are decided once all plans are. -/
def planWork : Nat → List Nat → List Nat → State → State
  | 0, _, gs, s => decideGates gs s
  | _, [], gs, s => decideGates gs s
  | n + 1, id :: ids, gs, s =>
      if hasFire s id then planWork n ids gs s
      else
        let p := planOne id s
        planWork n (p.left ++ ids) (gs ++ p.gates) p.st

/-- R91: a plan request, with the plans and the gate decisions that follow it. -/
def planReq (id : Nat) (s : State) : State :=
  let p := planOne id s
  planWork Config.replanBound p.left p.gates p.st

/-- R98, R107: finish a detachment: plan the records named, then the members that are left. -/
def finishDetach (first : List Nat) (p : Planned) (s : State) : State :=
  planWork Config.replanBound (first ++ inBeltOrder s p.left) p.gates s

/-- R101: the shadow recheck of a record. Its callers make it once the record's plan request is complete, with the members
planned again and the gates decided (DESIGN CHOICE, log 49). Fires of several gates are withdrawn, and the gates decided, in
ascending order of gate number (DESIGN CHOICE, log 48). -/
def shadowRecheck (id : Nat) (s : State) : State :=
  match findRec s id with
  | Option.none => s
  | some r =>
      if r.role = .hole then s
      else
        let hit : Nat → Fire → Bool := fun g f =>
          f.st = .planned && !f.members.contains id &&
            (match gateRec s g with | some d => meetsAnyPassage s d r f.window | Option.none => false)
        let gs := (List.range Config.lanes).filter fun g => (queueOf s g).any (hit g)
        let ids := gs.flatMap fun g => ((queueOf s g).filter (hit g)).flatMap (·.members)
        let s1 := gs.foldl (fun t g => dropFires g (hit g) t) s
        planWork Config.replanBound (inBeltOrder s1 ids) gs s1

/-- R98: a lane flag is set: every PLANNED fire of its gate is withdrawn and its members are planned again. -/
def withdrawLane (g : Nat) (s : State) : State :=
  let out := (queueOf s g).filter fun f => f.st = .planned
  if out.isEmpty then s
  else
    let s1 := dropFires g (fun f => f.st = .planned) s
    planWork Config.replanBound (inBeltOrder s1 (out.flatMap (·.members))) [g] s1

/-- R99: plan every record bound for a lane that has no fire and is not VERIFYING, from the front. -/
def planLane (g : Nat) (s : State) : State :=
  ((s.trk.list.filter fun r => r.dest = some g && r.st ≠ .verifying && !hasFire s r.id).map (·.id)).foldl
    (fun t id => if hasFire t id then t else planReq id t) s

end Sys2Proof.Machine
end

