-- ==== Sys2Proof/Machine/Slots.lean ====
section
/-! DEFINITION. The slots at the origin and at the slot point, the examination of the pending READY, the merge debt and
its accrual, and the spacing regulator (07, 08). -/

namespace Sys2Proof.Machine

/-! ## Gaps (R142, R158) -/

/-- R142, R158: the first gap that qualifies. `tail` is the tail passage of the record ahead of the first gap; the
heads and lengths are those of the records behind each gap, in order. -/
def firstGap (b g len : Int) (tail : Int) : List (Int × Nat) → Option Int
  | [] => Option.none
  | (head, l) :: rest =>
      let opens := max b (tail + g)
      if opens ≤ head - len - g then some opens else firstGap b g len (head + l) rest

/-- R142: the release point for a length, or the hole point (R148). -/
def originSlot (s : State) (len : Nat) : Option Int :=
  match s.trk.list.getLast? with
  | Option.none => some (now s)
  | some a => firstGap (now s) s.reg.g len (a.anchor + a.len)
      (s.trk.list.map fun r => (r.anchor + (s.params.loopLen : Int), r.len))

/-- R158: the next passage of a record at a position. -/
def headAfter (s : State) (q : Nat) (r : Rec) : Int :=
  let h := r.anchor + q
  h + ((now s - h) / s.params.loopLen + 1) * s.params.loopLen

/-- R158: the merge point for a length. The record ahead of the first gap is taken at its previous passage, one loop
length before its next one; it returns behind the last gap at that next passage. A record behind one gap and ahead of
the next is taken at the same passage in both, as R142 has it (log 14). -/
def mergeSlot (s : State) (len : Nat) : Option Int :=
  let q := slotPos s
  let above := s.trk.list.takeWhile fun r => decide ((q : Int) ≤ posOf s r.anchor)
  let below := s.trk.list.dropWhile fun r => decide ((q : Int) ≤ posOf s r.anchor)
  let order := below ++ above
  match order.getLast? with
  | Option.none => some (now s)
  | some a =>
      firstGap (now s) s.reg.g len (headAfter s q a - s.params.loopLen + a.len)
        (order.map fun r => (headAfter s q r, r.len))

/-! ## IND -/

/-- R140: every condition of a release holds. -/
def releaseAllowed (s : State) : Bool :=
  (match s.ind.ready with | some p => p.standing = .candidate | Option.none => false) && s.run.st = .running &&
    !s.cmd.hostless && decide (s.trk.list.length < Config.maxRecords) && s.ind.holeWait.isNone &&
    s.ind.outstanding.isNone && !s.ind.reject

/-- R148: the conditions of the hole point. -/
def holeAllowed (s : State) : Bool :=
  s.run.st = .running && decide (s.trk.list.length < Config.maxRecords) && s.ind.outstanding.isNone

/-- R140, R142, R143, R148: IND looks at its conditions and computes its release point and hole point afresh. -/
def indLook (s : State) : State :=
  let release := match s.ind.ready with
    | some p => if releaseAllowed s then originSlot s p.ready.len else Option.none
    | Option.none => Option.none
  let hole := match s.ind.holeWait with
    | some l => if holeAllowed s then originSlot s l else Option.none
    | Option.none => Option.none
  s.setInd { s.ind with releasePoint := release, holePoint := hole }

/-- R138: the standing of a READY report. A RIDING entry whose record carries the number is found in the second case;
one without a record (unreachable, R66) is held the same way (log 29). -/
def standingOf (s : State) (r : Ready) : Standing :=
  match r.tote with
  | Option.none => .heldNoread
  | some t =>
      let outstanding := match s.ind.outstanding with | some o => o.tote = t | Option.none => false
      if (carrier s t).isSome || outstanding then .heldDuplicate
      else
        match findEntry s t with
        | Option.none => .heldNoOrder
        | some e => if e.st = .riding then .heldDuplicate else .candidate

/-- R138: the notice of a hold. -/
def holdNotice (r : Ready) : Standing → Option Notice
  | .candidate => Option.none
  | .heldNoread => some (.noread r.len)
  | .heldDuplicate => some (.duplicate r.tote r.len .ready)
  | .heldNoOrder => some (.noOrder r.tote r.len)

/-- Queue a notice if there is one. -/
def notifySome (n : Option Notice) (s : State) : State :=
  match n with
  | some x => notify x s
  | Option.none => s

/-- R137, R138: a new pending READY is examined. -/
def examineNew (r : Ready) (s : State) : State :=
  let st := standingOf s r
  indLook (notifySome (holdNotice r st) (s.setInd { s.ind with ready := some ⟨r, st⟩, last := some r }))

/-- R139: the pending READY is examined again, and the points are computed afresh. -/
def reexamine (s : State) : State :=
  match s.ind.ready with
  | Option.none => indLook s
  | some p =>
      let st := standingOf s p.ready
      if st = p.standing then indLook s
      else indLook (notifySome (holdNotice p.ready st) (s.setInd { s.ind with ready := some ⟨p.ready, st⟩ }))

/-! ## MRG -/

/-- R157: every condition of a natural merge holds. -/
def mergeAllowed (s : State) : Bool :=
  s.mrg.ready.isSome && s.run.st = .running && decide (s.trk.list.length < Config.maxRecords) && s.mrg.grant.isNone

/-- R157 to R159: MRG looks at its conditions and computes its merge point afresh. -/
def mrgLook (s : State) : State :=
  let point := match s.mrg.ready with
    | some r => if mergeAllowed s then mergeSlot s r.len else Option.none
    | Option.none => Option.none
  s.setMrg { s.mrg with mergePoint := point }

/-- R166: the debt rises, saturating at 8. -/
def debtUp (d : Int) : Int := if d < 8 then d + 1 else 8

/-- R167: with D at 8 and no hole outstanding, MRG requests one of the pending spur READY's length. -/
def forceMerge (s : State) : State :=
  match s.mrg.ready with
  | some r =>
      if s.mrg.debt = 8 ∧ s.mrg.hole = .none then
        let s1 := s.setMrg { s.mrg with hole := .requested }
        notify (.forced s.mrg.debt r.len r.tote) (indLook (s1.setInd { s1.ind with holeWait := some r.len }))
      else s
  | Option.none => s

/-- Take an action if a point stands and is reached (R4). -/
def whenDue (p : Option Int) (act : State → State) (s : State) : State := if due p s then act s else s

/-- R165 to R167: the interval point. -/
def intervalDue (s : State) : State :=
  match s.mrg.interval with
  | some p => whenDue (some p) (fun t =>
      forceMerge (t.setMrg { t.mrg with
        count := 0, debt := debtUp t.mrg.debt, interval := some (p + t.params.mergeInterval), since := p })) s
  | Option.none => s

/-- R4, R165: accrual starts or resumes, if it is paused. A point that the resume sets at or below the odometer is reached
then, and so is the one it sets next, until one lies ahead: as many as whole intervals lie in the count. -/
def startAccrual (s : State) : State :=
  if s.mrg.interval.isSome then s
  else
    (s.setMrg { s.mrg with
      interval := some (now s + s.params.mergeInterval - s.mrg.count), since := now s }) |>
      Nat.repeat intervalDue (s.mrg.count / s.params.mergeInterval)

/-- R165: accrual pauses. -/
def pauseAccrual (s : State) : State :=
  if s.mrg.interval.isSome then
    s.setMrg { s.mrg with interval := Option.none, count := s.mrg.count + (now s - s.mrg.since).toNat }
  else s

/-- R166: the debt falls, saturating at -8. -/
def debtDown (d : Int) : Int := if -8 < d then d - 1 else -8

/-- R166: a merge lowers the debt. -/
def lowerDebt (s : State) : State := s.setMrg { s.mrg with debt := debtDown s.mrg.debt }

/-- R164, R169, R170: a REQUESTED hole is withdrawn, and IND clears it (R148). -/
def withdrawRequest (s : State) : State :=
  if s.mrg.hole = .requested then
    indLook ((s.setMrg { s.mrg with hole := .none }).setInd { s.ind with holeWait := Option.none, holePoint := Option.none })
  else s

/-! ## REG -/

/-- R152: REG recomputes the gap target, and announces a change to IND and MRG. -/
def recomputeGap (s : State) : State :=
  let g := gapTarget s.params s.reg.s
  let s1 := s.setReg { s.reg with g := g }
  if g = s.reg.g then s1 else mrgLook (indLook s1)

/-! ## RUN's idle timer (R179) -/

/-- R179: every condition of the idle timer holds. -/
def idleHolds (s : State) : Bool :=
  s.run.st = .running && s.trk.list.isEmpty && s.ind.ready.isNone && s.mrg.ready.isNone && s.ind.outstanding.isNone &&
    s.mrg.grant.isNone && s.params.idleTime ≠ 0

/-- R179: RUN starts the idle timer when the last condition comes to hold, and stops it when one ceases to. -/
def runIdle (s : State) : State :=
  if idleHolds s then
    if s.run.idle.isSome then s else s.setRun { s.run with idle := some (1000 * s.params.idleTime) }
  else s.setRun { s.run with idle := Option.none }

/-- R27: TRK announces a list change to IND and MRG, and tells RUN whether the list is empty (R179). -/
def listChange (s : State) : State := runIdle (mrgLook (reexamine s))

end Sys2Proof.Machine
end

