-- ==== Sys2Proof/Machine/RunCtl.lean ====
section
/-! DEFINITION. Run control's shared operations: entering a run state, taking a fault report, the wake, the end of the
resume lap, a READY report (09 R172 to R184), and what WAKE does to eyes and lamps (R63, R125). -/

namespace Sys2Proof.Machine

/-- R172, R174, R175, R178 to R180: enter a run state. The resume rule is the one given. The stall timer starts on entry
from a state with the belt off and goes on between states with it on. -/
def enterState (new : RunState) (rule : Option Rule) (cause : StateCause) (s : State) : State :=
  let r := s.run
  let entered : Run := { r with
    st := new, belt := new.beltOn, rule := rule,
    settle := if new = .starting then some (now s + s.params.settleDist) else Option.none,
    stall := if new.beltOn then (if r.st.beltOn then r.stall else some s.params.stallTime) else Option.none,
    park := if new = .parked ∧ s.params.parkLimit ≠ 0 then some (1000 * s.params.parkLimit) else Option.none }
  runIdle (mrgLook (indLook (notify (.state r.st new cause) (s.setRun entered))))

/-- R176: RUN takes a fault report. -/
def reportFault (c : FaultCause) (detail : Nat) (s : State) : State :=
  match s.run.st with
  | .config => notify (.fault c detail .config) s
  | .fault =>
      if s.run.cause = c || s.run.further.has c then s
      else notify (.fault c detail .fault) (s.setRun { s.run with further := s.run.further.add c })
  | _ =>
      enterState .fault Option.none (.fault c)
        (s.setRun { s.run with cause := c, detail := detail, further := ⟨false, false, false, false⟩,
                               wake := Option.none, wakeCause := Option.none })

/-- R184: the lap ends; in RESUMING, RUN enters RUNNING. -/
def endLap (cause : StateCause) (s : State) : State :=
  let s1 := s.setRun { s.run with endPoint := Option.none, stage := .none }
  if s.run.st = .resuming then enterState .running Option.none cause s1 else s1

/-- R184: TRK reports the number of UNSURE records to RUN, which ends the lap when none remains. -/
def lapCheck (s : State) : State :=
  if s.run.stage = .lap && !unsureLeft s then endLap .allRead s else s

/-- R63: the reader passes are discarded, and no eye keeps its previous trail and record. Blocked flags are cleared with
the passes, at reader eyes (log 17). -/
def wakeEyes (s : State) : State :=
  let change : Option Eye × Nat → Option Eye := fun x =>
    x.1.map fun e =>
      if (stationAt s x.2).kind = .reader then Eye.initial
      else { e with prevTrail := Option.none, prevRec := Option.none }
  s.setSgt { s.sgt with eyes := ⟨(s.sgt.eyes.toList.zipIdx.map change).toArray, by simp⟩ }

/-- R125: LAN sends each mapped lane node the lamp command for its present FULL condition, the lanes in ascending order of
their numbers (DESIGN CHOICE, log 40). -/
def sendLamps (s : State) : State :=
  (List.range Config.lanes).foldl (fun t n => sendLamp n (laneOf t n).full t) s

/-- R173, R185: WAKE is broadcast and the stations are awake. -/
def broadcastWake (s : State) : State :=
  placeControl ⟨broadcast, .wake⟩ (s.setRun { s.run with asleep := false })

/-- R183: the wake begins. -/
def beginWake (cause : StateCause) (s : State) : State :=
  let s1 := broadcastWake s
  sendLamps (wakeEyes (s1.setRun { s1.run with
    stage := .pending, endPoint := Option.none, wake := some s.params.wakeTime, wakeCause := some cause }))

/-- R180, R183: RESUME or, under AUTO, a READY report ends a stop. -/
def resumeFrom (cause : StateCause) (s : State) : State :=
  match s.run.st with
  | .parked => if s.run.asleep then beginWake cause s else enterState .starting Option.none cause s
  | .dark => beginWake cause s
  | _ => s

/-- R137, R156, R180, R183: RUN takes a READY report. -/
def runReady (s : State) : State :=
  if s.run.wake.isNone && s.run.rule = some .auto then resumeFrom .ready s else s

/-- R181: RUN enters DARK: SLEEP is broadcast and the stations are asleep. -/
def enterDark (rule : Option Rule) (cause : StateCause) (s : State) : State :=
  let s1 := placeControl ⟨broadcast, .sleep⟩ s
  enterState .dark rule cause (s1.setRun { s1.run with asleep := true })

end Sys2Proof.Machine
end

