-- ==== Sys2Proof/Machine/Track.lean ====
section
/-! DEFINITION. The tracking list: deadlines, correction, insertion with its link, removal, the change to RETURN, loss and
the UNSURE marking (02, 04). -/

namespace Sys2Proof.Machine

/-- R36: load the sighting deadline of a record from a position, a stamp and a window. -/
def loadDeadline (id p : Nat) (stamp : Int) (window : Nat) (s : State) : State :=
  match nextReader s p with
  | some (i, d) => modRec id (fun r => { r with expected := some i, deadline := some (stamp + d + window) }) s
  | Option.none => modRec id (fun r => { r with expected := Option.none, deadline := Option.none }) s

/-- R36: a match sets missed to 0 and returns a record to RIDING, and loads its deadline with W. -/
def matchDeadline (id p : Nat) (stamp : Int) (s : State) : State :=
  lapCheck (loadDeadline id p stamp s.params.window (modRec id (fun r => { r with st := .riding, missed := 0 }) s))

/-- R23: a record's anchor less `d`, normalised, and the record seated; with `d = 0` no anchor changes and no record
moves. -/
def moveRec (id : Nat) (d : Int) (s : State) : State :=
  match findRec s id with
  | some r => if d = 0 then s else reseat id (normAnchor s (r.anchor - d)) s
  | Option.none => s

/-- R23: correct a record's anchor by `d`: the change is announced and the record is planned again. The shadow recheck (R101)
follows the plans of the members that this leaves (R98) and the decisions of their gates (DESIGN CHOICE, log 49). -/
def correct (id : Nat) (d : Int) (s : State) : State :=
  match findRec s id with
  | some _ => shadowRecheck id (planReq id (listChange (moveRec id d s)))
  | Option.none => s

/-- R22: a record takes its origin passage. -/
def passOrigin (r : Rec) (s : State) : State := listChange (reseat r.id (r.anchor + s.params.loopLen) s)

/-- R33: remove a record, with what becomes of its entry. The members left by its fire are planned again once it has
left the list (log 13). IND and MRG hear of the list change before RUN hears that no UNSURE record remains (DESIGN CHOICE,
log 9). -/
def removeRec (id : Nat) (fate : EntryFate) (s : State) : State :=
  match findRec s id with
  | Option.none => s
  | some r =>
      let p := detach id s
      let s1 := settleEntry r fate p.st
      let s2 := s1.setTrk { s1.trk with list := s1.trk.list.filter fun x => x.id ≠ id }
      finishDetach [] p (lapCheck (listChange s2))

/-- R28: an ORDER record becomes RETURN; a RETURN record takes the new reason; a hole is unchanged. The record is planned
for lane 0 before the members that its fire leaves (log 13). -/
def roleToReturn (id : Nat) (reason : Reason) (fate : EntryFate) (s : State) : State :=
  match findRec s id with
  | Option.none => s
  | some r =>
      match r.role with
      | .hole => s
      | .ret => modRec id (fun x => { x with reason := reason }) s
      | .order =>
          let s1 := modRec id (fun x => { x with role := .ret, reason := reason, dest := some 0, laps := 0 })
            (settleEntry r fate s)
          let p := detach id s1
          finishDetach [id] p p.st

/-- R35: TRK gives a record up as LOST. -/
def loseRec (id : Nat) (cause : LostCause) (s : State) : State :=
  match findRec s id with
  | Option.none => s
  | some r =>
      let s1 := s.setTrk { s.trk with lost := satInc counterMax s.trk.lost }
      removeRec id .lost
        (notify (.lost r.tote r.role r.reason r.ref (posOf s r.anchor).toNat r.missed cause) s1)

/-- R31: every tote record becomes UNSURE, with its deadline loaded from its position over the UNSURE window. -/
def markUnsure (s : State) : State :=
  ((s.trk.list.filter Rec.isTote).map fun r => (r.id, (posOf s r.anchor).toNat)).foldl (fun t x =>
    loadDeadline x.1 x.2 (now t) (unsureWindow t) (modRec x.1 (fun r => { r with st := .unsure, missed := 0 }) t)) s

/-- An insertion request (R24, R25). `measured` says that the length was measured (R78). -/
structure InsertReq where
  role     : Role
  reason   : Reason
  point    : Nat
  stamp    : Int
  tote     : Option Nat
  len      : Nat
  measured : Bool

/-- TRK's answer to an insertion request (R24). -/
inductive Answer
  | taken | stray | duplicate | full | holePresent
  deriving DecidableEq, Repr

/-- R25: the record of a request, before its role is settled. -/
def InsertReq.record (q : InsertReq) (id : Nat) (anchor : Int) : Rec :=
  { id := id, tote := q.tote, role := q.role, reason := q.reason, ref := 0, anchor := anchor, len := q.len
    dest := if q.role = .hole then Option.none else some 0
    laps := 0, st := .riding, missed := 0, doubt := 0, doubtful := false, crowded := false, deadline := Option.none
    expected := Option.none, refusal := .none, watch := Option.none }

/-- R26, R78: the link of a new ORDER record: the entry rides, and the measured length is compared with the maximum
of the entry's lane. Without a link the record is RETURN with reason STRAY. -/
def linkNew (q : InsertReq) (r : Rec) (t : Nat) (s : State) : State × Rec × Answer :=
  match findEntry s t with
  | some e =>
      if e.st = .riding then (s, { r with role := .ret, reason := .stray }, .stray)
      else
        let maxLen := (laneOf s e.lane).cfg.maxLen
        if q.measured ∧ maxLen < q.len then
          (notify (.size (some t) e.ref e.lane q.len maxLen) (setEntryState t .waiting s),
            { r with role := .ret, reason := .size, ref := e.ref }, .taken)
        else (setEntryState t .riding s, { r with dest := some e.lane, ref := e.ref }, .taken)
  | Option.none => (s, { r with role := .ret, reason := .stray }, .stray)

/-- R24: what the checks make of a request that is not refused. -/
def settleNew (q : InsertReq) (r : Rec) (s : State) : State × Rec × Answer :=
  match q.tote with
  | Option.none => (s, r, .taken)
  | some t =>
      if (carrier s t).isSome then
        (s, { r with tote := Option.none, role := if q.role = .order then .ret else q.role
                     reason := if q.role = .order then .stray else q.reason }, .duplicate)
      else if q.role = .order then linkNew q r t s
      else (s, r, .taken)

/-- R24: TRK takes an insertion request, and tells the handle of the record created. The shadow recheck (R101) follows every
plan that the record's own plan brings, and the decisions of the gates (DESIGN CHOICE, log 49). -/
def insertRec (q : InsertReq) (s : State) : State × Answer × Option Nat :=
  if Config.maxRecords ≤ s.trk.list.length then (s, .full, Option.none)
  else if q.role = .hole ∧ holePresent s then (s, .holePresent, Option.none)
  else
    let id := s.trk.nextId
    let (s1, r, a) := settleNew q (q.record id (normAnchor s (q.stamp - q.point))) s
    let s2 := s1.setTrk { s1.trk with list := seatIn r s1.trk.list, nextId := id + 1 }
    if q.role = .hole then (listChange s2, a, some id)
    else
      let s3 := loadDeadline id q.point q.stamp s.params.window s2
      (shadowRecheck id (planReq id (listChange s3)), a, some id)

end Sys2Proof.Machine
end

