-- ==== Sys2Proof/Machine/Lanes.lean ====
section
/-! DEFINITION. The lane unit: the effects of a change of a lane, delivery, the verify list, the failed divert, and the
gate fault that sets a lane's flag (06, R112); with the relocation that hands over a failed divert (R32). -/

namespace Sys2Proof.Machine

/-- R118, R122: change a lane, with every effect a change of occupancy, flags or record has: the lamp on a crossing of
the capacity, the LANE notice on a change of the reported state, the withdrawal of PLANNED fires when a flag is set
from clear, and the plans of the records bound for the lane when it leaves FULL or its last flag is cleared. -/
def laneUpdate (n : Nat) (f : Lane → Lane) (s : State) : State :=
  let old := laneOf s n
  let new := f old
  let s1 := modLane n (fun _ => { new with reported := new.computed }) s
  let s2 := if old.full = new.full then s1 else sendLamp n new.full s1
  let s3 := if old.reported = new.computed then s2
    else notify (.lane n new.computed new.faulted new.occ) s2
  let s4 := if flagRaised old new then withdrawLane n s3 else s3
  if (old.full && !new.full) || (flagDropped old new && !new.flagged) then planLane n s4 else s4

/-- R117: the occupancy rises by 1, saturating at 15. -/
def raiseOccupancy (n : Nat) (s : State) : State := laneUpdate n (fun l => { l with occ := satInc 15 l.occ }) s

/-- R130: what becomes of the entry of a delivered record. -/
def deliveryFate (n : Nat) (r : Rec) : EntryFate := if r.doubtful && n = 0 then .waiting else .removed

/-- R130: the notice of a delivery. -/
def deliveryNotice (n : Nat) (r : Rec) (confirmed late : Bool) : Notice :=
  if n = 0 then
    .returned r.tote r.role (if r.role = .ret then r.reason else if r.doubtful then .doubt else .none) r.ref r.laps
      confirmed late
  else .delivered r.tote r.ref n r.laps confirmed late

/-- R130: deliver a record to a lane. -/
def deliver (n id : Nat) (confirmed late : Bool) (s : State) : State :=
  match findRec s id with
  | Option.none => s
  | some r =>
      notify (deliveryNotice n r confirmed late)
        (modLane n (fun l => { l with deliveries := satInc counterMax l.deliveries })
          (removeRec id (deliveryFate n r) s))

/-- R126, R129: a record of a verify list is delivered unconfirmed. -/
def deliverUnconfirmed (n : Nat) (e : VerifyEntry) (s : State) : State :=
  deliver n e.who false e.late
    (raiseOccupancy n (modLane n (fun l => { l with verify := l.verify.filter fun x => x.who ≠ e.who }) s))

/-- R127, R132: an ENTRY raises the occupancy, then it is taken against the oldest record of the verify list, or it is
a stray entry. -/
def takeEntry (n : Nat) (s : State) : State :=
  let s1 := raiseOccupancy n s
  match (laneOf s1 n).verify with
  | e :: es => deliver n e.who true e.late (modLane n (fun l => { l with verify := es, streak := 0 }) s1)
  | [] =>
      let s2 := modLane n (fun l => { l with stray := satInc counterMax l.stray }) s1
      notify (.strayEntry n (laneOf s2 n).occ) s2

/-- R126: LAN takes one member of a fire at its close-start. -/
def enterVerify (n : Nat) (c : Int) (late : Bool) (s : State) (id : Nat) : State :=
  let s1 := match (laneOf s n).verify with
    | e :: es => if Config.maxVerify ≤ es.length + 1 then deliverUnconfirmed n e s else s
    | [] => s
  match findRec s1 id with
  | Option.none => s1
  | some r =>
      if r.st = .unsure ∨ r.st = .verifying then s1
      else
        let s2 := modRec id
          (fun x => { x with st := .verifying, deadline := Option.none, expected := Option.none, dest := some n }) s1
        modLane n (fun l => { l with verify := l.verify ++ [⟨id, c + l.cfg.ev, late⟩] }) s2

/-- R104, R128: a record whose laps have reached its entry's lap limit becomes RETURN with reason UNDELIVERABLE. The
notice carries the destination, the laps reached and the last refusal reason (for a failed divert: log 22). -/
def applyLapLimit (id : Nat) (s : State) : State :=
  match findRec s id with
  | Option.none => s
  | some r =>
      match linkedEntry s r with
      | Option.none => s
      | some e =>
          if e.lapLimit ≤ r.laps then
            notify (.undeliverable r.tote r.ref (r.dest.getD 0) r.laps r.refusal)
              (roleToReturn id .undeliverable .waiting s)
          else s

/-- The MISS notice of a record (R103, R128). -/
def missNotice (r : Rec) (why : Refused) (late : Bool) : Notice :=
  .miss r.tote r.role (r.dest.getD 0) r.laps why r.ref late

/-- R128, step 2: the destination of a record after a failed divert. -/
def destAfterFail (s : State) (r : Rec) : Nat :=
  if r.doubtful then 0
  else
    match linkedEntry s r with
    | some e => e.lane
    | Option.none => 0

/-- The lane in whose verify list a record stands, with its place there. -/
def verifyOf (s : State) (id : Nat) : Option (Nat × VerifyEntry) :=
  s.lan.lanes.toList.zipIdx.findSome? fun x => (x.1.verify.find? fun e => e.who = id).map fun e => (x.2, e)

/-- R128: the failed divert of a record that stands in a verify list. -/
def failedDivert (id : Nat) (s : State) : State :=
  match verifyOf s id, findRec s id with
  | some (n, e), some r =>
      let s1 := modLane n (fun l => { l with verify := l.verify.filter fun x => x.who ≠ id }) s
      let s2 := modRec id (fun x => { x with st := .riding, laps := satInc 15 x.laps, dest := some (destAfterFail s r) }) s1
      let s3 := laneUpdate n (fun l =>
        let streak := satInc 2 l.streak
        { l with failed := satInc counterMax l.failed, streak := streak
                 faulted := if streak = 2 ∧ l.faulted.isNone then some .divert else l.faulted }) s2
      let s4 := match findRec s3 id with
        | some x => notify (missNotice x .failed e.late) s3
        | Option.none => s3
      applyLapLimit id s4
  | _, _ => s

/-- R57: a VERIFYING record found by a sighting is handed over. -/
def handOver (id : Nat) (s : State) : State :=
  match findRec s id with
  | some r => if r.st = .verifying then failedDivert id s else s
  | Option.none => s

/-- R32: relocate a record to a reader at `p` with stamp `stamp`. The shadow recheck (R101) follows the plan of the record, the
plans of the members its fire leaves, and the decisions of the gates (DESIGN CHOICE, log 49). -/
def relocate (id : Nat) (stamp : Int) (p station : Nat) (s : State) : State :=
  match findRec s id with
  | Option.none => s
  | some r =>
      let l := s.params.loopLen
      let oldPos := (onLoop l (stamp - r.anchor)).toNat
      let s1 := handOver id s
      let s2 := reseat id (normAnchor s1 (stamp - p)) s1
      let d := detach id s2
      let s3 := matchDeadline id p stamp d.st
      let s4 := s3.setTrk { s3.trk with jumps := satInc counterMax s3.trk.jumps }
      let s5 := listChange (notify (.jump r.tote station oldPos p) s4)
      shadowRecheck id (finishDetach [id] d s5)

/-- R112: a gate faults. -/
def gateFault (g : Nat) (cause : GateCause) (s : State) : State :=
  match gateOf s g with
  | Option.none => s
  | some x =>
      let s1 := setGate g { x with st := .fault, timer := Option.none, cause := cause, recovery := false } s
      let s2 := laneUpdate g (fun l => { l with faulted := some .gate }) s1
      reportFault .gate g (notify (.gate (.fault cause) g x.st) s2)

/-- R110: the recovery of a gate is proven, and LAN clears the lane's faulted flag. -/
def clearFaulted (n : Nat) (s : State) : State := laneUpdate n (fun l => { l with faulted := Option.none }) s

end Sys2Proof.Machine
end

