-- ==== Sys2Proof/Machine/Sight.lean ====
section
/-! DEFINITION. The sighting unit: passes, the resolution of sightings, crowded pairs, reader health (03). -/

namespace Sys2Proof.Machine

/-- The source of a sighting (R49). -/
inductive Source
  | reader | inductEye | spurEye | origin
  deriving DecidableEq, Repr

/-- A sighting (R49): `read` is the number of a READ, none for a NOREAD. -/
structure Sighting where
  read    : Option Nat
  point   : Nat
  stamp   : Int
  len     : Option Nat
  station : Nat
  source  : Source
  deriving DecidableEq, Repr

/-- The source of a sighting at an eye (R49). -/
def sourceOf (k : StationKind) : Source :=
  match k with
  | .induct => .inductEye
  | .merge => .spurEye
  | _ => .reader

/-! ## Matching -/

/-- R49: the circular difference of a record at a sighting. -/
def diffAt (s : State) (x : Sighting) (r : Rec) : Int := circ s.params.loopLen (x.point - (x.stamp - r.anchor))

/-- R49: a record lies within a window. -/
def within (s : State) (x : Sighting) (w : Nat) (r : Rec) : Bool := decide ((diffAt s x r).natAbs ≤ w)

/-- R50: the window of a READ match: W, or the UNSURE window. -/
def readWindow (s : State) (r : Rec) : Nat := if r.st = .unsure then unsureWindow s else s.params.window

/-- R52, R54: the eligible record with the smallest difference; of two equally near, the one ahead in belt order. -/
def nearest (s : State) (x : Sighting) (p : Rec → Bool) : Option Rec :=
  (s.trk.list.filter fun r => r.isTote && p r && within s x s.params.window r).foldl (fun best r =>
    match best with
    | some b => if (diffAt s x r).natAbs < (diffAt s x b).natAbs then some r else best
    | Option.none => some r) Option.none

/-- R50, step 2: the doubt is cleared, and an ORDER record that was doubtful is bound for its entry's lane again. -/
def clearDoubt (id : Nat) (s : State) : State :=
  match findRec s id with
  | Option.none => s
  | some r =>
      let lane := if r.doubtful then (linkedEntry s r).map (·.lane) else Option.none
      modRec id (fun x => { x with doubt := 0, doubtful := false
                                   dest := match lane with | some n => some n | Option.none => x.dest }) s

/-- R79: ORD compares a new length of an ORDER record with the maximum of its entry's lane. A record that a failed divert has
just returned to RIDING, whose fire is still CLOSING, counts as having a started fire (DESIGN CHOICE, log 35). -/
def sizeCheck (id : Nat) (s : State) : State :=
  match findRec s id with
  | Option.none => s
  | some r =>
      match linkedEntry s r with
      | Option.none => s
      | some e =>
          let maxLen := (laneOf s e.lane).cfg.maxLen
          if maxLen < r.len ∧ startedFire s id = false ∧ r.st ≠ .verifying then
            notify (.size r.tote r.ref e.lane r.len maxLen) (roleToReturn id .size .waiting s)
          else s

/-- R29, R50 step 3, R79: set the length of a record from a pass that measured one. -/
def setLength (id : Nat) (len : Option Nat) (s : State) : State :=
  match len with
  | some l => sizeCheck id (modRec id (fun x => { x with len := l }) s)
  | Option.none => s

/-- R50: a READ match. -/
def matchRead (id : Nat) (d : Int) (x : Sighting) (s : State) : State :=
  correct id d (matchDeadline id x.point x.stamp (setLength id x.len (clearDoubt id (handOver id s))))

/-- R55: the doubt of a NOREAD match. -/
def takeDoubt (id : Nat) (x : Sighting) (s : State) : State :=
  let degraded : Bool := match vget s.sgt.windows x.station Option.none with
    | some w => w.degraded
    | Option.none => false
  if x.source = .reader ∧ degraded then s
  else
    match findRec s id with
    | Option.none => s
    | some r =>
        if r.doubt = 1 then
          let s1 := modRec id (fun y => { y with doubt := 2, doubtful := true
                                                 dest := if y.role = .order then some 0 else y.dest }) s
          if r.role = .order then notify (.doubt r.tote r.ref x.station) s1 else s1
        else modRec id (fun y => { y with doubt := satInc 2 y.doubt }) s

/-- R54: a NOREAD match. -/
def matchNoread (id : Nat) (d : Int) (x : Sighting) (s : State) : State :=
  correct id d (matchDeadline id x.point x.stamp (takeDoubt id x (handOver id s)))

/-- R53, R62: a STRAY record is counted. -/
def countStray (s : State) : State := s.setSgt { s.sgt with strays := satInc counterMax s.sgt.strays }

/-- R53, R56: the insertion request of a sighting. -/
def sightingReq (x : Sighting) (role : Role) (reason : Reason) : InsertReq :=
  { role := role, reason := reason, point := x.point, stamp := x.stamp, tote := x.read, len := x.len.getD 255
    measured := x.len.isSome }

/-- R53, R56: insert the record of a sighting; `after` is what follows when TRK takes the request, and a list that is
full gives an UNTRACKED notice. -/
def sightInsert (x : Sighting) (role : Role) (reason : Reason) (after : State → State) (s : State) :
    State × Option Nat :=
  match insertRec (sightingReq x role reason) s with
  | (s1, .full, _) => (notify (.untracked x.read x.station x.point) s1, Option.none)
  | (s1, _, id) => (after s1, id)

/-- R53, R77: the entry for a number is WAITING or LOST. A RIDING entry whose record does not carry the number
(unreachable, R66) is taken as no entry (log 29). -/
def adopts (s : State) (t : Nat) : Bool :=
  match findEntry s t with
  | some e => e.st ≠ .riding
  | Option.none => false

/-- R56: a PHANTOM record is counted and reported. -/
def reportPhantom (x : Sighting) (s : State) : State :=
  notify (.phantom x.station x.point (x.len.getD 255))
    (s.setSgt { s.sgt with phantoms := satInc counterMax s.sgt.phantoms })

/-- R53, R56, R77: a sighting that no record takes. -/
def sightNew (x : Sighting) (s : State) : State × Option Nat :=
  if x.source = .inductEye ∨ x.source = .spurEye then (s, Option.none)
  else
    match x.read with
    | some t =>
        if adopts s t then sightInsert x .order .none id s
        else sightInsert x .ret .stray (fun u => notify (.stray x.read x.station x.point) (countStray u)) s
    | Option.none => sightInsert x .ret .phantom (reportPhantom x) s

/-- R49 to R57: a sighting is resolved against the list as it stands. The answer tells the record it resolved to. -/
def resolve (x : Sighting) (s : State) : State × Option Nat :=
  match x.read with
  | some t =>
      match carrier s t with
      | some r =>
          if within s x (readWindow s r) r then (matchRead r.id (diffAt s x r) x s, some r.id)
          else (relocate r.id x.stamp x.point x.station (setLength r.id x.len (clearDoubt r.id s)), some r.id)
      | Option.none =>
          match nearest s x (fun r => r.tote.isNone) with
          | some r =>
              (matchRead r.id (diffAt s x r) x (modRec r.id (fun y => { y with tote := some t }) s), some r.id)
          | Option.none => sightNew x s
  | Option.none =>
      match nearest s x (fun r => r.st ≠ .unsure) with
      | some r => (matchNoread r.id (diffAt s x r) x s, some r.id)
      | Option.none => sightNew x s

/-! ## Reader health (R61, R62) -/

/-- R61: a window takes one sighting. -/
def ReaderWindow.count (noread : Bool) (w : ReaderWindow) : ReaderWindow :=
  { w with passes := w.passes + 1, noreads := if noread then w.noreads + 1 else w.noreads }

/-- R61: the window ends at 64 sightings. -/
def endWindow (i : Nat) (w : ReaderWindow) (s : State) : State :=
  let put := fun (x : ReaderWindow) (t : State) => t.setSgt { t.sgt with windows := vset t.sgt.windows i (some x) }
  if w.passes < 64 then put w s
  else
    let degraded := decide (s.params.noreadLimit < w.noreads)
    let s1 := put ⟨0, 0, degraded⟩ s
    if degraded = w.degraded then s1 else notify (.reader i degraded w.noreads) s1

/-- R61, R62: a sighting from a READER source is counted (after its resolution: log 21). -/
def countSighting (x : Sighting) (s : State) : State :=
  if x.source = .reader then
    let i := x.station
    let noread := x.read.isNone
    let s1 := s.setSgt { s.sgt with
      passes := vset s.sgt.passes i (satInc counterMax (vget s.sgt.passes i 0))
      noreads := if noread then vset s.sgt.noreads i (satInc counterMax (vget s.sgt.noreads i 0)) else s.sgt.noreads }
    match vget s1.sgt.windows i Option.none with
    | some w => endWindow i (w.count noread) s1
    | Option.none => s1
  else s

/-! ## Crowded pairs (R60) -/

/-- R60: one record of a crowded pair. -/
def crowdOne (id : Nat) (s : State) : State :=
  match findRec s id with
  | Option.none => s
  | some r =>
      if r.role = .hole then s
      else
        let s1 := modRec id (fun x => { x with crowded := true }) s
        if r.st = .verifying ∨ startedFire s1 id then s1 else roleToReturn id .crowded .waiting s1

/-- The tote number of a record that may have left the list. -/
def toteNow (s : State) (id : Option Nat) : Option Nat := (id.bind (findRec s)).bind (·.tote)

/-- R60: the crowded pair of a resolved pass. The previous record is treated first, and is so the first that is planned for
lane 0 (DESIGN CHOICE, log 43). -/
def crowdPair (station gap : Nat) (prev cur : Option Nat) (s : State) : State :=
  let ids := if prev = cur then prev.toList else prev.toList ++ cur.toList
  notify (.crowded station gap (toteNow s prev) (toteNow s cur)) (ids.foldl (fun t id => crowdOne id t) s)

/-! ## Passes -/

/-- Change an eye record, if the eye exists. -/
def modEye (i : Nat) (f : Eye → Eye) (s : State) : State :=
  match eyeOf s i with
  | some e => setEye i (f e) s
  | Option.none => s

/-- The sighting of an eye (R46, R48). -/
def eyeSighting (s : State) (i : Nat) (read : Option Nat) (stamp : Int) (len : Option Nat) : Sighting :=
  { read := read, point := (stationAt s i).pos, stamp := stamp, len := len, station := i
    source := sourceOf (stationAt s i).kind }

/-- R46, R59, R60: resolve the pass of an eye; its previous record, its counts and its crowded pair follow, in this order: a
READER notice of the window that the pass ends stands ahead of its CROWDED notice (DESIGN CHOICE, log 21). -/
def resolvePass (i : Nat) (e : Eye) (read len : Option Nat) (s : State) : State × Option Nat :=
  let x := eyeSighting s i read (e.lead.getD 0) len
  let (s1, id) := resolve x s
  let s2 := countSighting x (modEye i (fun y => { y with prevRec := id }) s1)
  match e.crowded with
  | some gap => (crowdPair i gap e.prevRec id s2, id)
  | Option.none => (s2, id)

/-- R43: the length of a pass. -/
def passLen (lead trail : Nat) : Nat := max 1 (min 255 (trail - lead))

/-- R44: the crowded mark, with its gap, of a pass that opens. -/
def crowdedMark (s : State) (prevTrail : Option Nat) (stamp : Nat) : Option Nat :=
  match prevTrail with
  | some t =>
      let gap := min 1023 (stamp - t)
      if gap < s.params.gmin then some gap else Option.none
  | Option.none => Option.none

/-- R42, R44: a pass opens at an eye. -/
def openPass (i stamp : Nat) (s : State) : State :=
  modEye i (fun e => { e with
    pass := .opened, lead := some stamp, trail := Option.none, noreadHeld := false, res := .unread
    crowded := crowdedMark s e.prevTrail stamp, jam := some (stamp + s.params.jamLen), blocked := false
    tagLimit := Option.none }) s

/-- R42, R43, R46: the pass of an eye ends. -/
def Eye.ended (e : Eye) : Eye :=
  { e with pass := .noPass, jam := Option.none, blocked := false, tagLimit := Option.none }

/-- R42: an EYE frame with edge LEAD. -/
def takeLead (i stamp : Nat) (s : State) : State :=
  match eyeOf s i with
  | Option.none => s
  | some e =>
      match e.pass with
      | .noPass => openPass i stamp s
      | .opened =>
          let s1 := setEye i { e.ended with prevTrail := Option.none } s
          openPass i stamp (if e.res = .unread then (resolvePass i e Option.none Option.none s1).1 else s1)
      | .awaiting =>
          let len := passLen (e.lead.getD 0) (e.trail.getD 0)
          openPass i stamp (resolvePass i e Option.none (some len) (setEye i e.ended s)).1

/-- R58: the length of a pass that a READ resolved is delivered. The shadow recheck (R101) follows every plan that the record's
own plan brings, and the decisions of the gates (DESIGN CHOICE, log 49). -/
def deliverLength (id len : Nat) (s : State) : State :=
  match findRec s id with
  | Option.none => s
  | some r =>
      if r.len = len then s else shadowRecheck id (planReq id (setLength id (some len) s))

/-- R43: an EYE frame with edge TRAIL. -/
def takeTrail (i stamp : Nat) (s : State) : State :=
  match eyeOf s i with
  | Option.none => s
  | some e =>
      if e.pass = .opened then
        let len := passLen (e.lead.getD 0) stamp
        let done := { e.ended with prevTrail := some stamp }
        match e.res with
        | .seen id => deliverLength id len (setEye i done s)
        | .closed => setEye i done s
        | .unread =>
            if e.noreadHeld then (resolvePass i e Option.none (some len) (setEye i done s)).1
            else setEye i { done with pass := .awaiting, trail := some stamp, tagLimit := some (stamp + 16) } s
      else s

/-- R46, R48: a TAG frame; `read` is the number of a READ, none for a NOREAD. -/
def takeTag (i stamp : Nat) (read : Option Nat) (s : State) : State :=
  let read := read.bind readNumber
  match eyeOf s i with
  | Option.none => s
  | some e =>
      match e.pass with
      | .opened =>
          if e.res = .unread then
            match read with
            | some t =>
                let (s1, id) := resolvePass i e (some t) Option.none s
                modEye i (fun y => { y with res := match id with | some r => .seen r | Option.none => .closed }) s1
            | Option.none => setEye i { e with noreadHeld := true } s
          else s
      | .awaiting =>
          (resolvePass i e read (some (passLen (e.lead.getD 0) (e.trail.getD 0))) (setEye i e.ended s)).1
      | .noPass =>
          let x := eyeSighting s i read stamp Option.none
          countSighting x (resolve x s).1

/-- R47: the tag limit of an AWAITING pass is reached. -/
def takeTagLimit (i : Nat) (s : State) : State :=
  match eyeOf s i with
  | Option.none => s
  | some e =>
      (resolvePass i e Option.none (some (passLen (e.lead.getD 0) (e.trail.getD 0))) (setEye i e.ended s)).1

end Sys2Proof.Machine
end

