-- ==== Sys2Proof/Machine/Points.lean ====
section
/-! DEFINITION. The belt points (R4): each row takes its point once the odometer has reached it; a row whose point does not
stand, or is not reached, has no effect (logs 5, 7). The interval point stands with the accrual, in Slots.lean. -/

namespace Sys2Proof.Machine

/-! ## Records -/

/-- R17: the record, behind every record of equal position that stands ahead of it: these take their origin passages on the
same count, and keep their order. -/
def passesWith (s : State) (r : Rec) : List Rec :=
  (s.trk.list.takeWhile fun x => x.id ≠ r.id).filter (fun x => x.anchor = r.anchor) ++ [r]

/-- R22, R17: the origin passage of a record. The records of equal position ahead of it take theirs before it, whichever of
them the row names (log 18). -/
def originPoint (id : Nat) (s : State) : State :=
  match findRec s id with
  | some r =>
      whenDue (some (r.anchor + s.params.loopLen)) (fun t => (passesWith t r).foldl (fun u x => passOrigin x u) t) s
  | Option.none => s

/-- R37: the deadline moves on from the expected reader to the next one, without a window. -/
def moveDeadlineOn (r : Rec) (s : State) : State :=
  let on := match r.expected with
    | some i => nextReader s (stationAt s i).pos
    | Option.none => Option.none
  modRec r.id (fun x => { x with
    missed := 1, st := if x.st = .riding then .missing else x.st
    deadline := match on, x.deadline with | some (_, d), some p => some (p + d) | _, _ => Option.none
    expected := on.map (·.1) }) s

/-- R37, R38: the sighting deadline of a record. -/
def deadlinePoint (id : Nat) (s : State) : State :=
  match findRec s id with
  | some r => whenDue r.deadline (fun t =>
      if r.missed = 0 then moveDeadlineOn r t
      else loseRec id .deadline (modRec id (fun x => { x with missed := 2 }) t)) s
  | Option.none => s

/-- R103: the record is a member of a STARTED fire at its destination gate. -/
def servedAtGate (s : State) (r : Rec) : Bool :=
  match fireOf s r.id with
  | some (g, f) => f.st = .started && r.dest = some g
  | Option.none => false

/-- R103, R104: a pass-by. The plan of step 5 is not taken for a record whose laps have reached its lap limit. -/
def passBy (r : Rec) (s : State) : State :=
  let g := r.dest.getD 0
  let r1 := { r with laps := satInc 15 r.laps, watch := Option.none }
  let s1 := modRec r.id (fun _ => r1) s
  let s2 := s1.setFpl { s1.fpl with misses := vset s1.fpl.misses g (satInc counterMax (vget s1.fpl.misses g 0)) }
  let s3 := notify (missNotice r1 r1.refusal false) s2
  match linkedEntry s3 r1 with
  | some e => if e.lapLimit ≤ r1.laps then applyLapLimit r.id s3 else planReq r.id s3
  | Option.none => planReq r.id s3

/-- R103: the passage watch of a record. -/
def watchPoint (id : Nat) (s : State) : State :=
  match findRec s id with
  | some r => whenDue r.watch (fun t =>
      if r.st = .verifying ∨ servedAtGate t r then modRec id (fun x => { x with watch := Option.none }) t
      else passBy r t) s
  | Option.none => s

/-! ## Eyes -/

/-- R45: the jam point of an eye. -/
def jamDue (i : Nat) (s : State) : State :=
  match eyeOf s i with
  | some e => whenDue e.jam (fun t =>
      reportFault .eyeJam i (setEye i { e with jam := Option.none, blocked := true } t)) s
  | Option.none => s

/-- R47: the tag limit of an eye. -/
def tagLimitDue (i : Nat) (s : State) : State :=
  match eyeOf s i with
  | some e => whenDue e.tagLimit (takeTagLimit i) s
  | Option.none => s

/-! ## Fires

A row of these names the gate. Of the fires whose point of that kind is reached, the one nearest the front of the queue is
taken first (DESIGN CHOICE, log 50). -/

/-- Change the first fire of a queue with a property. -/
def modFirst (p : Fire → Bool) (f : Fire → Fire) : List Fire → List Fire
  | [] => []
  | x :: xs => if p x then f x :: xs else x :: modFirst p f xs

/-- Remove the first fire of a queue with a property. -/
def dropFirst (p : Fire → Bool) : List Fire → List Fire
  | [] => []
  | x :: xs => if p x then xs else x :: dropFirst p xs

/-- R105: the open-start of a PLANNED fire is reached. -/
def opensNow (s : State) (x : Fire) : Bool := x.st = .planned && decide (x.f ≤ now s)

/-- R106: the check point of a STARTED fire is reached. -/
def checksNow (s : State) (x : Fire) : Bool := x.st = .started && !x.checked && decide (x.k ≤ now s)

/-- R107: the close-start of a STARTED fire is reached. -/
def closesNow (s : State) (x : Fire) : Bool := x.st = .started && decide (x.c ≤ now s)

/-- R107: the end point of a CLOSING fire is reached. -/
def endsNow (s : State) (x : Fire) : Bool := x.st = .closing && decide (x.e ≤ now s)

/-- R105: the open-start, of the first fire in the queue that it reaches (DESIGN CHOICE, log 50). -/
def openStartPoint (g : Nat) (s : State) : State :=
  if (queueOf s g).any (opensNow s) then
    openForFire g (setQueue g (modFirst (opensNow s) (fun x => { x with st := .started }) (queueOf s g)) s)
  else s

/-- R106: the check point, of the first fire in the queue that it reaches (DESIGN CHOICE, log 50). The first member is the
first in belt order as the list stands (R89). -/
def checkFirePoint (g : Nat) (s : State) : State :=
  match (queueOf s g).find? (checksNow s), gateOf s g with
  | some x, some gate =>
      let opened := decide (gate.st = .opened)
      let s1 := setQueue g (modFirst (checksNow s)
        (fun y => { y with checked := true, lateGate := y.lateGate || !opened }) (queueOf s g)) s
      if opened then s1 else notify (.gate (.lateGate (toteNow s (inBeltOrder s x.members).head?)) g gate.st) s1
  | _, _ => s

/-- R107: the close-start. Of two fires whose close-starts are reached on one count, the one nearer the front of the queue is
taken first (DESIGN CHOICE, log 50). -/
def closeStartPoint (g : Nat) (s : State) : State :=
  match (queueOf s g).find? (closesNow s) with
  | Option.none => s
  | some x =>
      let s1 :=
        if x.members.isEmpty then setQueue g (dropFirst (closesNow s) (queueOf s g)) s
        else (inBeltOrder s x.members).foldl (enterVerify g x.c x.lateGate)
          (setQueue g (modFirst (closesNow s) (fun y => { y with st := .closing }) (queueOf s g)) s)
      if keptOpen (queueOf s1 g) (fun _ => x.e) then s1 else closeIfOpen g s1

/-- R107: the end point, of the first fire in the queue that it reaches (DESIGN CHOICE, log 50). -/
def endFirePoint (g : Nat) (s : State) : State := setQueue g (dropFirst (endsNow s) (queueOf s g)) s

/-! ## Lanes -/

/-- R129: a verify deadline of a lane: the oldest record whose deadline is reached (DEDUCED, log 50). -/
def verifyPoint (n : Nat) (s : State) : State :=
  match (laneOf s n).verify.find? (fun e => decide (e.deadline ≤ now s)) with
  | some e => deliverUnconfirmed n e s
  | Option.none => s

/-! ## Induction -/

/-- R144: the release point. The READY is examined once more, which computes the point afresh where the conditions
allow; GO is placed if the READY is a candidate and every condition holds. -/
def releaseDue (s : State) : State :=
  whenDue s.ind.releasePoint (fun t =>
    let s1 := reexamine t
    match s1.ind.ready with
    | some p =>
        match p.ready.tote with
        | some n =>
            if releaseAllowed s1 then
              let s2 := placeForKind .induct .releaseGo s1
              runIdle (indLook (s2.setInd { s2.ind with
                ready := Option.none
                outstanding := some ⟨n, p.ready.len, s.pos.odo, now s + s.params.releaseConfirm⟩ }))
            else s1
        | Option.none => s1
    | Option.none => s1) s

/-- R146: the confirm point of the release. -/
def confirmDue (s : State) : State :=
  match s.ind.outstanding with
  | some o => whenDue (some o.confirm) (fun t =>
      runIdle (reexamine (notify (.inductTimeout o.tote o.len o.goOdo)
        (t.setInd { t.ind with outstanding := Option.none })))) s
  | Option.none => s

/-- The hole of the list. -/
def findHole (s : State) : Option Rec := s.trk.list.find? fun r => r.role = .hole

/-- R148, R168: the hole point. A hole that is taken is handed to MRG. -/
def holeDue (s : State) : State :=
  match s.ind.holeWait with
  | some l => whenDue s.ind.holePoint (fun t =>
      let (s1, a, _) := insertRec ⟨.hole, .none, 0, now t, Option.none, l, false⟩ t
      if a = .taken then
        let arrival := (findHole s1).map fun r => r.anchor + (slotPos s1 : Int)
        let s2 := s1.setInd { s1.ind with holeWait := Option.none, holePoint := Option.none }
        indLook (s2.setMrg { s2.mrg with hole := .travelling, arrival := arrival })
      else s1.setInd { s1.ind with holePoint := Option.none }) s
  | Option.none => s

/-! ## The spur -/

/-- R160, R168: MERGE GO is placed for the pending spur READY. -/
def mergeGo (forced : Bool) (s : State) : State :=
  match s.mrg.ready with
  | some r =>
      let s1 := pauseAccrual (placeForKind .merge .mergeGo s)
      runIdle (mrgLook (s1.setMrg { s1.mrg with
        ready := Option.none
        grant := some ⟨r, s.pos.odo, now s + s.params.mergeConfirm, forced⟩ }))
  | Option.none => s

/-- R160: the merge point. If a condition fails the point is spent. -/
def mergeDue (s : State) : State :=
  whenDue s.mrg.mergePoint (fun t =>
    if mergeAllowed t then mergeGo false t else t.setMrg { t.mrg with mergePoint := Option.none }) s

/-- R162: the confirm point of the grant. -/
def mergeConfirmDue (s : State) : State :=
  match s.mrg.grant with
  | some g => whenDue (some g.confirm) (fun t =>
      runIdle (mrgLook (notify (.mergeTimeout g.ready.tote g.ready.len g.goOdo g.forced)
        (t.setMrg { t.mrg with grant := Option.none })))) s
  | Option.none => s

/-- MRG asks TRK to remove the hole (R33, R168, R169). -/
def removeHole (s : State) : State :=
  match findHole s with
  | some r => removeRec r.id .removed s
  | Option.none => s

/-- R168: the arrival point: the hole is used or dropped. -/
def arrivalDue (s : State) : State :=
  whenDue s.mrg.arrival (fun t =>
    let s1 := if t.mrg.ready.isSome && t.mrg.grant.isNone && t.run.st = .running then mergeGo true t else t
    mrgLook (removeHole (s1.setMrg { s1.mrg with hole := .none, arrival := Option.none }))) s

/-! ## The regulator -/

/-- R151: S with its clamp. -/
def clampS (x : Int) : Nat := (min (max x 0) 1023).toNat

/-- R151: the sample point. -/
def sampleDue (s : State) : State :=
  whenDue (some s.reg.next) (fun t =>
    let n := toteCount t
    let e : Int := n - (t.params.otarget : Int)
    recomputeGap (t.setReg { t.reg with
      lastN := n, lastE := e, next := t.reg.next + t.params.sampleDist
      s := if t.reg.mode = .closed then clampS (t.reg.s + t.params.gain * e) else t.reg.s })) s

/-! ## Run control -/

/-- R184: the first or a later entry to RESUMING. -/
def enterResuming (s : State) : State :=
  let s1 := enterState .resuming Option.none .settled s
  if s1.run.stage = .pending then
    let s2 := markUnsure s1
    lapCheck (s2.setRun { s2.run with stage := .lap, endPoint := some (now s2 + s2.params.loopLen) })
  else s1

/-- R174: the settle point. -/
def settleDue (s : State) : State :=
  whenDue s.run.settle (fun t =>
    if t.run.stage = .none then enterState .running Option.none .settled t else enterResuming t) s

/-- R31, R184: the resume end point. -/
def resumeEndDue (s : State) : State :=
  whenDue s.run.endPoint (fun t =>
    let s1 := t.setRun { t.run with endPoint := Option.none, stage := .none }
    let ids := (s1.trk.list.filter fun r => r.st = .unsure).map (·.id)
    let s2 := ids.foldl (fun u id => loseRec id .resume u) s1
    if s2.run.st = .resuming then enterState .running Option.none .lapEnd s2 else s2) s

end Sys2Proof.Machine
end

