-- ==== Sys2Proof/Machine/Timers.lean ====
section
/-! DEFINITION. The timers: each row takes the expiry of a timer that runs (a timer holds its limit only, log 6); the row of
a stopped timer has no effect (log 7). -/

namespace Sys2Proof.Machine

/-- R111: the feedback timer of a gate. -/
def feedbackExpiry (g : Nat) (s : State) : State :=
  match gateOf s g with
  | some x =>
      if x.timer.isSome then gateFault g (if x.st = .opening then .openTimeout else .closeTimeout) s else s
  | Option.none => s

/-- R175: the stall timer. -/
def stallExpiry (s : State) : State := if s.run.stall.isSome then reportFault .beltStall 0 s else s

/-- R179: the idle timer. -/
def idleExpiry (s : State) : State :=
  if s.run.idle.isSome then enterState .parked (some .auto) .autoPark s else s

/-- R182: the park timer. -/
def parkExpiry (s : State) : State :=
  if s.run.park.isSome then
    match darkFails s with
    | Option.none => enterDark s.run.rule .autoDark s
    | some c =>
        let limit := s.params.parkLimit
        notify (.parkLong c limit)
          (s.setRun { s.run with park := if limit = 0 then Option.none else some (1000 * limit) })
  else s

/-- R183: the wake wait. -/
def wakeExpiry (s : State) : State :=
  if s.run.wake.isSome then
    enterState .starting Option.none (s.run.wakeCause.getD .resume)
      (s.setRun { s.run with wake := Option.none, wakeCause := Option.none })
  else s

/-- R207: the link timer. -/
def linkExpiry (s : State) : State :=
  if s.cmd.link.isSome then
    notify (.hostless true) (indLook (s.setCmd { s.cmd with link := Option.none, hostless := true }))
  else s

end Sys2Proof.Machine
end

