-- ==== Sys2Proof/Machine/StationFrames.lean ====
section
/-! DEFINITION. The station frames: the look-up and stamp of POS (R9) and what each frame does. A row is the hand-over of a
consumed frame; while the ring port does not run there is none, and the row has no effect (logs 4, 8). -/

namespace Sys2Proof.Machine

/-- The part is not held in reset (R186). -/
def notHeld (s : State) : Bool := !s.held.resetn && !s.held.supply

/-- R190: the ring port runs. -/
def portRuns (s : State) : Bool := notHeld s && !s.rng.bypass

/-- The kinds of station frames (R9). -/
inductive FrameKind
  | eye | tag | lane | gate | induct | spur
  deriving DecidableEq, Repr

/-- R9: the kinds accepted from a record's primary address. -/
def primaryAccepts (k : StationKind) (f : FrameKind) : Bool :=
  match k, f with
  | .induct, .eye | .induct, .tag | .induct, .induct => true
  | .reader, .eye | .reader, .tag => true
  | .laneDiverter, .gate | .returnDiverter, .gate => true
  | .merge, .eye | .merge, .tag | .merge, .spur => true
  | _, _ => false

/-- R9: a used record carries an address. -/
def Station.carries (src : Nat) (x : Station) : Bool :=
  x.kind ≠ .unused && (x.prim = src || (x.isDiverter && x.sec = src))

/-- R9: a record accepts a frame kind from an address. -/
def Station.accepts (src : Nat) (f : FrameKind) (x : Station) : Bool :=
  (x.prim = src && primaryAccepts x.kind f) || (x.isDiverter && x.sec = src && f = .lane)

/-- R9: the record that carries an address, the one with the lower index first. GATE frames are looked up in the map in
force, the others in the map as it stands. -/
def lookUp (s : State) (src : Nat) (f : FrameKind) : Option (Station × Nat) :=
  (if f = .gate then inForce s else stationsOf s.pos.map).find? fun x => x.1.carries src

/-- R9: the stamp of a frame; a result below 0 gives 0. -/
def stampFor (s : State) (x : Station) : Nat := s.pos.odo - x.lat

/-- R9: POS looks up and stamps a station frame, and hands it with its record and index to the block that owns its
kind, or drops and counts it. -/
def stationFrame (src : Nat) (f : FrameKind) (act : Station → Nat → Nat → State → State) (s : State) : State :=
  if portRuns s then
    match lookUp s src f with
    | some (x, i) => if x.accepts src f then act x i (stampFor s x) s else countUnmapped s
    | Option.none => countUnmapped s
  else s

/-- R41: SGT discards EYE and TAG frames in CONFIG. -/
def sightingFrame (act : Nat → Nat → State → State) (_ : Station) (i stamp : Nat) (s : State) : State :=
  if s.run.st = .config then s else act i stamp s

/-- R10, R116: the lane, and the gate, of a diverter record. -/
def Station.laneNumber (x : Station) : Nat := if x.kind = .laneDiverter then x.lane else 0

/-- A frame whose stamp and index are not used, taken with the lane or gate number of its record (R116, 5.8). -/
def laneFrame (act : Nat → State → State) (x : Station) (_ _ : Nat) (s : State) : State := act x.laneNumber s

/-- A frame taken with its stamp (R137, R156). -/
def stampedFrame (act : Nat → State → State) (_ : Station) (_ stamp : Nat) (s : State) : State := act stamp s

/-! ## Lanes (R117, R120) -/

/-- R117: a REMOVAL. -/
def takeRemoval (n : Nat) (s : State) : State :=
  if (laneOf s n).occ = 0 then modLane n (fun l => { l with underflows := satInc counterMax l.underflows }) s
  else laneUpdate n (fun l => { l with occ := l.occ - 1 }) s

/-- R120: HALT_ON and HALT_OFF. -/
def setHalted (on : Bool) (n : Nat) (s : State) : State := laneUpdate n (fun l => { l with halted := on }) s

/-! ## Gates (R110, R112) -/

/-- R110: feedback in a state that does not wait for it is spurious. -/
def spuriousFeedback (g : Nat) (opened : Bool) (st : GateState) (s : State) : State :=
  notify (.gate (.spurious opened) g st)
    (s.setGtc { s.gtc with spurious := vset s.gtc.spurious g (satInc counterMax (vget s.gtc.spurious g 0)) })

/-- R110: AT_OPEN. -/
def takeAtOpen (g : Nat) (s : State) : State :=
  match gateOf s g with
  | some x =>
      if x.st = .opening then setGate g { x with st := .opened, timer := Option.none } s
      else spuriousFeedback g true x.st s
  | Option.none => s

/-- R110: AT_CLOSED. The fault cause of a recovered gate is kept (log 38). -/
def takeAtClosed (g : Nat) (s : State) : State :=
  match gateOf s g with
  | some x =>
      if x.st = .closing then
        let s1 := setGate g { x with st := .closed, timer := Option.none, recovery := false } s
        if x.recovery then clearFaulted g s1 else s1
      else spuriousFeedback g false x.st s
  | Option.none => s

/-- R112: DRIVE_FAULT. -/
def takeDriveFault (g : Nat) (s : State) : State :=
  match gateOf s g with
  | some x => if x.st = .fault then s else gateFault g .driveFault s
  | Option.none => s

/-! ## Induction (R137, R141, R145, R147) -/

/-- R137: an INDUCT READY. -/
def takeReady (tote len : Nat) (s : State) : State := runReady (runIdle (examineNew ⟨readNumber tote, len⟩ s))

/-- R141: an INDUCT EMPTY. -/
def takeEmpty (s : State) : State :=
  if s.ind.ready.isSome then runIdle (indLook (s.setInd { s.ind with ready := Option.none })) else s

/-- The station index of the first record of a kind in the map in force. -/
def indexOf (s : State) (k : StationKind) : Nat := ((firstOf s k).map (·.2)).getD 0

/-- R145: what TRK's answer to a release confirmation brings. -/
def confirmAnswer (o : Release) (a : Answer) (s : State) : State :=
  match a with
  | .stray => notify (.stray (some o.tote) (indexOf s .induct) 0) (countStray s)
  | .duplicate => notify (.duplicate (some o.tote) o.len .confirm) (countStray s)
  | .full => notify (.untracked (some o.tote) (indexOf s .induct) 0) s
  | .taken | .holePresent => s

/-- R147: the ORIGIN sighting of a RELEASED report with no release outstanding. -/
def originSighting (stamp : Nat) (s : State) : Sighting :=
  { read := s.ind.last.bind (·.tote), point := 0, stamp := stamp, len := s.ind.last.map (·.len)
    station := indexOf s .induct, source := .origin }

/-- R145, R147: an INDUCT RELEASED. A pending READY is cleared before the sighting is handed over (log 20). -/
def takeReleased (stamp : Nat) (s : State) : State :=
  match s.ind.outstanding with
  | some o =>
      let s1 := s.setInd { s.ind with outstanding := Option.none }
      let (s2, a, _) := insertRec ⟨.order, .none, 0, stamp, some o.tote, o.len, true⟩ s1
      runIdle (reexamine (confirmAnswer o a s2))
  | Option.none =>
      if s.run.st = .config then s
      else
        let x := originSighting stamp s
        (resolve x (runIdle (indLook (s.setInd { s.ind with ready := Option.none })))).1

/-! ## The spur (R156, R161, R163, R164) -/

/-- R156: a SPUR READY. -/
def takeSpurReady (tote len : Nat) (s : State) : State :=
  let r : Ready := ⟨readNumber tote, len⟩
  let s1 := runReady (runIdle (s.setMrg { s.mrg with ready := some r, last := some r }))
  mrgLook (if s1.run.st = .config then s1 else startAccrual s1)

/-- R161: TRK is asked for the record of a merged tote, and its answer is taken. -/
def insertMerged (tote : Option Nat) (len stamp : Nat) (s : State) : State :=
  let (s1, a, _) := insertRec ⟨.ret, .empty, mergePos s, stamp, tote, len, true⟩ s
  match a with
  | .duplicate => notify (.duplicate tote len .merge) s1
  | .full => notify (.untracked tote (indexOf s1 .merge) (mergePos s1)) s1
  | _ => s1

/-- R161, R163: a SPUR MERGED. With no grant outstanding a pending READY is cleared before TRK is asked for the record (DESIGN
CHOICE, log 47). -/
def takeMerged (stamp : Nat) (s : State) : State :=
  match s.mrg.grant with
  | some g =>
      runIdle (mrgLook (insertMerged g.ready.tote g.ready.len stamp
        (lowerDebt (s.setMrg { s.mrg with grant := Option.none }))))
  | Option.none =>
      if s.run.st = .config then s
      else
        let s1 := lowerDebt s
        let s2 := if s1.mrg.ready.isSome then
            let t := pauseAccrual s1
            runIdle (mrgLook (t.setMrg { t.mrg with ready := Option.none }))
          else s1
        insertMerged (s.mrg.last.bind (·.tote)) ((s.mrg.last.map (·.len)).getD 255) stamp s2

/-- R164: a SPUR EMPTY. -/
def takeSpurEmpty (s : State) : State :=
  let s1 := s.setMrg { s.mrg with
    ready := Option.none, mergePoint := Option.none, debt := min s.mrg.debt 0, count := 0, interval := Option.none }
  runIdle (withdrawRequest s1)

end Sys2Proof.Machine
end

