-- ==== Sys2Proof/Machine/Encoder.lean ====
section
/-! DEFINITION. The encoder, the speed windows, and the taking of the points the odometer has reached (01). -/

namespace Sys2Proof.Machine

/-! ## Points that are reached (R4, log 5) -/

/-- The points of the tracking records that are reached: origin passages, deadlines, watches. -/
def dueOfRecords (s : State) : List Instr :=
  ((s.trk.list.filter fun r => due (some (r.anchor + s.params.loopLen)) s).map fun r => .originPassage r.id) ++
  ((s.trk.list.filter fun r => due r.deadline s).map fun r => .sightingDeadline r.id) ++
  ((s.trk.list.filter fun r => due r.watch s).map fun r => .passageWatch r.id)

/-- The points of the eyes that are reached. -/
def dueOfEyes (s : State) : List Instr :=
  (List.range Config.stations).flatMap fun i =>
    match eyeOf s i with
    | some e => (if due e.jam s then [.jamPoint i] else []) ++ (if due e.tagLimit s then [.tagLimit i] else [])
    | Option.none => []

/-- The points of the fires that are reached. -/
def dueOfFires (s : State) : List Instr :=
  (List.range Config.lanes).flatMap fun g =>
    let q := queueOf s g
    (if q.any (opensNow s) then [.openStart g] else []) ++ (if q.any (checksNow s) then [.checkPoint g] else []) ++
      (if q.any (closesNow s) then [.closeStart g] else []) ++ (if q.any (endsNow s) then [.endPoint g] else [])

/-- The verify deadlines that are reached. -/
def dueOfLanes (s : State) : List Instr :=
  (List.range Config.lanes).filterMap fun n =>
    if (laneOf s n).verify.any (fun e => decide (e.deadline ≤ now s)) then some (.verifyDeadline n) else Option.none

/-- The single points that are reached. The interval point comes before the points that pause accrual, which would
otherwise withdraw it where both fall on one count (R4, R165). -/
def dueOfUnits (s : State) : List Instr :=
  (if due s.mrg.interval s then [.intervalPoint] else []) ++
  (if s.ind.holeWait.isSome && due s.ind.holePoint s then [.holePoint] else []) ++
  (if due s.ind.releasePoint s then [.releasePoint] else []) ++
  (if due (s.ind.outstanding.map (·.confirm)) s then [.confirmPoint] else []) ++
  (if due s.mrg.arrival s then [.arrivalPoint] else []) ++
  (if due s.mrg.mergePoint s then [.mergePoint] else []) ++
  (if due (s.mrg.grant.map (·.confirm)) s then [.mergeConfirmPoint] else []) ++
  (if due (some s.reg.next) s then [.samplePoint] else []) ++
  (if due s.run.settle s then [.settlePoint] else []) ++
  (if due s.run.endPoint s then [.resumeEndPoint] else [])

/-- R4: the first point the odometer has reached that has not been taken, in the model's order (DESIGN CHOICE, log 5). -/
def nextDue (s : State) : Option Instr :=
  (dueOfRecords s ++ dueOfEyes s ++ dueOfFires s ++ dueOfLanes s ++ dueOfUnits s).head?

/-- R4: the block that owns a point takes it. -/
def takePoint (p : Instr) (s : State) : State :=
  match p with
  | .originPassage r => originPoint r s
  | .sightingDeadline r => deadlinePoint r s
  | .passageWatch r => watchPoint r s
  | .jamPoint i => jamDue i s
  | .tagLimit i => tagLimitDue i s
  | .openStart g => openStartPoint g s
  | .checkPoint g => checkFirePoint g s
  | .closeStart g => closeStartPoint g s
  | .endPoint g => endFirePoint g s
  | .verifyDeadline n => verifyPoint n s
  | .holePoint => holeDue s
  | .releasePoint => releaseDue s
  | .confirmPoint => confirmDue s
  | .arrivalPoint => arrivalDue s
  | .mergePoint => mergeDue s
  | .mergeConfirmPoint => mergeConfirmDue s
  | .intervalPoint => intervalDue s
  | .samplePoint => sampleDue s
  | .settlePoint => settleDue s
  | .resumeEndPoint => resumeEndDue s
  | _ => s

/-- Take the points that are reached, at most `n` of them. -/
def drain : Nat → State → State
  | 0, s => s
  | n + 1, s =>
      match nextDue s with
      | some p => drain n (takePoint p s)
      | Option.none => s

/-- R4: the points that the odometer has reached, by its last count or by being set at or below it, are taken. A row that is
not a point's own begins so, and none of them ever sees a reached point untaken (log 5). -/
def takeReached (s : State) : State := if notHeld s then drain Config.drainBound s else s

/-! ## Counts (R1 to R3) -/

/-- R1, R175: a count is belt movement, which restarts the stall timer. -/
def beltMoves (s : State) : State :=
  if s.run.stall.isSome then s.setRun { s.run with stall := some s.params.stallTime } else s

/-- R1: the next state of the encoder sequence. -/
def EncPair.forward (e : EncPair) : EncPair := ⟨e.b, !e.a⟩

/-- R1: the previous state of the encoder sequence. -/
def EncPair.backward (e : EncPair) : EncPair := ⟨!e.b, e.a⟩

/-- R1: an illegal step changes both lines. -/
def EncPair.opposite (e : EncPair) : EncPair := ⟨!e.a, !e.b⟩

/-- R3: the odometer advances. Past the end of its 40 bits its value is free (log 1). -/
def advance (s : State) : State :=
  let s1 := s.setPos { s.pos with winCount := s.pos.winCount + 1 }
  if s.pos.odo + 1 < Config.odometerEnd then s1.setPos { s1.pos with odo := s.pos.odo + 1 }
  else (s1.setPos { s1.pos with odo := (Config.odometerAfterEnd s.free).toNat }).setFree (s.free + 1)

/-- R2, R3: a forward count, once the points reached before it are taken. -/
def forward (s : State) : State :=
  if notHeld s then
    let s1 := drain Config.drainBound s
    let s2 := beltMoves (s1.setPos { s1.pos with enc := EncPair.forward s1.pos.enc })
    if 0 < s2.pos.tally then s2.setPos { s2.pos with tally := s2.pos.tally - 1 } else advance s2
  else s

/-- R2: a reverse count. -/
def reverse (s : State) : State :=
  if notHeld s then
    let tally := satInc 255 s.pos.tally
    let s1 := beltMoves (s.setPos { s.pos with enc := EncPair.backward s.pos.enc, tally := tally })
    if 64 < tally then reportFault .beltReverse 0 s1 else s1
  else s

/-- R1: an illegal step counts nothing, and the new state becomes the reference. -/
def illegal (s : State) : State :=
  if notHeld s then s.setPos { s.pos with enc := EncPair.opposite s.pos.enc } else s

/-- R5 to R7: the end of a speed window. -/
def windowEnd (s : State) : State :=
  if notHeld s then
    let v := min (4 * s.pos.winCount) 1000
    let limit := overspeedLimit s.params
    let s1 := s.setPos { s.pos with v := v, winCount := 0, vref := vrefOf s.params v, overspd := decide (limit < v) }
    if limit < v ∧ s.pos.overspd = false then notify (.overspeed v limit) s1 else s1
  else s

/-! ## Resets (R186, R190) -/

/-- R186: every block takes its values after power-on. The encoder lines, what holds the part, the queue of commands
and the counter of free values are not the part's to reset (log 34). -/
def powerOn (s : State) : State :=
  ((((State.reset.setHeld s.held).setPos { State.reset.pos with enc := s.pos.enc }).setFree s.free).setPending s.pending)

/-- R186: a reset begins. -/
def beginReset (c : ResetCause) (s : State) : State :=
  powerOn (s.setHeld (match c with
    | .resetn => { s.held with resetn := true }
    | .supply => { s.held with supply := true }))

/-- R186: a cause that holds the part ends. When it was the last, POS takes the pair as its reference. -/
def endReset (c : ResetCause) (pair : EncPair) (s : State) : State :=
  let s1 := s.setHeld (match c with
    | .resetn => { s.held with resetn := false }
    | .supply => { s.held with supply := false })
  if !notHeld s && notHeld s1 then s1.setPos { s1.pos with enc := pair } else s1

/-- R190: the ring port starts, once the part is not held in reset. -/
def startPort (s : State) : State :=
  if notHeld s then s.setRng { s.rng with bypass := false } else s

end Sys2Proof.Machine
end

