-- ==== Sys2Proof/Machine/Loading.lean ====
section
/-! DEFINITION. The command exchange and the loading of tables (11 R201 to R206). -/

namespace Sys2Proof.Machine

/-- What the execution of a command gives: the state, the result and the data of the reply. -/
abbrev Executed := State × Result × List Byte

/-- A command refused without data (R202). -/
def refuse (r : Result) (s : State) : Executed := (s, r, [])

/-- R201, R202: CMD takes a command. It is dropped when the reply queue is full or a RESET DEVICE reply waits to leave;
a tag of 0 is refused; otherwise it is executed, the points that it has set or moved to or below the odometer are taken (R4,
log 5), and it is answered. -/
def answer (op : Nat) (tag : Byte) (resets : Bool) (body : State → Executed) (s : State) : State :=
  if portRuns s then
    if Config.maxReplies ≤ s.rng.replies.length ∨ s.cmd.resetWaiting = true then countCmdDrop s
    else if tag = 0#8 then placeReply ⟨op, tag, .format, [], false⟩ s
    else
      let (s1, r, d) := body s
      placeReply ⟨op, tag, r, d, resets⟩ (takeReached s1)
  else s

/-- The run state, as most replies of run control carry it. -/
def runByte (s : State) : List Byte := bytesOf 1 s.run.st.code

/-- The run state that the reply to START or RESUME carries: the one after the points that the command has set at the
odometer. A settle distance of 0 gives such a point (R4, R174), and the spec does not say whether the reply carries STARTING
or the state after it (DESIGN CHOICE, log 42). -/
def settledByte (s : State) : List Byte := runByte (takeReached s)

/-- R206: HEARTBEAT. -/
def cmdHeartbeat (s : State) : Executed := (s, .done, runByte s ++ bytesOf 1 s.ntq.queue.length)

/-- The table of a code (section 10.7). -/
def tableOf (n : Nat) : Option Table :=
  if n = 1 then some .stations else if n = 2 then some .lanes else if n = 3 then some .params else Option.none

/-- R203: SET POINTER. -/
def cmdSetPointer (table index : Nat) (s : State) : Executed :=
  match tableOf table with
  | some t =>
      if index < t.size then
        (s.setCmd { s.cmd with table := t, index := index }, .done, bytesOf 1 table ++ bytesOf 1 index)
      else refuse .range s
  | Option.none => refuse .range s

/-! ## Parameters (R11, R205) -/

/-- R204: the parameters marked C. -/
def configOnly (i : Nat) : Bool := [0, 1, 2, 3, 4, 10, 21].contains i

/-- R11, R204: the range of a parameter, with its partner's value at the moment of the load. -/
def paramOk (p : Params) (i v : Nat) : Bool :=
  match i with
  | 0 => 2000 ≤ v && v ≤ 65000
  | 1 => 8 ≤ v && v ≤ 255
  | 2 => 20 ≤ v && v ≤ 400 && v ≤ p.vmax
  | 3 => 20 ≤ v && v ≤ 400 && p.vnom ≤ v
  | 4 => 20 ≤ v && v ≤ 500 && v ≤ p.gmax
  | 5 => p.gmin ≤ v && v ≤ 1000
  | 6 => 1 ≤ v && v ≤ 96
  | 7 => [1, 2, 4, 8].contains v
  | 8 => 500 ≤ v && v ≤ 8000
  | 9 => 500 ≤ v && v ≤ 20000
  | 10 => v ≤ 255
  | 11 | 12 => 32 ≤ v && v ≤ 1023
  | 13 => 64 ≤ v && v ≤ 255
  | 14 => v ≤ 63
  | 15 => v ≤ 1023
  | 16 => 100 ≤ v && v ≤ 2000
  | 17 => v = 0 || (10 ≤ v && v ≤ 600)
  | 18 => v = 0 || (30 ≤ v && v ≤ 3600)
  | 19 => 100 ≤ v && v ≤ 5000
  | 20 => v = 0 || (1 ≤ v && v ≤ 60)
  | 21 => 1 ≤ v && v ≤ 62
  | _ => false

/-- R205: replace one parameter. -/
def Params.put (p : Params) (i v : Nat) : Params :=
  match i with
  | 0 => { p with loopLen := v } | 1 => { p with window := v } | 2 => { p with vnom := v } | 3 => { p with vmax := v }
  | 4 => { p with gmin := v } | 5 => { p with gmax := v } | 6 => { p with otarget := v } | 7 => { p with gain := v }
  | 8 => { p with sampleDist := v } | 9 => { p with mergeInterval := v } | 10 => { p with spurLead := v }
  | 11 => { p with releaseConfirm := v } | 12 => { p with mergeConfirm := v } | 13 => { p with jamLen := v }
  | 14 => { p with noreadLimit := v } | 15 => { p with settleDist := v } | 16 => { p with stallTime := v }
  | 17 => { p with idleTime := v } | 18 => { p with parkLimit := v } | 19 => { p with wakeTime := v }
  | 20 => { p with linkTimeout := v } | 21 => { p with mgmtAddr := v }
  | _ => p

/-- R165: a load of I moves a running interval point from its reference point. -/
def moveInterval (s : State) : State :=
  if s.mrg.interval.isSome then
    s.setMrg { s.mrg with interval := some (s.mrg.since + s.params.mergeInterval - s.mrg.count) }
  else s

/-- R180: a load of the park limit: 0 stops a running timer, another value starts one that 0 had kept from running. -/
def loadParkLimit (v : Nat) (s : State) : State :=
  if v = 0 then s.setRun { s.run with park := Option.none }
  else if s.run.st = .parked ∧ s.run.park.isNone then s.setRun { s.run with park := some (1000 * v) }
  else s

/-- R6, R152, R165, R179, R180, R207: where a parameter acts at once. -/
def paramEffect (i v : Nat) (s : State) : State :=
  match i with
  | 2 | 3 => s.setPos { s.pos with vref := vrefOf s.params s.pos.v }
  | 4 | 5 => recomputeGap s
  | 9 => moveInterval s
  | 17 => runIdle s
  | 18 => loadParkLimit v s
  | 20 => s.setCmd { s.cmd with link := if v = 0 then Option.none else some (1000 * v) }
  | _ => s

/-! ## Records (R10, R115, R204) -/

/-- The refusal of a record, or the state with it written. -/
def loadStation (i : Nat) (bs : List Byte) (s : State) : Option Result × State :=
  match stationOf bs with
  | some x => if stationOk x then (Option.none, s.setPos { s.pos with map := vset s.pos.map i x }) else (some .range, s)
  | Option.none => (some .range, s)

/-- R115: a lane record sets or clears the closed flag with its initial state, with the effects of R118 and R122. -/
def loadLane (i : Nat) (bs : List Byte) (s : State) : Option Result × State :=
  match laneRecOf bs with
  | some x =>
      if laneRecOk i x then (Option.none, laneUpdate i (fun l => { l with cfg := x, closed := !x.initOpen }) s)
      else (some .range, s)
  | Option.none => (some .range, s)

/-- R205: a PARAMS record. -/
def loadParam (i : Nat) (bs : List Byte) (s : State) : Option Result × State :=
  let v := wordAt bs 0
  if configOnly i && s.run.st ≠ .config then (some .state, s)
  else if paramOk s.params i v then (Option.none, paramEffect i v (s.setParams (s.params.put i v)))
  else (some .range, s)

/-- R204: one record at the pointer; a record that is written steps the pointer. -/
def loadRecord (bs : List Byte) (s : State) : Option Result × State :=
  let i := s.cmd.index
  let (r, s1) := match s.cmd.table with
    | .stations => loadStation i bs s
    | .lanes => loadLane i bs s
    | .params => loadParam i bs s
  match r with
  | Option.none => (Option.none, s1.setCmd { s1.cmd with index := i + 1 })
  | some e => (some e, s)

/-- R204: the records in order, up to the first that is refused. The number counts those written. -/
def loadRecords : List (List Byte) → Nat → State → Option Result × Nat × State
  | [], n, s => (Option.none, n, s)
  | r :: rs, n, s =>
      match loadRecord r s with
      | (Option.none, s1) => loadRecords rs (n + 1) s1
      | (some e, s1) => (some e, n, s1)

/-- R204: the data of every reply to PUT RECORDS that is not a FORMAT refusal. -/
def loadData (n : Nat) (s : State) : List Byte := bytesOf 1 n ++ bytesOf 1 s.cmd.table.code ++ bytesOf 1 s.cmd.index

/-- R204: PUT RECORDS. -/
def cmdPutRecords (bs : List Byte) (s : State) : Executed :=
  let k := s.cmd.table.recordBytes
  if bs.length ≠ k ∧ bs.length ≠ 2 * k then refuse .format s
  else
    let rs := if bs.length = k then [bs] else [bs.take k, bs.drop k]
    if s.cmd.table ≠ .params ∧ s.run.st ≠ .config then (s, .state, loadData 0 s)
    else if s.cmd.table.size < s.cmd.index + rs.length then (s, .range, loadData 0 s)
    else
      match loadRecords rs 0 s with
      | (e, n, s1) => (s1, e.getD .done, loadData n s1)

end Sys2Proof.Machine
end

