-- ==== Sys2Proof/Machine/Control.lean ====
section
/-! DEFINITION. The commands of run control: START with the validation of the map, PARK, RESUME, DARK, CLEAR FAULT,
TO CONFIG and the resets (01 R12 to R14, 09). -/

namespace Sys2Proof.Machine

/-! ## Validation (R12, R13) -/

/-- The index of the n-th record (from 0) with a property, 28 where there is none. -/
def nthIndex (l : List (Station × Nat)) (p : Station → Bool) (n : Nat) : Nat :=
  (((l.filter fun x => p x.1).map (·.2))[n]?).getD 28

/-- The number of records with a property. -/
def countOf (l : List (Station × Nat)) (p : Station → Bool) : Nat := l.countP fun x => p x.1

/-- The index of the first record that fails with respect to those before it. -/
def laterOf (clash : Station → Station → Bool) : List (Station × Nat) → List (Station × Nat) → Option Nat
  | _, [] => Option.none
  | seen, x :: xs => if seen.any (fun y => clash y.1 x.1) then some x.2 else laterOf clash (seen ++ [x]) xs

/-- The addresses that apply to a used record's kind. -/
def Station.addresses (x : Station) : List Nat := if x.isDiverter then [x.prim, x.sec] else [x.prim]

/-- R12, check 12: two records share an address. -/
def sharesAddress (x y : Station) : Bool := x.addresses.any fun a => y.addresses.contains a

/-- R12, check 12, within one record: an address equals the management address, or its two are equal. -/
def ownAddressFault (mgmt : Nat) (x : Station) : Bool :=
  x.addresses.contains mgmt || (x.isDiverter && x.prim = x.sec)

/-- R12, check 12. -/
def addressFault (mgmt : Nat) : List (Station × Nat) → List (Station × Nat) → Option Nat
  | _, [] => Option.none
  | seen, x :: xs =>
      if ownAddressFault mgmt x.1 || seen.any (fun y => sharesAddress y.1 x.1) then some x.2
      else addressFault mgmt (seen ++ [x]) xs

/-- A count check of R12: none, or more than the number allowed. -/
def countFault (l : List (Station × Nat)) (k : StationKind) (most : Nat) : Option Nat :=
  let n := countOf l fun x => x.kind = k
  if n = 0 then some 28 else if most < n then some (nthIndex l (fun x => x.kind = k) most) else Option.none

/-- The index of the lowest-indexed record with a property, if there is one. -/
def firstWith (l : List (Station × Nat)) (p : Station → Bool) : Option Nat := (l.find? fun x => p x.1).map (·.2)

/-- R12: the thirteen checks, each with its code, in order; the index of the record at fault. -/
def mapChecks (p : Params) (l : List (Station × Nat)) : List (Nat × Option Nat) :=
  let posOfKind := fun (k : StationKind) => (((l.find? fun x => x.1.kind = k).map (·.1.pos)).getD 0)
  let m := posOfKind .merge
  let lanes := (l.filter fun x => x.1.kind = .laneDiverter).map (·.1.pos)
  [ (1, countFault l .induct 1),
    (2, firstWith l fun x => x.kind = .induct && x.pos ≠ 0),
    (3, countFault l .merge 1),
    (4, countFault l .returnDiverter 1),
    (5, if lanes.isEmpty then some 28 else Option.none),
    (6, laterOf (fun x y => x.kind = .laneDiverter && y.kind = .laneDiverter && x.lane = y.lane) [] l),
    (7, countFault l .reader 8),
    (8, firstWith l fun x => p.loopLen ≤ x.pos),
    (9, laterOf (fun x y => x.pos = y.pos) [] l),
    (10, firstWith l fun x =>
      (x.kind = .laneDiverter && m ≤ x.pos) || (x.kind = .returnDiverter && x.pos ≤ m)),
    (11, if l.any (fun x => x.1.kind = .reader && lanes.all fun q => x.1.pos < q) then Option.none else some 28),
    (12, addressFault p.mgmtAddr [] l),
    (13, firstWith l fun x => x.kind = .merge && m ≤ p.spurLead) ]

/-- The used records of a map, with their indices. -/
def usedOf (m : StationMap) : List (Station × Nat) := (stationsOf m).filter fun x => x.1.kind ≠ .unused

/-- R12: the first check that fails, as the index and the code the reply carries. -/
def mapFault (p : Params) (m : StationMap) : Option (Nat × Nat) :=
  (mapChecks p (usedOf m)).findSome? fun c => c.2.map fun i => (i, c.1)

/-- R13: the index of the first diverter whose margins and swing exceed Gmin. -/
def gapFault (p : Params) (m : StationMap) : Option Nat :=
  firstWith (usedOf m) fun x => x.isDiverter && p.gmin < x.lead + x.trail + swing (max x.so x.sc) p.vmax

/-! ## START (R173) -/

/-- R195: the unsent commands for nodes the new map does not hold are removed. A RELEASE REJECT among them clears
reject in flight. -/
def pruneControl (s : State) : State :=
  let known := fun (c : Ctl) => c.dst = broadcast || (inForce s).any fun x => x.1.carries c.dst
  let gone := s.rng.control.filter fun c => !known c
  let s1 := s.setRng { s.rng with control := s.rng.control.filter known }
  if gone.any (fun c => c.kind = .releaseReject) then indLook (s1.setInd { s1.ind with reject := false }) else s1

/-- R67: the entries for lanes that are not mapped are removed, with their notices, in ascending order. -/
def dropEntries (s : State) : State :=
  let gone := s.ord.entries.filter fun e => !laneMapped s e.lane
  gone.foldl (fun t e => notify (.dropped e.tote e.ref e.lane) t)
    (s.setOrd { entries := s.ord.entries.filter fun e => laneMapped s e.lane })

/-- R89, R102: FPL empties every queue. -/
def emptyQueues (s : State) : State := s.setFpl { s.fpl with queues := Vector.replicate Config.lanes [] }

/-- R108: one gate at an accepted START. -/
def startGate (g : Nat) (s : State) : State :=
  match gateRec s g with
  | some d => setGate g ⟨.closing, some (2 * d.sc), .none, false⟩ (placeControl ⟨d.prim, .gateClose⟩ s)
  | Option.none => s.setGtc { s.gtc with gates := vset s.gtc.gates g Option.none }

/-- R108: every gate at an accepted START, in ascending order of gate number, in which their CLOSE commands join the control
queue (DESIGN CHOICE, log 40). -/
def startGates (s : State) : State := (List.range Config.lanes).foldl (fun t g => startGate g t) s

/-- R121, R135: LAN clears every faulted flag and streak, with the LANE notices in ascending order of lane number (DESIGN
CHOICE, log 40), and sends the lamps (R125). -/
def startLanes (s : State) : State :=
  sendLamps ((List.range Config.lanes).foldl
    (fun t n => laneUpdate n (fun l => { l with faulted := Option.none, streak := 0 }) t) s)

/-- R41: the eye records at their initial values. -/
def initEyes (s : State) : State :=
  match s.pos.inForce with
  | some m => s.setSgt { s.sgt with eyes := vmap (fun x => if x.hasEye then some Eye.initial else Option.none) m }
  | Option.none => s

/-- R41, R61: the eye records and the reader windows at an accepted START. -/
def startEyes (s : State) : State :=
  let s1 := initEyes s
  match s1.pos.inForce with
  | some m =>
      s1.setSgt { s1.sgt with
        windows := vmap (fun x => if x.kind = .reader then some ⟨0, 0, false⟩ else Option.none) m }
  | Option.none => s1

/-- R165, R170: accrual starts if a spur READY is pending (at START, CONFIG is being left). -/
def accrueIfReady (s : State) : State := if s.mrg.ready.isSome then startAccrual s else s

/-- R173: the blocks' start actions, with the new map in force, and the WAKE broadcast with its effects (R63, R125). -/
def startBlocks (s : State) : State :=
  let s1 := pruneControl (s.setPos { s.pos with inForce := some s.pos.map })
  let s2 := accrueIfReady (startEyes (startLanes (startGates (emptyQueues (dropEntries s1)))))
  sendLamps (wakeEyes (broadcastWake s2))

/-- R173: START. The run state in the reply is the one after a settle distance of 0 (log 42). -/
def cmdStart (s : State) : Executed :=
  if s.run.st ≠ .config then refuse .state s
  else
    match mapFault s.params s.pos.map with
    | some (i, code) => (s, .mapInvalid, bytesOf 1 i ++ bytesOf 1 code)
    | Option.none =>
        match gapFault s.params s.pos.map with
        | some i => (s, .gapTooSmall, bytesOf 1 i)
        | Option.none =>
            let s1 := startBlocks s
            let s2 := enterState .starting Option.none .start
              (s1.setRun { s1.run with stage := .none, endPoint := Option.none })
            (s2, .done, settledByte s2)

/-! ## PARK, RESUME, DARK, CLEAR FAULT -/

/-- R178: PARK. -/
def cmdPark (s : State) : Executed :=
  match s.run.st with
  | .starting | .running | .resuming =>
      let s1 := enterState .parked (some .host) .park s
      (s1, .done, runByte s1)
  | .parked =>
      if s.run.wake.isSome then refuse .state s
      else (s.setRun { s.run with rule := some .host }, .done, runByte s)
  | _ => refuse .state s

/-- R180, R183: RESUME. The run state in the reply is the one after a settle distance of 0 (log 42). -/
def cmdResume (s : State) : Executed :=
  if s.run.st = .parked ∨ s.run.st = .dark then
    let s1 := if s.run.wake.isSome then s else resumeFrom .resume s
    (s1, .done, settledByte s1)
  else refuse .state s

/-- R181: DARK. -/
def cmdDark (s : State) : Executed :=
  if s.run.wake.isSome then refuse .state s
  else
    match s.run.st with
    | .parked =>
        match darkFails s with
        | some c => (s, .state, bytesOf 1 c.code)
        | Option.none =>
            let s1 := enterDark (some .host) .dark s
            (s1, .done, runByte s1)
    | .dark => (s.setRun { s.run with rule := some .host }, .done, runByte s)
    | _ => refuse .state s

/-- R177, R188: the fault is cleared, and RUN enters PARKED with resume rule HOST. -/
def leaveFault (cause : StateCause) (s : State) : State :=
  enterState .parked (some .host) cause
    (s.setRun { s.run with cause := .none, detail := 0, further := ⟨false, false, false, false⟩ })

/-- R2: POS sets the runback tally to 0. -/
def zeroTally (s : State) : State := s.setPos { s.pos with tally := 0 }

/-- R177: CLEAR FAULT. -/
def cmdClearFault (s : State) : Executed :=
  if s.run.st ≠ .fault ∨ anyBlocked s = true then refuse .state s
  else
    let s1 := leaveFault .clearFault (zeroTally s)
    (s1, .done, runByte s1)

/-! ## TO CONFIG (R185) -/

/-- R154: IND on entry to CONFIG. The pending READY keeps its standing: it is not examined again where the outstanding release
that held it is cleared here (DESIGN CHOICE, log 41). -/
def configInd (s : State) : State :=
  let s1 := notifySome (s.ind.outstanding.map fun o => .inductTimeout o.tote o.len o.goOdo) s
  indLook (s1.setInd { s1.ind with outstanding := Option.none, holeWait := Option.none })

/-- R169, R170: MRG on entry to CONFIG. -/
def configMrg (s : State) : State :=
  let s1 := notifySome (s.mrg.grant.map fun g => .mergeTimeout g.ready.tote g.ready.len g.goOdo g.forced) s
  let s2 := s1.setMrg { s1.mrg with
    grant := Option.none, debt := 0, count := 0, interval := Option.none, hole := .none, arrival := Option.none }
  mrgLook (if s1.mrg.hole = .travelling then removeHole s2 else s2)

/-- R125, R185: stations asleep are woken, without a wake wait; WAKE brings the lamps (log 33). -/
def wakeForConfig (s : State) : State := if s.run.asleep then sendLamps (broadcastWake s) else s

/-- R185: TO CONFIG. -/
def cmdToConfig (s : State) : Executed :=
  if s.run.st ≠ .parked ∨ s.run.wake.isSome then refuse .state s
  else if 0 < toteCount s then refuse .notEmpty s
  else
    let s1 := wakeForConfig s
    let s2 := enterState .config Option.none .toConfig
      (s1.setRun { s1.run with stage := .none, endPoint := Option.none })
    let s3 := configMrg (configInd (initEyes s2))
    (s3, .done, runByte s3)

/-! ## Resets (R187, R188) -/

/-- R40, R83: TRK removes every record, and the entries of ORDER records return to WAITING. -/
def trackTrk (s : State) : State :=
  let s1 := s.trk.list.foldl (fun t r => settleEntry r .waiting t) s
  s1.setTrk { s1.trk with list := [] }

/-- R114: one gate at a tracking reset. -/
def trackGate (g : Nat) (s : State) : State :=
  match gateOf s g with
  | some x =>
      if x.st = .closed then s
      else driveGate g false (setGate g { x with recovery := false } s)
  | Option.none => s

/-- R114: every gate at a tracking reset, in ascending order of gate number, in which their CLOSE commands join the control
queue (DESIGN CHOICE, log 40). -/
def trackGates (s : State) : State := (List.range Config.lanes).foldl (fun t g => trackGate g t) s

/-- R135: the verify lists are emptied. -/
def trackLanes (s : State) : State :=
  s.setLan { lanes := vmap (fun l => { l with verify := [] }) s.lan.lanes }

/-- R64: one eye at a tracking reset. -/
def trackEye (e : Eye) : Eye :=
  let base := { e with prevTrail := Option.none, prevRec := Option.none }
  match e.pass with
  | .awaiting => { base.ended with crowded := Option.none }
  | .opened =>
      { base with crowded := Option.none, res := match e.res with | .seen _ => .closed | x => x }
  | .noPass => base

/-- R64: the eyes at a tracking reset. -/
def trackEyes (s : State) : State :=
  s.setSgt { s.sgt with eyes := vmap (fun e => e.map trackEye) s.sgt.eyes }

/-- R154, R170: IND and MRG at a tracking reset, before the announcement of the empty list. -/
def trackSlots (s : State) : State :=
  let s1 := s.setInd { s.ind with outstanding := Option.none, holeWait := Option.none }
  let s2 := s1.setMrg { s1.mrg with
    grant := Option.none, debt := 0, count := 0, interval := Option.none, hole := .none, arrival := Option.none }
  if s2.run.st = .config then s2 else accrueIfReady s2

/-- R150: REG at a tracking reset. -/
def trackReg (s : State) : State := recomputeGap (s.setReg { s.reg with s := 0 })

/-- R188: RUN at a tracking reset. -/
def trackRun (s : State) : State :=
  let s1 := s.setRun { s.run with stage := .none, endPoint := Option.none }
  if s1.run.st = .fault then leaveFault .trackReset s1 else s1

/-- R188: the tracking reset. -/
def trackReset (s : State) : State :=
  let s1 := trackEyes (trackLanes (trackGates (emptyQueues (trackTrk s))))
  trackRun (trackReg (zeroTally (listChange (trackSlots s1))))

/-- R188: RESET TRACK. -/
def cmdResetTrack (s : State) : Executed :=
  if s.run.wake.isSome then refuse .state s
  else
    match s.run.st with
    | .config | .parked | .fault =>
        let s1 := trackReset s
        (s1, .done, runByte s1)
    | _ => refuse .state s

/-- R187: RESET DEVICE: the reply is placed, and nothing more is executed. -/
def cmdResetDevice (s : State) : Executed := (s.setCmd { s.cmd with resetWaiting := true }, .done, [])

end Sys2Proof.Machine
end

