-- ==== Sys2Proof/Machine/Orders.lean ====
section
/-! DEFINITION. The order commands (04 R68 to R75). -/

namespace Sys2Proof.Machine

/-- R68, R74, R75: a tote number a command may name. -/
def toteOk (t : Nat) : Bool := 1 ≤ t && t ≤ Config.maxTote

/-- R68: the arguments of ORDER PUT are in range, and its lane is mapped (R67). -/
def orderPutOk (s : State) (t lane priority lapLimit hold : Nat) : Bool :=
  toteOk t && 1 ≤ lane && lane ≤ 16 && laneMapped s lane && (priority = 1 || priority = 2) && 1 ≤ lapLimit &&
    lapLimit ≤ 15 && hold ≤ 1

/-- R68: the data of a DONE or LATE reply to ORDER PUT. -/
def orderPutData (t : Nat) (st : EntryState) (size : Bool) : List Byte :=
  bytesOf 2 t ++ bytesOf 1 st.code ++ flagByte size

/-- R69: ORD tells IND the tote number, and IND examines a READY that it holds for it again (R139). -/
def tellInd (t : Nat) (s : State) : State :=
  match s.ind.ready with
  | some p => if p.ready.tote = some t then reexamine s else s
  | Option.none => s

/-- R73: the record's divert is under way. -/
def divertStarted (s : State) (r : Rec) : Bool := r.st = .verifying || startedFire s r.id

/-- R70: what an amendment changes in the record. -/
def amendRec (e : Entry) (oldLane : Nat) (r : Rec) : Rec :=
  { r with ref := e.ref, laps := if e.lane = oldLane then r.laps else 0
           dest := if r.doubtful then r.dest else some e.lane }

/-- R70, R71: an amendment of a RIDING entry. The answer tells whether the tote is sent to lane 0. -/
def amend (r : Rec) (old e : Entry) (s : State) : State × Bool :=
  let s1 := putEntry e s
  if (laneOf s1 e.lane).cfg.maxLen < r.len then (roleToReturn r.id .size .waiting s1, true)
  else (planReq r.id (modRec r.id (amendRec e old.lane) s1), false)

/-- R68 to R71: ORDER PUT. -/
def cmdOrderPut (t : Nat) (ref : Ref) (lane priority lapLimit hold : Nat) (s : State) : Executed :=
  if orderPutOk s t lane priority lapLimit hold = false then refuse .range s
  else
    let new : EntryState → Entry := fun st => ⟨t, ref, lane, priority = 2, lapLimit, hold = 1, st⟩
    match findEntry s t with
    | Option.none =>
        if Config.maxEntries ≤ s.ord.entries.length then refuse .full s
        else (tellInd t (putEntry (new .waiting) s), .done, orderPutData t .waiting false)
    | some e =>
        match carrier s t with
        | some r =>
            if e.st ≠ .riding then (tellInd t (putEntry (new e.st) s), .done, orderPutData t e.st false)
            else if divertStarted s r then (s, .late, orderPutData t .riding false)
            else
              let (s1, size) := amend r e (new .riding) s
              (s1, .done, orderPutData t (if size then .waiting else .riding) size)
        | Option.none => (tellInd t (putEntry (new e.st) s), .done, orderPutData t e.st false)

/-- R74: ORDER CANCEL. -/
def cmdOrderCancel (t : Nat) (s : State) : Executed :=
  if toteOk t = false then refuse .range s
  else
    match findEntry s t with
    | Option.none => refuse .unknown s
    | some e =>
        let data := bytesOf 2 t ++ bytesOf 1 e.st.code
        match carrier s t with
        | some r =>
            if e.st ≠ .riding then (removeEntry t s, .done, data)
            else if divertStarted s r then (s, .late, data)
            else (roleToReturn r.id .cancelled .removed s, .done, data)
        | Option.none => (removeEntry t s, .done, data)

/-- R75: the divert stage. A VERIFYING record whose fire is still CLOSING meets two lines of R75's table: it is reported as
VERIFYING (DESIGN CHOICE, log 39). -/
def divertStage (s : State) (e : Entry) : Nat :=
  if e.st ≠ .riding then 0
  else
    match carrier s e.tote with
    | some r => if r.st = .verifying then 3 else if startedFire s r.id then 2 else 1
    | Option.none => 1

/-- R75: ORDER QUERY. -/
def cmdOrderQuery (t : Nat) (s : State) : Executed :=
  if toteOk t = false then refuse .range s
  else
    match findEntry s t with
    | Option.none => refuse .unknown s
    | some e =>
        (s, .done, bytesOf 2 t ++ refBytes e.ref ++ bytesOf 1 e.lane ++ bytesOf 1 (if e.rush then 2 else 1) ++
          bytesOf 1 e.lapLimit ++ flagByte e.hold ++ bytesOf 1 e.st.code ++ bytesOf 1 (divertStage s e))

end Sys2Proof.Machine
end

