-- ==== Sys2Proof/Machine/LaneCommands.lean ====
section
/-! DEFINITION. The commands of lanes, regulator, induction and notice mask (06 R123, R124; 07 R149, R153; 11 R212). -/

namespace Sys2Proof.Machine

/-- The data of a reply to LANE SET and LANE CLEAR. -/
def laneData (n : Nat) (s : State) : List Byte := bytesOf 1 n ++ bytesOf 1 (laneOf s n).computed.code

/-- R113: a gate in FAULT starts its recovery. -/
def recoverGate (g : Nat) (x : Gate) (s : State) : State := driveGate g false (setGate g { x with recovery := true } s)

/-- R121, R113: whether LANE SET OPEN clears the faulted flag at once. With cause GATE it stays set for a gate in FAULT, and
for a gate that is recovering until AT_CLOSED proves it. -/
def clearsAtOnce (cause : Option LaneCause) (gate : Option Gate) : Bool :=
  match cause, gate with
  | some .gate, some x => x.st ≠ .fault && !x.recovery
  | _, _ => true

/-- R113, R121, R123: LANE SET with OPEN. -/
def cmdLaneOpen (n : Nat) (s : State) : Executed :=
  if 16 < n then refuse .range s
  else
    let gate := gateOf s n
    let clears := clearsAtOnce (laneOf s n).faulted gate
    let s1 := laneUpdate n (fun l =>
      { l with closed := false, streak := 0, faulted := if clears then Option.none else l.faulted }) s
    let s2 := match gate with
      | some x => if x.st = .fault then recoverGate n x s1 else s1
      | Option.none => s1
    (s2, .done, laneData n s2)

/-- R119, R123: LANE SET with CLOSE. -/
def cmdLaneClose (n : Nat) (s : State) : Executed :=
  if 16 < n then refuse .range s
  else
    let s1 := laneUpdate n (fun l => { l with closed := true }) s
    (s1, .done, laneData n s1)

/-- R124: LANE CLEAR. -/
def cmdLaneClear (n : Nat) (s : State) : Executed :=
  if 16 < n then refuse .range s
  else
    let s1 := laneUpdate n (fun l => { l with occ := 0 }) s
    (s1, .done, laneData n s1)

/-- The regulator mode of a code. -/
def regModeOf (n : Nat) : Option RegMode :=
  if n = 1 then some .closed else if n = 2 then some .frozen else if n = 3 then some .manual else Option.none

/-- R153: the value goes with the mode. -/
def regulateOk (m : RegMode) (v : Nat) : Bool := if m = .manual then v ≤ 1023 else v = 0

/-- R153: REGULATE. -/
def cmdRegulate (mode value : Nat) (s : State) : Executed :=
  match regModeOf mode with
  | some m =>
      if regulateOk m value then
        let s1 := recomputeGap (s.setReg { s.reg with mode := m, s := if m = .manual then value else s.reg.s })
        (s1, .done, bytesOf 1 mode ++ bytesOf 2 s1.reg.s ++ bytesOf 2 s1.reg.g)
      else refuse .range s
  | Option.none => refuse .range s

/-- R149: INDUCT SKIP. -/
def cmdInductSkip (s : State) : Executed :=
  match s.ind.ready with
  | some p =>
      if s.run.st = .config ∨ s.ind.outstanding.isSome then refuse .state s
      else
        let s1 := placeForKind .induct .releaseReject s
        (runIdle (indLook (s1.setInd { s1.ind with ready := Option.none, reject := true })), .done,
          toteBytes p.ready.tote ++ bytesOf 1 p.ready.len)
  | Option.none => refuse .state s

/-- R212: NOTICE MASK. -/
def cmdNoticeMask (mask : Byte) (s : State) : Executed := (s.setNtq { s.ntq with mask := mask }, .done, [mask])

end Sys2Proof.Machine
end

