-- ==== Sys2Proof/Machine/Queries.lean ====
section
/-! DEFINITION. The queries (11 R208 to R211). -/

namespace Sys2Proof.Machine

/-! ## Pages (R208) -/

/-- R208: the page a paged query gives. -/
def pageFor (held : Option PageRec) (lane : Option Nat) (pages : Nat) : Nat :=
  match held with
  | some x => if x.lane = lane then (x.page + 1) % pages else 0
  | Option.none => 0

/-- R209: a distance to go. -/
def toGo (s : State) (p : Option Int) : List Byte :=
  match p with
  | some x => bytesOf 2 (min (x - now s).toNat 65534)
  | Option.none => bytesOf 2 65535

/-- R209: page 0 of QUERY STATUS. -/
def statusRun (s : State) : List Byte :=
  bytesOf 1 0 ++ runByte s ++ bytesOf 1 (ruleCode s.run.rule) ++ bytesOf 1 s.run.cause.code ++ bytesOf 1 s.run.detail ++
    bytesOf 1 s.run.further.weights ++ flagByte s.run.asleep ++ bytesOf 1 s.run.stage.code ++ pointBytes s.run.endPoint ++
    flagByte s.cmd.hostless ++ bytesOf 1 s.pos.tally ++ bytesOf 5 s.pos.odo

/-- R209: page 1. -/
def statusList (s : State) : List Byte :=
  bytesOf 1 1 ++ bytesOf 2 s.pos.v ++ bytesOf 2 s.pos.vref ++ bytesOf 1 (toteCount s) ++ flagByte (holePresent s) ++
    bytesOf 2 (entryCount s .waiting) ++ bytesOf 2 (entryCount s .riding) ++ bytesOf 2 (entryCount s .lost) ++
    bytesOf 2 s.reg.s ++ bytesOf 1 s.reg.mode.code ++ bytesOf 2 s.reg.g ++ bytesOf 1 s.reg.lastN ++ signedByte s.reg.lastE

/-- R209: the code of the pending READY's standing. -/
def standingCode : Option Pending → Nat
  | Option.none => 0
  | some p => match p.standing with | .candidate => 1 | .heldNoread => 2 | .heldNoOrder => 3 | .heldDuplicate => 4

/-- R209: the code of the pending spur READY. -/
def spurCode : Option Ready → Nat
  | Option.none => 0
  | some r => if r.tote.isNone then 1 else 2

/-- R209: page 2. The interval count is the register of R155, held while accrual runs (log 16). -/
def statusSlots (s : State) : List Byte :=
  bytesOf 1 2 ++ bytesOf 1 (standingCode s.ind.ready) ++ toteBytes (s.ind.ready.bind (·.ready.tote)) ++
    toteBytes (s.ind.outstanding.map (·.tote)) ++ toGo s s.ind.releasePoint ++ bytesOf 1 (s.ind.holeWait.getD 0) ++
    bytesOf 1 (spurCode s.mrg.ready) ++ toteBytes (s.mrg.ready.bind (·.tote)) ++
    bytesOf 1 (match s.mrg.grant with | some g => if g.forced then 2 else 1 | Option.none => 0) ++
    toteBytes (s.mrg.grant.bind (·.ready.tote)) ++ signedByte s.mrg.debt ++ bytesOf 2 s.mrg.count ++
    bytesOf 1 s.mrg.hole.code

/-- Put a reader at its place by position. -/
def byPosition (x : Station × Nat) : List (Station × Nat) → List (Station × Nat)
  | [] => [x]
  | y :: ys => if x.1.pos < y.1.pos then x :: y :: ys else y :: byPosition x ys

/-- R14: the readers in ascending position. -/
def readersInOrder (s : State) : List (Station × Nat) := (readers s).foldl (fun l x => byPosition x l) []

/-- R61: a reader is DEGRADED. -/
def degradedAt (s : State) (i : Nat) : Bool :=
  match vget s.sgt.windows i Option.none with
  | some w => w.degraded
  | Option.none => false

/-- R209: the health byte. -/
def healthByte (s : State) : Nat :=
  ((readersInOrder s).zipIdx.map fun x => if degradedAt s x.1.2 then 2 ^ x.2 else 0).sum

/-- R209: page 3. The reply queue count includes this reply. -/
def statusRing (s : State) : List Byte :=
  bytesOf 1 3 ++ bytesOf 1 s.rng.forward.length ++ bytesOf 1 s.rng.control.length ++
    bytesOf 1 (s.rng.replies.length + 1) ++ bytesOf 1 s.ntq.queue.length ++ bytesOf 1 s.ntq.overflow ++ [s.ntq.mask] ++
    bytesOf 1 (readers s).length ++ bytesOf 1 (healthByte s)

/-- R209: a page of QUERY STATUS. -/
def statusPage (s : State) (page : Nat) : List Byte :=
  match page with
  | 0 => statusRun s
  | 1 => statusList s
  | 2 => statusSlots s
  | _ => statusRing s

/-- R208: the page record after a page is given. -/
def keepPage (lane : Option Nat) (page : Nat) (s : State) : State :=
  s.setCmd { s.cmd with page := some ⟨lane, page⟩ }

/-- R209: QUERY STATUS. -/
def cmdQueryStatus (s : State) : Executed :=
  let page := pageFor s.cmd.page Option.none 4
  (keepPage Option.none page s, .done, statusPage s page)

/-! ## QUERY LANE (R210) -/

/-- R210: page 0. The last lamp command has the codes of a LAMP frame (log 36). -/
def lanePage0 (s : State) (n : Nat) : List Byte :=
  let l := laneOf s n
  bytesOf 1 0 ++ bytesOf 1 n ++ bytesOf 1 l.reported.code ++
    bytesOf 1 ((if l.closed then 1 else 0) + (if l.halted then 2 else 0) + (if l.faulted.isSome then 4 else 0)) ++
    bytesOf 1 (laneCauseCode l.faulted) ++ bytesOf 1 l.occ ++ bytesOf 1 (committed s n) ++ bytesOf 1 l.streak ++
    bytesOf 1 (if l.lampOn then 1 else 2) ++ bytesOf 1 l.verify.length ++ pointBytes (l.verify.head?.map (·.deadline)) ++
    bytesOf 1 l.cfg.cap ++ bytesOf 1 l.cfg.reserve ++ bytesOf 1 l.cfg.maxLen ++ bytesOf 1 l.cfg.ev ++
    bytesOf 1 (if l.cfg.initOpen then 1 else 2)

/-- R210: the gate items of page 1; 0 for an unmapped gate. -/
def gateItems (s : State) (n : Nat) : List Byte :=
  match gateOf s n with
  | some x =>
      bytesOf 1 x.st.code ++ bytesOf 1 x.cause.code ++ bytesOf 2 (vget s.gtc.spurious n 0) ++
        bytesOf 1 (queueOf s n).length ++ bytesOf 1 (((queueOf s n).head?.map (·.st.code)).getD 0)
  | Option.none => bytesOf 6 0

/-- R211: the counters of a lane, in order. -/
def laneCounters (s : State) (n : Nat) : List Nat :=
  let l := laneOf s n
  [l.deliveries, vget s.fpl.misses n 0, l.failed, l.stray, l.underflows]

/-- Counters of two bytes each. -/
def counterBytes (l : List Nat) : List Byte := l.flatMap (bytesOf 2)

/-- R210: page 1. -/
def lanePage1 (s : State) (n : Nat) : List Byte :=
  bytesOf 1 1 ++ bytesOf 1 n ++ gateItems s n ++ counterBytes (laneCounters s n)

/-- R210: QUERY LANE. -/
def cmdQueryLane (n : Nat) (s : State) : Executed :=
  if 16 < n then refuse .range s
  else
    let page := pageFor s.cmd.page (some n) 2
    (keepPage (some n) page s, .done, if page = 0 then lanePage0 s n else lanePage1 s n)

/-! ## QUERY TOTE (R210) -/

/-- R210: the counts byte. -/
def countsOf (r : Rec) : Nat :=
  r.missed + 4 * r.doubt + (if r.doubtful then 16 else 0) + (if r.crowded then 32 else 0)

/-- R210: QUERY TOTE. -/
def cmdQueryTote (t : Nat) (s : State) : Executed :=
  if toteOk t = false then refuse .range s
  else
    match carrier s t with
    | Option.none => refuse .unknown s
    | some r =>
        (s, .done, bytesOf 2 t ++ bytesOf 1 r.role.code ++ bytesOf 1 r.reason.code ++ refBytes r.ref ++
          bytesOf 2 (posOf s r.anchor).toNat ++ bytesOf 1 r.len ++ bytesOf 1 (r.dest.getD 0) ++ bytesOf 1 r.laps ++
          bytesOf 1 r.st.code ++ bytesOf 1 (countsOf r) ++ pointBytes r.deadline ++ bytesOf 1 r.refusal.code)

/-! ## QUERY COUNTERS (R211) -/

/-- R211: the counters of a group and index; none where the query is refused. -/
def countersOf (s : State) (group index : Nat) : Option (List Nat) :=
  match group with
  | 1 =>
      if index = 0 then
        some [s.trk.lost, s.trk.jumps, s.sgt.strays, s.sgt.phantoms, s.rng.crcDrops, s.rng.hopDrops, s.rng.fwdDrops,
          s.rng.unmapped, s.rng.cmdDrops]
      else Option.none
  | 2 => if index ≤ 16 then some (laneCounters s index) else Option.none
  | 3 =>
      if (stationAt s index).kind = .reader then some [vget s.sgt.passes index 0, vget s.sgt.noreads index 0]
      else Option.none
  | 4 => if (gateRec s index).isSome then some [vget s.gtc.spurious index 0] else Option.none
  | _ => Option.none

/-- R211: the counters of a group and index are set to 0. -/
def clearCounters (group index : Nat) (s : State) : State :=
  match group with
  | 1 =>
      let s1 := s.setTrk { s.trk with lost := 0, jumps := 0 }
      let s2 := s1.setSgt { s1.sgt with strays := 0, phantoms := 0 }
      s2.setRng { s2.rng with crcDrops := 0, hopDrops := 0, fwdDrops := 0, unmapped := 0, cmdDrops := 0 }
  | 2 =>
      let s1 := modLane index (fun l => { l with deliveries := 0, failed := 0, stray := 0, underflows := 0 }) s
      s1.setFpl { s1.fpl with misses := vset s1.fpl.misses index 0 }
  | 3 => s.setSgt { s.sgt with passes := vset s.sgt.passes index 0, noreads := vset s.sgt.noreads index 0 }
  | 4 => s.setGtc { s.gtc with spurious := vset s.gtc.spurious index 0 }
  | _ => s

/-- R211: QUERY COUNTERS. -/
def cmdQueryCounters (group index clear : Nat) (s : State) : Executed :=
  if 1 < clear then refuse .range s
  else
    match countersOf s group index with
    | Option.none => refuse .range s
    | some l =>
        (if clear = 1 then clearCounters group index s else s, .done,
          bytesOf 1 group ++ bytesOf 1 index ++ counterBytes l)

end Sys2Proof.Machine
end

