-- ==== Sys2Proof/Machine/RingPort.lean ====
section
/-! DEFINITION. The ring port: the hand-over of commands by their operation codes, reception and transmission
(10 R191 to R198). -/

namespace Sys2Proof.Machine

/-! ## Commands by operation (section 10.7) -/

/-- R201, section 10.7: the argument length of an operation; for PUT RECORDS it depends on the pointer's table and is
checked there. -/
def argumentsOk (op n : Nat) : Bool :=
  match op with
  | 1 | 4 | 5 | 6 | 7 | 8 | 9 | 17 | 19 => n = 0
  | 2 | 12 | 13 | 14 | 21 => n = 2
  | 3 => true
  | 10 | 15 | 18 | 20 => n = 1
  | 11 => n = 10
  | 16 | 22 => n = 3
  | _ => false

/-- R201: what a COMMAND executes. -/
def executeOp (op : Nat) (a : List Byte) (s : State) : Executed :=
  if argumentsOk op a.length = false then refuse .format s
  else
    match op with
    | 1 => cmdHeartbeat s
    | 2 => cmdSetPointer (byteAt a 0) (byteAt a 1) s
    | 3 => cmdPutRecords a s
    | 4 => cmdStart s
    | 5 => cmdPark s
    | 6 => cmdResume s
    | 7 => cmdDark s
    | 8 => cmdClearFault s
    | 9 => cmdToConfig s
    | 10 => if byteAt a 0 = 1 then cmdResetTrack s else if byteAt a 0 = 2 then cmdResetDevice s else refuse .range s
    | 11 => cmdOrderPut (wordAt a 0) (refAt a 2) (byteAt a 6) (byteAt a 7) (byteAt a 8) (byteAt a 9) s
    | 12 => cmdOrderCancel (wordAt a 0) s
    | 13 => cmdOrderQuery (wordAt a 0) s
    | 14 =>
        if byteAt a 1 = 1 then cmdLaneOpen (byteAt a 0) s
        else if byteAt a 1 = 2 then cmdLaneClose (byteAt a 0) s
        else refuse .range s
    | 15 => cmdLaneClear (byteAt a 0) s
    | 16 => cmdRegulate (byteAt a 0) (wordAt a 1) s
    | 17 => cmdInductSkip s
    | 18 => cmdNoticeMask (a.headD 0#8) s
    | 19 => cmdQueryStatus s
    | 20 => cmdQueryLane (byteAt a 0) s
    | 21 => cmdQueryTote (wordAt a 0) s
    | 22 => cmdQueryCounters (byteAt a 0) (byteAt a 1) (byteAt a 2) s
    | _ => refuse .format s

/-- R187, section 10.7: a COMMAND is RESET with the argument DEVICE. -/
def isDeviceReset (op : Nat) (a : List Byte) : Bool := op = 10 && a = [2#8]

/-- R193, R201: CMD takes a COMMAND frame. -/
def takeCommand (p : List Byte) (s : State) : State :=
  let op := byteAt p 0
  answer op (p.getD 1 0#8) (isDeviceReset op (p.drop 2)) (executeOp op (p.drop 2)) s

/-! ## Reception -/

/-- R207: RNG reports a frame from the management address. -/
def linkReport (s : State) : State :=
  let s1 := if s.cmd.hostless then
      notify (.hostless false) (indLook (s.setCmd { s.cmd with hostless := false }))
    else s
  if s1.params.linkTimeout = 0 then s1
  else s1.setCmd { s1.cmd with link := some (1000 * s1.params.linkTimeout) }

/-- R192, R194: a copy with its hop count raised by 1 joins the forward queue, or is dropped and counted. -/
def forwardCopy (x : Frame) (s : State) : State :=
  if s.rng.forward.length < Config.maxForward then
    s.setRng { s.rng with forward := s.rng.forward ++ [{ x with hop := x.hop + 1 }] }
  else s.setRng { s.rng with fwdDrops := satInc counterMax s.rng.fwdDrops }

/-- R193: the block that takes a station frame. -/
def takeStation (x : Frame) (s : State) : State :=
  let c := byteAt x.payload 0
  let t := wordAt x.payload 1
  match x.kind with
  | 16 => stationFrame x.src .eye (sightingFrame (if c = 1 then takeLead else takeTrail)) s
  | 17 => stationFrame x.src .tag
      (sightingFrame fun i stamp => takeTag i stamp (if c = 1 then some t else Option.none)) s
  | 18 => stationFrame x.src .lane
      (laneFrame fun n => if c = 1 then takeEntry n else if c = 2 then takeRemoval n else setHalted (c = 3) n) s
  | 19 => stationFrame x.src .gate
      (laneFrame fun g => if c = 1 then takeAtOpen g else if c = 2 then takeAtClosed g else takeDriveFault g) s
  | 20 => stationFrame x.src .induct
      (stampedFrame fun stamp =>
        if c = 1 then takeReady t (byteAt x.payload 3) else if c = 2 then takeReleased stamp else takeEmpty) s
  | _ => stationFrame x.src .spur
      (stampedFrame fun stamp =>
        if c = 1 then takeSpurReady t (byteAt x.payload 3) else if c = 2 then takeMerged stamp else takeSpurEmpty) s

/-- R193: a consumed frame is handed to the block that takes its kind. -/
def consume (x : Frame) (s : State) : State :=
  if kEye ≤ x.kind ∧ x.kind ≤ kSpur then takeStation x s
  else if x.kind = kCommand then
    if x.src = s.params.mgmtAddr then takeCommand x.payload s else countCmdDrop s
  else if x.dst = 0 then countUnmapped s
  else s

/-- R192: a frame that has passed the frame check. For a broadcast the consumed copy is taken first (log 24). -/
def route (x : Frame) (s : State) : State :=
  if x.src = 0 then s
  else if x.hop = 63 then s.setRng { s.rng with hopDrops := satInc counterMax s.rng.hopDrops }
  else if x.dst = 0 then consume x s
  else if x.dst = broadcast then forwardCopy x (consume x s)
  else forwardCopy x s

/-- R191 to R193, R207: a frame has ended at ring-in. A release point that the link report sets at the odometer is taken
before the frame is (R4, log 5). -/
def receive (missing : Bool) (bs : List Byte) (s : State) : State :=
  if portRuns s then
    match frameOf missing bs with
    | Option.none => s.setRng { s.rng with crcDrops := satInc counterMax s.rng.crcDrops }
    | some x => route x (if x.src = s.params.mgmtAddr then takeReached (linkReport s) else s)
  else s

/-! ## Transmission -/

/-- R198: the frame of a command. -/
def Ctl.frame (c : Ctl) : Frame := ⟨c.dst, 0, 0, c.kind.code, c.kind.payload⟩

/-- R214: after a notice has left, NTQ examines the overflow count. -/
def examineOverflow (s : State) : State :=
  if s.ntq.queue.length = Config.overflowAt ∧ 0 < s.ntq.overflow then
    s.setNtq { s.ntq with queue := s.ntq.queue ++ [⟨s.pos.odo, .overflow s.ntq.overflow⟩], overflow := 0 }
  else s

/-- R197: the transmission of a frame begins; the marker turns. -/
def beginSending (x : Frame) (k : SentAs) (s : State) : State :=
  s.setRng { s.rng with sending := some ⟨x, k⟩, turn := if k = .forwarded then .own else .forward }

/-- R197: the own frame chosen, if own traffic waits. -/
def sendOwn (s : State) : Option State :=
  match s.rng.control, s.rng.replies, s.ntq.queue with
  | c :: cs, _, _ => some (beginSending c.frame (.command c.kind) (s.setRng { s.rng with control := cs }))
  | [], r :: rs, _ =>
      some (beginSending ⟨s.params.mgmtAddr, 0, 0, kReply, r.payload⟩ (.reply r.resets)
        (s.setRng { s.rng with replies := rs }))
  | [], [], n :: ns =>
      some (beginSending ⟨s.params.mgmtAddr, 0, 0, kNotice, n.payload⟩ .notice
        (examineOverflow (s.setNtq { s.ntq with queue := ns })))
  | [], [], [] => Option.none

/-- R197: the forwarded frame, if one waits. -/
def sendForward (s : State) : Option State :=
  match s.rng.forward with
  | x :: xs => some (beginSending x .forwarded (s.setRng { s.rng with forward := xs }))
  | [] => Option.none

/-- R197: the line is free and the arbiter chooses. While a frame is being sent the line is not free. -/
def transmit (s : State) : State :=
  if portRuns s && s.rng.sending.isNone then
    match s.rng.turn with
    | .forward => ((sendForward s).or (sendOwn s)).getD s
    | .own => ((sendOwn s).or (sendForward s)).getD s
  else s

/-- R187, R190: the reply to RESET DEVICE has left, and the part resets. -/
def deviceReset (s : State) : State := powerOn s

/-- R198: the last byte of the frame has left ring-out. -/
def finishSending (s : State) : State :=
  match s.rng.sending with
  | Option.none => s
  | some x =>
      let s1 := s.setRng { s.rng with sending := Option.none }
      match x.kind with
      | .command .releaseReject => indLook (s1.setInd { s1.ind with reject := false })
      | .reply true => deviceReset s1
      | _ => s1

end Sys2Proof.Machine
end

