-- ==== Sys2Proof/Machine/BeltPoints.lean ====
section
/-! DEFINITION. The meanings of the belt points and of the timers. A timer's row takes the reached points first (R4, log 5).
-/

namespace Sys2Proof.Machine

/-- ORIGIN_PASSAGE (R22). -/
def execOriginPassage (rec : Nat) (s : State) : Out State := .next (originPoint rec s)

/-- SIGHTING_DEADLINE (R37, R38). -/
def execSightingDeadline (rec : Nat) (s : State) : Out State := .next (deadlinePoint rec s)

/-- JAM_POINT (R45). -/
def execJamPoint (station : Nat) (s : State) : Out State := .next (jamDue station s)

/-- TAG_LIMIT (R47). -/
def execTagLimit (station : Nat) (s : State) : Out State := .next (tagLimitDue station s)

/-- OPEN_START (R105). -/
def execOpenStart (gate : Nat) (s : State) : Out State := .next (openStartPoint gate s)

/-- CHECK_POINT (R106). -/
def execCheckPoint (gate : Nat) (s : State) : Out State := .next (checkFirePoint gate s)

/-- CLOSE_START (R107). -/
def execCloseStart (gate : Nat) (s : State) : Out State := .next (closeStartPoint gate s)

/-- END_POINT (R107). -/
def execEndPoint (gate : Nat) (s : State) : Out State := .next (endFirePoint gate s)

/-- PASSAGE_WATCH (R103). -/
def execPassageWatch (rec : Nat) (s : State) : Out State := .next (watchPoint rec s)

/-- VERIFY_DEADLINE (R129). -/
def execVerifyDeadline (lane : Nat) (s : State) : Out State := .next (verifyPoint lane s)

/-- RELEASE_POINT (R144). -/
def execReleasePoint (s : State) : Out State := .next (releaseDue s)

/-- CONFIRM_POINT (R146). -/
def execConfirmPoint (s : State) : Out State := .next (confirmDue s)

/-- HOLE_POINT (R148). -/
def execHolePoint (s : State) : Out State := .next (holeDue s)

/-- MERGE_POINT (R160). -/
def execMergePoint (s : State) : Out State := .next (mergeDue s)

/-- MERGE_CONFIRM_POINT (R162). -/
def execMergeConfirmPoint (s : State) : Out State := .next (mergeConfirmDue s)

/-- INTERVAL_POINT (R165 to R167). -/
def execIntervalPoint (s : State) : Out State := .next (intervalDue s)

/-- ARRIVAL_POINT (R168). -/
def execArrivalPoint (s : State) : Out State := .next (arrivalDue s)

/-- SAMPLE_POINT (R151). -/
def execSamplePoint (s : State) : Out State := .next (sampleDue s)

/-- SETTLE_POINT (R174). -/
def execSettlePoint (s : State) : Out State := .next (settleDue s)

/-- RESUME_END_POINT (R184). -/
def execResumeEndPoint (s : State) : Out State := .next (resumeEndDue s)

/-- FEEDBACK_TIMER_EXPIRY (R111). -/
def execFeedbackTimerExpiry (gate : Nat) (s : State) : Out State := .next (feedbackExpiry gate (takeReached s))

/-- STALL_TIMER_EXPIRY (R175). -/
def execStallTimerExpiry (s : State) : Out State := .next (stallExpiry (takeReached s))

/-- IDLE_TIMER_EXPIRY (R179). -/
def execIdleTimerExpiry (s : State) : Out State := .next (idleExpiry (takeReached s))

/-- PARK_TIMER_EXPIRY (R182). -/
def execParkTimerExpiry (s : State) : Out State := .next (parkExpiry (takeReached s))

/-- WAKE_WAIT_EXPIRY (R183). -/
def execWakeWaitExpiry (s : State) : Out State := .next (wakeExpiry (takeReached s))

/-- LINK_TIMER_EXPIRY (R207). -/
def execLinkTimerExpiry (s : State) : Out State := .next (linkExpiry (takeReached s))

end Sys2Proof.Machine
end

