-- ==== Sys2Proof/Machine/Inputs.lean ====
section
/-! DEFINITION. The meanings of the resets, the encoder, the speed windows and the ring. The count, the window's end and the
rows of the ring take the reached points first (R4, log 5). -/

namespace Sys2Proof.Machine

/-- RESET_ASSERT (R186). -/
def execResetAssert (cause : ResetCause) (s : State) : Out State := .next (beginReset cause s)

/-- RESET_RELEASE (R186). -/
def execResetRelease (cause : ResetCause) (pair : EncPair) (s : State) : Out State := .next (endReset cause pair s)

/-- RING_PORT_START (R190). -/
def execRingPortStart (s : State) : Out State := .next (startPort s)

/-- FORWARD_COUNT (R2, R3). -/
def execForwardCount (s : State) : Out State := .next (forward s)

/-- REVERSE_COUNT (R2). -/
def execReverseCount (s : State) : Out State := .next (reverse (takeReached s))

/-- ILLEGAL_STEP (R1). -/
def execIllegalStep (s : State) : Out State := .next (illegal s)

/-- SPEED_WINDOW_END (R5 to R7). -/
def execSpeedWindowEnd (s : State) : Out State := .next (windowEnd (takeReached s))

/-- RING_FRAME (R191 to R193). -/
def execRingFrame (stopBitMissing : Bool) (bytes : List Byte) (s : State) : Out State :=
  .next (receive stopBitMissing bytes (takeReached s))

/-- TRANSMIT_START (R197). -/
def execTransmitStart (s : State) : Out State := .next (transmit (takeReached s))

/-- TRANSMIT_END (R198). -/
def execTransmitEnd (s : State) : Out State := .next (finishSending (takeReached s))

end Sys2Proof.Machine
end

