-- ==== Sys2Proof/Machine/Management.lean ====
section
/-! DEFINITION. The meanings of the management commands handed to CMD. Each takes the reached points first (R4, log 5). -/

namespace Sys2Proof.Machine

/-- HEARTBEAT (R206). -/
def execHeartbeat (tag : Byte) (s : State) : Out State := .next (answer 1 tag false cmdHeartbeat (takeReached s))

/-- SET_POINTER (R203). -/
def execSetPointer (tag : Byte) (table index : Nat) (s : State) : Out State :=
  .next (answer 2 tag false (cmdSetPointer table index) (takeReached s))

/-- PUT_RECORDS (R204). -/
def execPutRecords (tag : Byte) (records : List Byte) (s : State) : Out State :=
  .next (answer 3 tag false (cmdPutRecords records) (takeReached s))

/-- START (R173). -/
def execStart (tag : Byte) (s : State) : Out State := .next (answer 4 tag false cmdStart (takeReached s))

/-- PARK (R178). -/
def execPark (tag : Byte) (s : State) : Out State := .next (answer 5 tag false cmdPark (takeReached s))

/-- RESUME (R180). -/
def execResume (tag : Byte) (s : State) : Out State := .next (answer 6 tag false cmdResume (takeReached s))

/-- DARK (R181). -/
def execDark (tag : Byte) (s : State) : Out State := .next (answer 7 tag false cmdDark (takeReached s))

/-- CLEAR_FAULT (R177). -/
def execClearFault (tag : Byte) (s : State) : Out State := .next (answer 8 tag false cmdClearFault (takeReached s))

/-- TO_CONFIG (R185). -/
def execToConfig (tag : Byte) (s : State) : Out State := .next (answer 9 tag false cmdToConfig (takeReached s))

/-- RESET_TRACK (R188). -/
def execResetTrack (tag : Byte) (s : State) : Out State := .next (answer 10 tag false cmdResetTrack (takeReached s))

/-- RESET_DEVICE (R187). -/
def execResetDevice (tag : Byte) (s : State) : Out State := .next (answer 10 tag true cmdResetDevice (takeReached s))

/-- ORDER_PUT (R68 to R71). -/
def execOrderPut (tag : Byte) (tote : Nat) (ref : Ref) (lane priority lapLimit hold : Nat) (s : State) : Out State :=
  .next (answer 11 tag false (cmdOrderPut tote ref lane priority lapLimit hold) (takeReached s))

/-- ORDER_CANCEL (R74). -/
def execOrderCancel (tag : Byte) (tote : Nat) (s : State) : Out State :=
  .next (answer 12 tag false (cmdOrderCancel tote) (takeReached s))

/-- ORDER_QUERY (R75). -/
def execOrderQuery (tag : Byte) (tote : Nat) (s : State) : Out State :=
  .next (answer 13 tag false (cmdOrderQuery tote) (takeReached s))

/-- LANE_SET_OPEN (R123). -/
def execLaneSetOpen (tag : Byte) (lane : Nat) (s : State) : Out State :=
  .next (answer 14 tag false (cmdLaneOpen lane) (takeReached s))

/-- LANE_SET_CLOSE (R123). -/
def execLaneSetClose (tag : Byte) (lane : Nat) (s : State) : Out State :=
  .next (answer 14 tag false (cmdLaneClose lane) (takeReached s))

/-- LANE_CLEAR (R124). -/
def execLaneClear (tag : Byte) (lane : Nat) (s : State) : Out State :=
  .next (answer 15 tag false (cmdLaneClear lane) (takeReached s))

/-- REGULATE (R153). -/
def execRegulate (tag : Byte) (mode value : Nat) (s : State) : Out State :=
  .next (answer 16 tag false (cmdRegulate mode value) (takeReached s))

/-- INDUCT_SKIP (R149). -/
def execInductSkip (tag : Byte) (s : State) : Out State := .next (answer 17 tag false cmdInductSkip (takeReached s))

/-- NOTICE_MASK (R212). -/
def execNoticeMask (tag : Byte) (mask : Byte) (s : State) : Out State :=
  .next (answer 18 tag false (cmdNoticeMask mask) (takeReached s))

/-- QUERY_STATUS (R209). -/
def execQueryStatus (tag : Byte) (s : State) : Out State := .next (answer 19 tag false cmdQueryStatus (takeReached s))

/-- QUERY_LANE (R210). -/
def execQueryLane (tag : Byte) (lane : Nat) (s : State) : Out State :=
  .next (answer 20 tag false (cmdQueryLane lane) (takeReached s))

/-- QUERY_TOTE (R210). -/
def execQueryTote (tag : Byte) (tote : Nat) (s : State) : Out State :=
  .next (answer 21 tag false (cmdQueryTote tote) (takeReached s))

/-- QUERY_COUNTERS (R211). -/
def execQueryCounters (tag : Byte) (group index clear : Nat) (s : State) : Out State :=
  .next (answer 22 tag false (cmdQueryCounters group index clear) (takeReached s))

end Sys2Proof.Machine
end

