-- ==== Sys2Proof/Machine/Stations.lean ====
section
/-! DEFINITION. The meanings of the station frames. Each takes the reached points first (R4, log 5). -/

namespace Sys2Proof.Machine

/-- EYE_LEAD (R42). -/
def execEyeLead (src : Nat) (s : State) : Out State :=
  .next (stationFrame src .eye (sightingFrame takeLead) (takeReached s))

/-- EYE_TRAIL (R43). -/
def execEyeTrail (src : Nat) (s : State) : Out State :=
  .next (stationFrame src .eye (sightingFrame takeTrail) (takeReached s))

/-- TAG (R46). -/
def execTag (src : Nat) (read : Option Nat) (s : State) : Out State :=
  .next (stationFrame src .tag (sightingFrame fun i stamp => takeTag i stamp read) (takeReached s))

/-- ENTRY (R117, R127). -/
def execEntry (src : Nat) (s : State) : Out State :=
  .next (stationFrame src .lane (laneFrame takeEntry) (takeReached s))

/-- REMOVAL (R117). -/
def execRemoval (src : Nat) (s : State) : Out State :=
  .next (stationFrame src .lane (laneFrame takeRemoval) (takeReached s))

/-- HALT_ON (R120). -/
def execHaltOn (src : Nat) (s : State) : Out State :=
  .next (stationFrame src .lane (laneFrame (setHalted true)) (takeReached s))

/-- HALT_OFF (R120). -/
def execHaltOff (src : Nat) (s : State) : Out State :=
  .next (stationFrame src .lane (laneFrame (setHalted false)) (takeReached s))

/-- AT_OPEN (R110). -/
def execAtOpen (src : Nat) (s : State) : Out State :=
  .next (stationFrame src .gate (laneFrame takeAtOpen) (takeReached s))

/-- AT_CLOSED (R110). -/
def execAtClosed (src : Nat) (s : State) : Out State :=
  .next (stationFrame src .gate (laneFrame takeAtClosed) (takeReached s))

/-- DRIVE_FAULT (R112). -/
def execDriveFault (src : Nat) (s : State) : Out State :=
  .next (stationFrame src .gate (laneFrame takeDriveFault) (takeReached s))

/-- INDUCT_READY (R137). -/
def execInductReady (src tote len : Nat) (s : State) : Out State :=
  .next (stationFrame src .induct (stampedFrame fun _ => takeReady tote len) (takeReached s))

/-- RELEASED (R145, R147). -/
def execReleased (src : Nat) (s : State) : Out State :=
  .next (stationFrame src .induct (stampedFrame takeReleased) (takeReached s))

/-- INDUCT_EMPTY (R141). -/
def execInductEmpty (src : Nat) (s : State) : Out State :=
  .next (stationFrame src .induct (stampedFrame fun _ => takeEmpty) (takeReached s))

/-- SPUR_READY (R156). -/
def execSpurReady (src tote len : Nat) (s : State) : Out State :=
  .next (stationFrame src .spur (stampedFrame fun _ => takeSpurReady tote len) (takeReached s))

/-- SPUR_MERGED (R161, R163). -/
def execSpurMerged (src : Nat) (s : State) : Out State :=
  .next (stationFrame src .spur (stampedFrame takeMerged) (takeReached s))

/-- SPUR_EMPTY (R164). -/
def execSpurEmpty (src : Nat) (s : State) : Out State :=
  .next (stationFrame src .spur (stampedFrame fun _ => takeSpurEmpty) (takeReached s))

end Sys2Proof.Machine
end

