-- ==== Sys2Proof/Machine/Dispatch.lean ====
section
/-! DEFINITION. One arm per command. -/

namespace Sys2Proof.Machine

def exec (i : Instr) (s : State) : Host.Outcome State Fault Refusal :=
  match i with
  | .resetAssert cause => Sys2Proof.Machine.execResetAssert cause s
  | .resetRelease cause pair => Sys2Proof.Machine.execResetRelease cause pair s
  | .ringPortStart => Sys2Proof.Machine.execRingPortStart s
  | .forwardCount => Sys2Proof.Machine.execForwardCount s
  | .reverseCount => Sys2Proof.Machine.execReverseCount s
  | .illegalStep => Sys2Proof.Machine.execIllegalStep s
  | .speedWindowEnd => Sys2Proof.Machine.execSpeedWindowEnd s
  | .ringFrame stopBitMissing bytes => Sys2Proof.Machine.execRingFrame stopBitMissing bytes s
  | .eyeLead src => Sys2Proof.Machine.execEyeLead src s
  | .eyeTrail src => Sys2Proof.Machine.execEyeTrail src s
  | .tag src read => Sys2Proof.Machine.execTag src read s
  | .entry src => Sys2Proof.Machine.execEntry src s
  | .removal src => Sys2Proof.Machine.execRemoval src s
  | .haltOn src => Sys2Proof.Machine.execHaltOn src s
  | .haltOff src => Sys2Proof.Machine.execHaltOff src s
  | .atOpen src => Sys2Proof.Machine.execAtOpen src s
  | .atClosed src => Sys2Proof.Machine.execAtClosed src s
  | .driveFault src => Sys2Proof.Machine.execDriveFault src s
  | .inductReady src tote len => Sys2Proof.Machine.execInductReady src tote len s
  | .released src => Sys2Proof.Machine.execReleased src s
  | .inductEmpty src => Sys2Proof.Machine.execInductEmpty src s
  | .spurReady src tote len => Sys2Proof.Machine.execSpurReady src tote len s
  | .spurMerged src => Sys2Proof.Machine.execSpurMerged src s
  | .spurEmpty src => Sys2Proof.Machine.execSpurEmpty src s
  | .originPassage rec => Sys2Proof.Machine.execOriginPassage rec s
  | .sightingDeadline rec => Sys2Proof.Machine.execSightingDeadline rec s
  | .jamPoint station => Sys2Proof.Machine.execJamPoint station s
  | .tagLimit station => Sys2Proof.Machine.execTagLimit station s
  | .openStart gate => Sys2Proof.Machine.execOpenStart gate s
  | .checkPoint gate => Sys2Proof.Machine.execCheckPoint gate s
  | .closeStart gate => Sys2Proof.Machine.execCloseStart gate s
  | .endPoint gate => Sys2Proof.Machine.execEndPoint gate s
  | .passageWatch rec => Sys2Proof.Machine.execPassageWatch rec s
  | .verifyDeadline lane => Sys2Proof.Machine.execVerifyDeadline lane s
  | .releasePoint => Sys2Proof.Machine.execReleasePoint s
  | .confirmPoint => Sys2Proof.Machine.execConfirmPoint s
  | .holePoint => Sys2Proof.Machine.execHolePoint s
  | .mergePoint => Sys2Proof.Machine.execMergePoint s
  | .mergeConfirmPoint => Sys2Proof.Machine.execMergeConfirmPoint s
  | .intervalPoint => Sys2Proof.Machine.execIntervalPoint s
  | .arrivalPoint => Sys2Proof.Machine.execArrivalPoint s
  | .samplePoint => Sys2Proof.Machine.execSamplePoint s
  | .settlePoint => Sys2Proof.Machine.execSettlePoint s
  | .resumeEndPoint => Sys2Proof.Machine.execResumeEndPoint s
  | .feedbackTimerExpiry gate => Sys2Proof.Machine.execFeedbackTimerExpiry gate s
  | .stallTimerExpiry => Sys2Proof.Machine.execStallTimerExpiry s
  | .idleTimerExpiry => Sys2Proof.Machine.execIdleTimerExpiry s
  | .parkTimerExpiry => Sys2Proof.Machine.execParkTimerExpiry s
  | .wakeWaitExpiry => Sys2Proof.Machine.execWakeWaitExpiry s
  | .linkTimerExpiry => Sys2Proof.Machine.execLinkTimerExpiry s
  | .transmitStart => Sys2Proof.Machine.execTransmitStart s
  | .transmitEnd => Sys2Proof.Machine.execTransmitEnd s
  | .heartbeat tag => Sys2Proof.Machine.execHeartbeat tag s
  | .setPointer tag table index => Sys2Proof.Machine.execSetPointer tag table index s
  | .putRecords tag records => Sys2Proof.Machine.execPutRecords tag records s
  | .start tag => Sys2Proof.Machine.execStart tag s
  | .park tag => Sys2Proof.Machine.execPark tag s
  | .resume tag => Sys2Proof.Machine.execResume tag s
  | .dark tag => Sys2Proof.Machine.execDark tag s
  | .clearFault tag => Sys2Proof.Machine.execClearFault tag s
  | .toConfig tag => Sys2Proof.Machine.execToConfig tag s
  | .resetTrack tag => Sys2Proof.Machine.execResetTrack tag s
  | .resetDevice tag => Sys2Proof.Machine.execResetDevice tag s
  | .orderPut tag tote ref lane priority lapLimit hold => Sys2Proof.Machine.execOrderPut tag tote ref lane priority lapLimit hold s
  | .orderCancel tag tote => Sys2Proof.Machine.execOrderCancel tag tote s
  | .orderQuery tag tote => Sys2Proof.Machine.execOrderQuery tag tote s
  | .laneSetOpen tag lane => Sys2Proof.Machine.execLaneSetOpen tag lane s
  | .laneSetClose tag lane => Sys2Proof.Machine.execLaneSetClose tag lane s
  | .laneClear tag lane => Sys2Proof.Machine.execLaneClear tag lane s
  | .regulate tag mode value => Sys2Proof.Machine.execRegulate tag mode value s
  | .inductSkip tag => Sys2Proof.Machine.execInductSkip tag s
  | .noticeMask tag mask => Sys2Proof.Machine.execNoticeMask tag mask s
  | .queryStatus tag => Sys2Proof.Machine.execQueryStatus tag s
  | .queryLane tag lane => Sys2Proof.Machine.execQueryLane tag lane s
  | .queryTote tag tote => Sys2Proof.Machine.execQueryTote tag tote s
  | .queryCounters tag group index clear => Sys2Proof.Machine.execQueryCounters tag group index clear s

end Sys2Proof.Machine
end

