-- ==== Sys2Proof/Machine/Idle.lean ====
section
/-! DEFINITION. What a step does when no command waits. -/

namespace Sys2Proof.Machine

/-- R4: the first point that is reached is taken; with none reached nothing happens (log 5). -/
def idle (s : State) : Out State :=
  match nextDue s with
  | some p => .next (takePoint p s)
  | Option.none => .next s

end Sys2Proof.Machine
end

