-- ==== Sys2Proof/Machine/Step.lean ====
section
/-! DEFINITION. One step: the command at the front of the queue, or, with none waiting, the first belt point that is
reached (log 5). -/

namespace Sys2Proof.Machine

/-- A step. With no command waiting, the first point the odometer has reached is taken (R4), and with none reached the
block idles (log 5). -/
def step (s : State) : Host.Outcome State Fault Refusal :=
  match s.pending with
  | i :: is => exec i (s.setPending is)
  | [] => idle s

/-- The state with the command a word spells at the front of its queue. No row of the table has bits, so no word spells
one. -/
def State.withFetchWord (s : State) (nbits w : Nat) : State :=
  match decodeTableWord nbits w with
  | some i => s.setPending (i :: s.pending)
  | none => s

end Sys2Proof.Machine
end

