-- ==== Sys2Proof/Safety.lean ====
section
/-! DEFINITION. What it means that a run of this block does not stop, the invariants of the block, and the words in which
its commands are stated. -/

namespace Sys2Proof.Machine

/-! ## Runs -/

/-- A step goes on. -/
def Goes (s : State) : Prop := ∃ t, step s = .next t

/-- The state after `n` steps, if none of them stops. -/
def runSteps : Nat → State → Option State
  | 0, s => some s
  | n + 1, s =>
      match step s with
      | .next t => runSteps n t
      | _ => Option.none

/-- A state is safe when every run from it goes on: the model has no fault, and no row is refused. -/
def Safe (s : State) : Prop := ∀ n, (runSteps n s).isSome

/-! ## Invariants -/

/-- Run control: the belt run output follows the run state (R15), the stall timer runs exactly while it is asserted
(R175), a settle point stands exactly in STARTING (R174), a resume rule exactly in PARKED and DARK (R171), a resume end
point exactly in the resume lap (R184), a cause of FAULT exactly in FAULT (R176), and the idle, park and wake timers run
only in their states (R179, R180, R183). -/
structure RunOk (r : Run) : Prop where
  belt   : r.belt = r.st.beltOn
  stall  : r.stall.isSome = r.belt
  settle : r.settle.isSome ↔ r.st = .starting
  rule   : r.rule.isSome ↔ r.st = .parked ∨ r.st = .dark
  lap    : r.endPoint.isSome ↔ r.stage = .lap
  cause  : r.cause ≠ .none ↔ r.st = .fault
  idle   : r.idle.isSome → r.st = .running
  park   : r.park.isSome → r.st = .parked
  wake   : r.wake.isSome → r.st = .parked ∨ r.st = .dark

/-- The tracking list: at most 96 records, at most one of them a hole (R16), no tote number twice (R18), every record
under a handle of its own that has been given out (log 10). -/
structure TrkOk (x : Trk) : Prop where
  size  : x.list.length ≤ Config.maxRecords
  hole  : x.list.countP (fun r => r.role = .hole) ≤ 1
  totes : (x.list.filterMap (·.tote)).Nodup
  ids   : (x.list.map (·.id)).Nodup
  given : ∀ r ∈ x.list, r.id < x.nextId

/-- The order table: at most 512 entries, in ascending order of tote number, so that no number has two (R65). -/
structure OrdOk (x : OrdTable) : Prop where
  size   : x.entries.length ≤ Config.maxEntries
  sorted : (x.entries.map (·.tote)).Pairwise (· < ·)

/-- A lane: occupancy 0..15 (R117), a failed-divert streak of at most 2 (R128), at most 4 records in its verify list
(R126), and the reported state is the one its flags and occupancy give (R122). -/
structure LaneOk (l : Lane) : Prop where
  occ      : l.occ ≤ 15
  streak   : l.streak ≤ 2
  verify   : l.verify.length ≤ Config.maxVerify
  reported : l.reported = l.computed

/-- The queues of the ring port and of the notices: at most 8 forwarded frames (R194), at most one unsent command for each
destination (R195), at most 8 replies (R196), at most 32 notices (R213). -/
structure QueuesOk (s : State) : Prop where
  forward : s.rng.forward.length ≤ Config.maxForward
  control : (s.rng.control.map (·.dst)).Nodup
  replies : s.rng.replies.length ≤ Config.maxReplies
  notices : s.ntq.queue.length ≤ Config.maxNotices

/-- The position unit: an odometer of 40 bits (R3), a tally of 0..255 (R2), a speed of at most 1,000 (R5). -/
structure PosOk (x : Pos) : Prop where
  odo   : x.odo < Config.odometerEnd
  tally : x.tally ≤ 255
  v     : x.v ≤ 1000

/-- The invariant of the block. -/
structure Inv (s : State) : Prop where
  run    : RunOk s.run
  trk    : TrkOk s.trk
  ord    : OrdOk s.ord
  lanes  : ∀ l ∈ s.lan.lanes.toList, LaneOk l
  fires  : ∀ q ∈ s.fpl.queues.toList, q.length ≤ Config.maxFires
  queues : QueuesOk s
  pos    : PosOk s.pos

/-! ## Links between the blocks -/

/-- The loop parameters lie in their ranges (R11). -/
structure ParamsOk (p : Params) : Prop where
  loop    : 2000 ≤ p.loopLen ∧ p.loopLen ≤ 65000
  window  : 8 ≤ p.window ∧ p.window ≤ 255
  speeds  : 20 ≤ p.vnom ∧ p.vnom ≤ p.vmax ∧ p.vmax ≤ 400
  gaps    : 20 ≤ p.gmin ∧ p.gmin ≤ 500 ∧ p.gmin ≤ p.gmax ∧ p.gmax ≤ 1000
  target  : 1 ≤ p.otarget ∧ p.otarget ≤ 96
  gain    : p.gain = 1 ∨ p.gain = 2 ∨ p.gain = 4 ∨ p.gain = 8
  sample  : 500 ≤ p.sampleDist ∧ p.sampleDist ≤ 8000
  accrual : 500 ≤ p.mergeInterval ∧ p.mergeInterval ≤ 20000
  lead    : p.spurLead ≤ 255
  confirm : 32 ≤ p.releaseConfirm ∧ p.releaseConfirm ≤ 1023 ∧ 32 ≤ p.mergeConfirm ∧ p.mergeConfirm ≤ 1023
  jam     : 64 ≤ p.jamLen ∧ p.jamLen ≤ 255
  limits  : p.noreadLimit ≤ 63 ∧ p.settleDist ≤ 1023
  stall   : 100 ≤ p.stallTime ∧ p.stallTime ≤ 2000
  idle    : p.idleTime = 0 ∨ (10 ≤ p.idleTime ∧ p.idleTime ≤ 600)
  park    : p.parkLimit = 0 ∨ (30 ≤ p.parkLimit ∧ p.parkLimit ≤ 3600)
  wake    : 100 ≤ p.wakeTime ∧ p.wakeTime ≤ 5000
  link    : p.linkTimeout ≤ 60
  mgmt    : 1 ≤ p.mgmtAddr ∧ p.mgmtAddr ≤ 62

/-- What the units compute lies in its range: the parameters (R11), the records of both maps (R10), the reference speed (R6),
S and G (R150, R152), the debt (R166). -/
structure RangesOk (s : State) : Prop where
  params : ParamsOk s.params
  loaded : ∀ x ∈ s.pos.map.toList, stationOk x = true
  force  : ∀ m, s.pos.inForce = some m → ∀ x ∈ m.toList, stationOk x = true
  speed  : s.params.vnom ≤ s.pos.vref ∧ s.pos.vref ≤ s.params.vmax
  spacing : s.reg.s ≤ 1023
  target : s.reg.g = min (s.params.gmin + s.reg.s / 4) s.params.gmax
  debt   : -8 ≤ s.mrg.debt ∧ s.mrg.debt ≤ 8

/-- The belt: every record lies in 0..L-1, or at L with its origin passage reached and not yet taken (R21, R22), and the
list is in belt order: positions do not rise from its front to its end (R17). -/
structure BeltOk (s : State) : Prop where
  place : ∀ r ∈ s.trk.list, r.anchor ≤ s.pos.odo ∧ (s.pos.odo : Int) ≤ r.anchor + s.params.loopLen
  order : (s.trk.list.map (·.anchor)).Pairwise (· ≤ ·)

/-- The fires: every queue in ascending order of open-start, every open-start below its close-start, at most 8 members in
a fire, every member a tote record of the list and in one place across all queues (R89), the members of a PLANNED fire
RIDING or MISSING and bound for its lane (R93, R98). -/
structure FiresOk (s : State) : Prop where
  sorted  : ∀ q ∈ s.fpl.queues.toList, (q.map (·.f)).Pairwise (· ≤ ·)
  window  : ∀ q ∈ s.fpl.queues.toList, ∀ x ∈ q, x.f < x.c ∧ x.members.length ≤ Config.maxGroup
  once    : (s.fpl.queues.toList.flatMap fun q => q.flatMap (·.members)).Nodup
  listed  : ∀ q ∈ s.fpl.queues.toList, ∀ x ∈ q, ∀ m ∈ x.members, ∃ r ∈ s.trk.list, r.id = m ∧ r.role ≠ .hole
  planned : ∀ g, ∀ x ∈ queueOf s g, x.st = .planned → ∀ m ∈ x.members, ∃ r ∈ s.trk.list,
    r.id = m ∧ r.dest = some g ∧ (r.st = .riding ∨ r.st = .missing)

/-- The verify lists: what stands in one is a VERIFYING record bound for that lane, in one place across all lists, and every
VERIFYING record stands in one, without a sighting deadline (R30, R126). -/
structure VerifyOk (s : State) : Prop where
  entries : ∀ n, ∀ e ∈ (laneOf s n).verify, ∃ r ∈ s.trk.list, r.id = e.who ∧ r.st = .verifying ∧ r.dest = some n
  once    : (s.lan.lanes.toList.flatMap fun l => l.verify.map (·.who)).Nodup
  records : ∀ r ∈ s.trk.list, r.st = .verifying →
    r.deadline = none ∧ ∃ l ∈ s.lan.lanes.toList, ∃ e ∈ l.verify, e.who = r.id

/-- The orders: an entry is RIDING exactly while an ORDER record carries its number, and every ORDER record carries one
(R66). -/
structure OrdersOk (s : State) : Prop where
  riding  : ∀ e ∈ s.ord.entries, e.st = .riding → ∃ r ∈ s.trk.list, r.role = .order ∧ r.tote = some e.tote
  records : ∀ r ∈ s.trk.list, r.role = .order → ∃ e ∈ s.ord.entries, r.tote = some e.tote ∧ e.st = .riding

/-- The quiet states: while RUN answers DARK no fire stands and no record is VERIFYING (R172, R181); in CONFIG the list is
empty and nothing is outstanding that could fill it (R185); before the first accepted START the part is in CONFIG; a hole
in the list is the one that travels to the slot point (R168). -/
structure QuietOk (s : State) : Prop where
  dark   : planningDark s.run = true →
    (∀ q ∈ s.fpl.queues.toList, q = []) ∧ ∀ r ∈ s.trk.list, r.st ≠ .verifying
  config : s.run.st = .config → s.trk.list = [] ∧ s.ind.outstanding = none ∧ s.ind.holeWait = none ∧ s.mrg.grant = none ∧
    s.mrg.interval = none ∧ ∀ e ∈ s.sgt.eyes.toList, e.bind (·.tagLimit) = none
  before : s.pos.inForce = none → s.run.st = .config
  hole   : (∃ r ∈ s.trk.list, r.role = .hole) → s.mrg.hole = .travelling

/-- The links between the blocks. -/
structure Links (s : State) : Prop where
  ranges : RangesOk s
  belt   : BeltOk s
  fires  : FiresOk s
  verify : VerifyOk s
  orders : OrdersOk s
  quiet  : QuietOk s

/-! ## The words of the statements -/

/-- CMD takes a command with this tag and executes it (R201, R202): the ring port runs, there is room for a reply, no
RESET DEVICE reply waits to leave, and the tag is not 0. No belt point is reached that has not been taken (R4): where one
is, it is taken first (log 5). -/
structure Takes (s : State) (tag : Byte) : Prop where
  settled : nextDue s = none
  runs    : portRuns s = true
  room    : s.rng.replies.length < Config.maxReplies
  waiting : s.cmd.resetWaiting = false
  tag     : tag ≠ 0#8

/-- The state with a reply at the end of the reply queue, and nothing else changed (R202). -/
def State.replied (s : State) (op : Nat) (tag : Byte) (result : Result) (data : List Byte) : State :=
  { s with rng := { s.rng with replies := s.rng.replies ++ [⟨op, tag, result, data, false⟩] } }

/-- POS hands a station frame of a kind from an address to the block that owns it, with station record `x` at index `i`
(R9). No belt point is reached that has not been taken (R4): where one is, it is taken first (log 5). -/
structure Hands (s : State) (src : Nat) (f : FrameKind) (x : Station) (i : Nat) : Prop where
  settled : nextDue s = none
  runs    : portRuns s = true
  found   : lookUp s src f = some (x, i)
  kind    : x.accepts src f = true

/-- What a step about one block leaves alone: resets, parameters, REG, CMD, the queue of commands, and the ring port less
its control queue and its unmapped count. The odometer and the rest of POS stand. -/
structure SameCore (s t : State) : Prop where
  held    : t.held = s.held
  pos     : t.pos = s.pos
  params  : t.params = s.params
  reg     : t.reg = s.reg
  cmd     : t.cmd = s.cmd
  free    : t.free = s.free
  pending : t.pending = s.pending
  rng     : t.rng = { s.rng with control := t.rng.control, unmapped := t.rng.unmapped }

/-- The source and the kind of a row that is a station frame (R9). -/
def frameRow : Instr → Option (Nat × FrameKind)
  | .eyeLead src | .eyeTrail src => some (src, .eye)
  | .tag src _ => some (src, .tag)
  | .entry src | .removal src | .haltOn src | .haltOff src => some (src, .lane)
  | .atOpen src | .atClosed src | .driveFault src => some (src, .gate)
  | .inductReady src _ _ | .released src | .inductEmpty src => some (src, .induct)
  | .spurReady src _ _ | .spurMerged src | .spurEmpty src => some (src, .spur)
  | _ => Option.none

/-- Whether the point of a belt point's row stands and is reached (R4), or the timer of a timer's row runs. Other rows
have neither. -/
def stands (s : State) : Instr → Option Bool
  | .originPassage id => some (due ((findRec s id).map fun r => r.anchor + (s.params.loopLen : Int)) s)
  | .sightingDeadline id => some (due ((findRec s id).bind (·.deadline)) s)
  | .passageWatch id => some (due ((findRec s id).bind (·.watch)) s)
  | .jamPoint i => some (due ((eyeOf s i).bind (·.jam)) s)
  | .tagLimit i => some (due ((eyeOf s i).bind (·.tagLimit)) s)
  | .openStart g => some ((queueOf s g).any fun x => x.st = .planned && decide (x.f ≤ now s))
  | .checkPoint g => some ((queueOf s g).any fun x => x.st = .started && !x.checked && decide (x.k ≤ now s))
  | .closeStart g => some ((queueOf s g).any fun x => x.st = .started && decide (x.c ≤ now s))
  | .endPoint g => some ((queueOf s g).any fun x => x.st = .closing && decide (x.c + x.dc ≤ now s))
  | .verifyDeadline n => some ((laneOf s n).verify.any fun e => decide (e.deadline ≤ now s))
  | .releasePoint => some (due s.ind.releasePoint s)
  | .confirmPoint => some (due (s.ind.outstanding.map (·.confirm)) s)
  | .holePoint => some (s.ind.holeWait.isSome && due s.ind.holePoint s)
  | .mergePoint => some (due s.mrg.mergePoint s)
  | .mergeConfirmPoint => some (due (s.mrg.grant.map (·.confirm)) s)
  | .intervalPoint => some (due s.mrg.interval s)
  | .arrivalPoint => some (due s.mrg.arrival s)
  | .samplePoint => some (due (some s.reg.next) s)
  | .settlePoint => some (due s.run.settle s)
  | .resumeEndPoint => some (due s.run.endPoint s)
  | .feedbackTimerExpiry g => some ((gateOf s g).any fun x => x.timer.isSome)
  | .stallTimerExpiry => some s.run.stall.isSome
  | .idleTimerExpiry => some s.run.idle.isSome
  | .parkTimerExpiry => some s.run.park.isSome
  | .wakeWaitExpiry => some s.run.wake.isSome
  | .linkTimerExpiry => some s.cmd.link.isSome
  | _ => Option.none

/-- A command stands in the control queue of `t`, and commands for other destinations stand there as they stood in `s`
(R195). Nothing else of the ring port has changed. -/
structure Placed (s t : State) (c : Ctl) : Prop where
  stands : c ∈ t.rng.control
  others : ∀ x : Ctl, x.dst ≠ c.dst → (x ∈ t.rng.control ↔ x ∈ s.rng.control)
  rest   : t.rng = { s.rng with control := t.rng.control }

/-- The state in which RUN has entered a run state in which no release and no merge is made: its registers are `r`, the
release point, the hole point and the merge point are withdrawn (R140, R148, R157), and the STATE notice is queued
(R172). -/
def State.entered (s : State) (r : Run) (cause : StateCause) : State :=
  notify (.state s.run.st r.st cause) { s with
    run := r
    ind := { s.ind with releasePoint := none, holePoint := none }
    mrg := { s.mrg with mergePoint := none } }

/-- The park timer on entry to PARKED (R180). -/
def parkTimer (p : Params) : Option Nat := if p.parkLimit = 0 then none else some (1000 * p.parkLimit)

/-! ## The belt points and what they stand before -/

/-- The rows of the belt points (R4, 95). -/
def beltPoint : Instr → Bool
  | .originPassage _ | .sightingDeadline _ | .jamPoint _ | .tagLimit _ | .openStart _ | .checkPoint _ | .closeStart _
  | .endPoint _ | .passageWatch _ | .verifyDeadline _ | .releasePoint | .confirmPoint | .holePoint | .mergePoint
  | .mergeConfirmPoint | .intervalPoint | .arrivalPoint | .samplePoint | .settlePoint | .resumeEndPoint => true
  | _ => false

/-- The rows that take every reached belt point before they act (log 5): all but the belt points themselves, the resets, the
port's start and the illegal step. -/
def takesPointsFirst : Instr → Bool
  | .resetAssert _ | .resetRelease _ _ | .ringPortStart | .illegalStep => false
  | i => !beltPoint i

/-- NTQ has queued a notice in the step from `s` to `t`, with the odometer of the moment, where its class is enabled and the
queue has room for it and for what the step queues before it (R212, R213). -/
def Told (n : Notice) (s t : State) : Prop :=
  s.ntq.enabled n.cls = true → s.ntq.queue.length + 16 ≤ Config.maxNotices →
    ∃ new : List Queued, t.ntq.queue = s.ntq.queue ++ new ∧ ⟨s.pos.odo, n⟩ ∈ new

/-- The notice of a delivery to a lane has been queued in the step from `s` to `t`: DELIVERED, or RETURNED at lane 0 with its
reason (R130). -/
def TellsDelivery (n : Nat) (r : Rec) (confirmed late : Bool) (s t : State) : Prop :=
  (n ≠ 0 → Told (.delivered r.tote r.ref n r.laps confirmed late) s t) ∧
  (n = 0 → ∀ why : Reason,
    (r.role = .ret → why = r.reason) → (r.role ≠ .ret → r.doubtful = true → why = .doubt) →
    (r.role ≠ .ret → r.doubtful = false → why = .none) →
    Told (.returned r.tote r.role why r.ref r.laps confirmed late) s t)

/-! ## Lanes (R99, R118, R122, R125) -/

/-- A lane is at or above its capacity (R118). -/
def laneFull (s : State) (n : Nat) : Bool := decide ((laneOf s n).cfg.cap ≤ (laneOf s n).occ)

/-- The lamp command of a lane that is FULL, or is not (R125). -/
def lampFor (full : Bool) : CtlKind := if full then .lampOn else .lampOff

/-- The lamp of a lane has followed FULL in the step from `s` to `t`. Where the lane is mapped and has entered or left FULL, the
lamp command for it is kept as the last one sent and stands in the control queue (the latter said for a lane node whose
address no gate node carries, R12). Otherwise the last one sent stands. No other lamp command is placed (R118, R125). -/
structure LampFollows (n : Nat) (s t : State) : Prop where
  crossed : laneFull t n ≠ laneFull s n → ∀ d, gateRec s n = some d →
    (laneOf t n).lampOn = laneFull t n ∧
    ((∀ m x, gateRec s m = some x → x.prim ≠ d.sec) → ⟨d.sec, lampFor (laneFull t n)⟩ ∈ t.rng.control) ∧
    ∀ c ∈ t.rng.control, c.kind = .lampOn ∨ c.kind = .lampOff → c = ⟨d.sec, lampFor (laneFull t n)⟩ ∨ c ∈ s.rng.control
  stayed : laneFull t n = laneFull s n ∨ gateRec s n = none →
    (laneOf t n).lampOn = (laneOf s n).lampOn ∧
    ∀ c ∈ t.rng.control, c.kind = .lampOn ∨ c.kind = .lampOff → c ∈ s.rng.control

/-- LAN alone has changed a lane to `l` in the step from `s` to `u`: the reported state is computed, with a LANE notice where
that changes it, and the lamp command is placed where the lane is mapped and has entered or left FULL (R118, R122, R125). -/
structure LaneChanged (n : Nat) (l : Lane) (s u : State) : Prop where
  lane   : laneOf u n = { l with reported := l.computed, lampOn := (laneOf u n).lampOn }
  others : ∀ m, m ≠ n → laneOf u m = laneOf s m
  lamp   : laneFull u n ≠ laneFull s n → ∀ d, gateRec s n = some d →
    (laneOf u n).lampOn = laneFull u n ∧ Placed s u ⟨d.sec, lampFor (laneFull u n)⟩
  dark   : laneFull u n = laneFull s n ∨ gateRec s n = none → (laneOf u n).lampOn = l.lampOn ∧ u.rng = s.rng
  notice : u.ntq = if l.computed = (laneOf s n).reported then s.ntq
    else (notify (.lane n l.computed l.faulted l.occ) s).ntq
  rest   : u = { s with lan := u.lan, rng := u.rng, ntq := u.ntq }

/-- The records bound for a lane that have no fire and are not VERIFYING are planned in belt order from the front, each as the
plans before it have left the state (R99); one that an earlier plan gave a fire is passed over (log 12). -/
def plannedInTurn (n : Nat) (u : State) : State :=
  ((u.trk.list.filter fun r => r.dest = some n && r.st ≠ .verifying && !hasFire u r.id).map (·.id)).foldl
    (fun v id => if hasFire v id then v else planReq id v) u

/-! ## Debt (R165 to R167) -/

/-- Accrual has started or resumed in the step from `s` to `t` with the READY `y` pending, from the interval count that `s`
holds. A count of I or more makes the interval point reached at once, and once more for each further I that it holds (R4,
R165); the debt rises with each, and at 8 with no hole outstanding a hole is requested (R166, R167). -/
structure Accrues (y : Ready) (s t : State) : Prop where
  ahead : s.mrg.count < s.params.mergeInterval →
    t.mrg.interval = some ((s.pos.odo : Int) + s.params.mergeInterval - s.mrg.count) ∧ t.mrg.count = s.mrg.count ∧
      t.mrg.debt = s.mrg.debt ∧ t.mrg.hole = s.mrg.hole
  reached : 0 < s.params.mergeInterval → s.params.mergeInterval ≤ s.mrg.count →
    let k := s.mrg.count / s.params.mergeInterval
    let next : Int := (s.pos.odo : Int) + ((k + 1) * s.params.mergeInterval : Nat) - s.mrg.count
    t.mrg.interval = some next ∧ t.mrg.since = next - s.params.mergeInterval ∧ t.mrg.count = 0 ∧
      t.mrg.debt = min 8 (s.mrg.debt + k) ∧
      (t.mrg.debt = 8 → s.mrg.hole = .none → t.mrg.hole = .requested ∧ t.ind.holeWait = some y.len) ∧
      (t.mrg.debt ≠ 8 ∨ s.mrg.hole ≠ .none → t.mrg.hole = s.mrg.hole)

/-! ## The pending READY (R138 to R142) -/

/-- The standing that R138 gives a READY report in a state, by the first case that applies. An entry that rides without a record
that carries its number is not spoken of (log 29). -/
structure HasStanding (s : State) (r : Ready) (st : Standing) : Prop where
  noread  : r.tote = none → st = .heldNoread
  carried : ∀ n, r.tote = some n → (carrier s n).isSome ∨ s.ind.outstanding.map (·.tote) = some n → st = .heldDuplicate
  unknown : ∀ n, r.tote = some n → carrier s n = none → s.ind.outstanding.map (·.tote) ≠ some n → findEntry s n = none →
    st = .heldNoOrder
  known   : ∀ n e, r.tote = some n → carrier s n = none → s.ind.outstanding.map (·.tote) ≠ some n →
    findEntry s n = some e → e.st ≠ .riding → st = .candidate

/-- IND has queued the notice of a hold in the step from `s` to `t` (R138). -/
structure TellsHold (r : Ready) (st : Standing) (s t : State) : Prop where
  noread    : st = .heldNoread → Told (.noread r.len) s t
  duplicate : st = .heldDuplicate → Told (.duplicate r.tote r.len .ready) s t
  noOrder   : st = .heldNoOrder → Told (.noOrder r.tote r.len) s t

/-- IND holds the release point that the first slot gives while every condition of R140 holds, and none while one fails (R140,
R142). Which slot that is: `Obligations.PointsLieInTheFirstSlotThatFits`. -/
structure PointHeld (t : State) : Prop where
  computed  : ∀ p, t.ind.ready = some p → p.standing = .candidate → t.run.st = .running → t.cmd.hostless = false →
    t.trk.list.length < 96 → t.ind.holeWait = none → t.ind.outstanding = none → t.ind.reject = false →
    t.ind.releasePoint = originSlot t p.ready.len
  withdrawn : (∀ p, t.ind.ready = some p → p.standing ≠ .candidate) ∨ t.run.st ≠ .running ∨ t.cmd.hostless = true ∨
    96 ≤ t.trk.list.length ∨ t.ind.holeWait.isSome ∨ t.ind.outstanding.isSome ∨ t.ind.reject = true →
    t.ind.releasePoint = none

/-- IND has examined a pending READY `p` again in the step from `s` to `t` (R139): the report is kept, its standing is the one that
R138 gives it in `t`, with the notice of a hold where the standing has changed, and the release point is computed afresh. -/
structure Reexamined (p : Pending) (s t : State) : Prop where
  standing : ∃ st, t.ind.ready = some ⟨p.ready, st⟩ ∧ HasStanding t p.ready st ∧ (st ≠ p.standing → TellsHold p.ready st s t)
  point    : PointHeld t

/-- Of the READYs pending, one is examined again and none stays none. -/
def ReadyExamined (s t : State) : Prop :=
  (s.ind.ready = none → t.ind.ready = none) ∧ ∀ p, s.ind.ready = some p → Reexamined p s t

/-! ## Faults (R176) -/

/-- RUN has taken a fault report in the step from `s` to `t`, by its run state (R176). `known` says that the further causes of `s`
hold the cause, and `joined` is what they are with it. -/
structure FaultTaken (c : FaultCause) (detail : Nat) (known : Bool) (joined : Further) (s t : State) : Prop where
  entered : s.run.st ≠ .config → s.run.st ≠ .fault →
    t.run.st = .fault ∧ t.run.cause = c ∧ t.run.detail = detail ∧ t.run.further = ⟨false, false, false, false⟩ ∧
      t.run.belt = false ∧ Told (.state s.run.st .fault (.fault c)) s t
  joins   : s.run.st = .fault → s.run.cause ≠ c → known = false →
    t.run = { s.run with further := joined } ∧ Told (.fault c detail .fault) s t
  kept    : s.run.st = .fault → s.run.cause = c ∨ known = true →
    t.run = s.run ∧ ∀ x ∈ t.ntq.queue, x ∈ s.ntq.queue ∨ ∀ d st, x.notice ≠ .fault c d st
  config  : s.run.st = .config → t.run = s.run ∧ Told (.fault c detail .config) s t

/-! ## Sightings (R49 to R57) -/

/-- A record stands at the point of a sighting at the sighting's stamp, RIDING, with no missed deadline. -/
structure AtPoint (s : State) (x : Sighting) (r : Rec) : Prop where
  place  : (x.stamp - r.anchor - x.point) % s.params.loopLen = 0
  riding : r.st = .riding
  missed : r.missed = 0

/-- A tote record with a property lies within W of a sighting (R49). -/
def Near (s : State) (x : Sighting) (p : Rec → Prop) (r : Rec) : Prop :=
  r.role ≠ .hole ∧ p r ∧ (diffAt s x r).natAbs ≤ s.params.window

/-- The record within W with the smallest difference, the one ahead in belt order where two are equally near (R52, R54). -/
def Nearest (s : State) (x : Sighting) (p : Rec → Prop) (r : Rec) : Prop :=
  Near s x p r ∧ ∃ pre post, s.trk.list = pre ++ r :: post ∧
    (∀ y ∈ pre, Near s x p y → (diffAt s x r).natAbs < (diffAt s x y).natAbs) ∧
    ∀ y ∈ post, Near s x p y → (diffAt s x r).natAbs ≤ (diffAt s x y).natAbs

/-- No record takes a sighting: none carries its number, and none is near that may take it (R53, R56). -/
def Unmatched (s : State) (x : Sighting) : Prop :=
  match x.read with
  | some n => carrier s n = none ∧ ∀ r ∈ s.trk.list, ¬Near s x (fun r => r.tote = none) r
  | none => ∀ r ∈ s.trk.list, ¬Near s x (fun r => r.st ≠ .unsure) r

/-- The sighting may create a record: its source is a READER or the ORIGIN (R53, R56). -/
def Source.creates (x : Source) : Prop := x = .reader ∨ x = .origin

/-- The window of a READ for the record that carries its number (R49). -/
def readReach (s : State) (r : Rec) : Nat := if r.st = .unsure then min (4 * s.params.window) 1020 else s.params.window

/-- A sighting has been resolved in the step from `s` to `t` (R50 to R56). -/
structure Sighted (x : Sighting) (s t : State) : Prop where
  /-- R50, R51: the record that carries the number is put at the point, by a match or by a jump. -/
  carried : ∀ n r, x.read = some n → carrier s n = some r →
    (∃ r', carrier t n = some r' ∧ r'.id = r.id ∧ AtPoint s x r' ∧ r'.doubt = 0 ∧ r'.doubtful = false) ∧
    t.trk.list.length = s.trk.list.length ∧ t.sgt.strays = s.sgt.strays ∧ t.sgt.phantoms = s.sgt.phantoms ∧
    ((diffAt s x r).natAbs ≤ readReach s r → t.trk.jumps = s.trk.jumps) ∧
    (readReach s r < (diffAt s x r).natAbs → t.trk.jumps = satInc 65535 s.trk.jumps ∧
      Told (.jump (some n) x.station ((x.stamp - r.anchor) % s.params.loopLen).toNat x.point) s t)
  /-- R52: the nearest record without a number takes it, and is matched. -/
  filledIn : ∀ n r, x.read = some n → carrier s n = none → Nearest s x (fun r => r.tote = none) r →
    ∃ r', carrier t n = some r' ∧ r'.id = r.id ∧ AtPoint s x r' ∧ r'.doubt = 0 ∧ r'.doubtful = false ∧
      (r.role = .ret → r'.role = .ret ∧ r'.reason = r.reason) ∧ t.trk.list.length = s.trk.list.length ∧
      t.trk.jumps = s.trk.jumps
  /-- R54, R55: the nearest record that is not UNSURE is matched by position and doubted, and keeps its length. -/
  doubted : ∀ r, x.read = none → Nearest s x (fun r => r.st ≠ .unsure) r →
    let exempt := x.source = .reader ∧ ∃ w, vget s.sgt.windows x.station none = some w ∧ w.degraded = true
    ∃ r', findRec t r.id = some r' ∧ AtPoint s x r' ∧ r'.len = r.len ∧ r'.tote = r.tote ∧
      t.trk.list.length = s.trk.list.length ∧
      (exempt → r'.doubt = r.doubt ∧ r'.doubtful = r.doubtful) ∧
      (¬exempt → r'.doubt = min 2 (r.doubt + 1) ∧ r'.doubtful = (r.doubtful || decide (r.doubt = 1)) ∧
        (r.doubt = 1 → r.role = .order → r'.dest = some 0 ∧
          (r.st ≠ .verifying → Told (.doubt r.tote r.ref x.station) s t)))
  /-- R53, R56: at the induction eye and the spur eye a sighting that no record takes is closed without a record. -/
  closed : Unmatched s x → ¬x.source.creates → t.trk = s.trk ∧ t.ord = s.ord ∧ t.fpl = s.fpl ∧ t.ntq = s.ntq
  /-- R53, R56: with the list full it is reported UNTRACKED. -/
  untracked : Unmatched s x → x.source.creates → 96 ≤ s.trk.list.length →
    t.trk = s.trk ∧ t.ord = s.ord ∧ Told (.untracked x.read x.station x.point) s t
  /-- R26, R53, R77, R78: an entry that does not ride adopts the tote, and sends it back where it is too long. -/
  adopted : ∀ n e, x.read = some n → Unmatched s x → x.source.creates → s.trk.list.length < 96 →
    findEntry s n = some e → e.st ≠ .riding →
    let maxLen := (laneOf s e.lane).cfg.maxLen
    ∃ r', carrier t n = some r' ∧ r'.id = s.trk.nextId ∧ AtPoint s x r' ∧ r'.len = x.len.getD 255 ∧ r'.ref = e.ref ∧
      r'.laps = 0 ∧ t.trk.list.length = s.trk.list.length + 1 ∧ t.sgt.strays = s.sgt.strays ∧
      ((∀ l, x.len = some l → l ≤ maxLen) →
        r'.role = .order ∧ r'.dest = some e.lane ∧ findEntry t n = some { e with st := .riding }) ∧
      (∀ l, x.len = some l → maxLen < l → r'.role = .ret ∧ r'.reason = .size ∧ r'.dest = some 0 ∧
        findEntry t n = some { e with st := .waiting } ∧ Told (.size (some n) e.ref e.lane l maxLen) s t)
  /-- R53, R62: with no entry it becomes a STRAY. -/
  strayed : ∀ n, x.read = some n → Unmatched s x → x.source.creates → s.trk.list.length < 96 → findEntry s n = none →
    (∃ r', carrier t n = some r' ∧ r'.id = s.trk.nextId ∧ AtPoint s x r' ∧ r'.len = x.len.getD 255 ∧ r'.role = .ret ∧
      r'.reason = .stray ∧ r'.dest = some 0) ∧
    t.trk.list.length = s.trk.list.length + 1 ∧ t.ord = s.ord ∧ t.sgt.strays = satInc 65535 s.sgt.strays ∧
    Told (.stray (some n) x.station x.point) s t
  /-- R56, R62: a NOREAD becomes a PHANTOM. -/
  phantom : x.read = none → Unmatched s x → x.source.creates → s.trk.list.length < 96 →
    (∃ r' ∈ t.trk.list, r'.id = s.trk.nextId ∧ AtPoint s x r' ∧ r'.len = x.len.getD 255 ∧ r'.tote = none ∧
      r'.role = .ret ∧ r'.reason = .phantom ∧ r'.dest = some 0) ∧
    t.trk.list.length = s.trk.list.length + 1 ∧ t.ord = s.ord ∧ t.sgt.phantoms = satInc 65535 s.sgt.phantoms ∧
    Told (.phantom x.station x.point (x.len.getD 255)) s t

/-- A sighting at the reader with station index `i`, whose window was `w`, has been counted in the step from `s` to `t`: its passes
and, for a NOREAD, its noreads, in the counters and in the window, which the 64th sighting ends with the health that the noreads
give and a READER notice where that has changed (R61, R62). -/
structure Counted (i : Nat) (noread : Bool) (w : ReaderWindow) (s t : State) : Prop where
  passes  : vget t.sgt.passes i 0 = satInc 65535 (vget s.sgt.passes i 0)
  noreads : vget t.sgt.noreads i 0 = if noread then satInc 65535 (vget s.sgt.noreads i 0) else vget s.sgt.noreads i 0
  goesOn  : w.passes + 1 < 64 →
    vget t.sgt.windows i none = some ⟨w.passes + 1, if noread then w.noreads + 1 else w.noreads, w.degraded⟩
  ends    : 64 ≤ w.passes + 1 →
    let missed := if noread then w.noreads + 1 else w.noreads
    let degraded := decide (s.params.noreadLimit < missed)
    vget t.sgt.windows i none = some ⟨0, 0, degraded⟩ ∧
      (degraded ≠ w.degraded → Told (.reader i degraded missed) s t)

/-! ## Plans (R85 to R97) -/

/-- The passage of a record at a position that lies nearest to a point (R93, R100); of two that lie half a loop from it, the
earlier one (the model's choice, log 51). -/
def passageNear (s : State) (p : Nat) (h : Int) (r : Rec) : Int := h + circ s.params.loopLen (r.anchor + p - h)

/-- The passage window of a record at a gate for a passage (R93). -/
def windowAt (d : Station) (r : Rec) (h : Int) : Int × Int := (h - d.lead, h + r.len + d.trail)

/-- Two spans share an odometer value (R93). -/
def Overlap (x y : Int × Int) : Prop := x.1 ≤ y.2 ∧ y.1 ≤ x.2

/-- The first checks of R92, in their order. -/
def firstChecks (s : State) (r : Rec) (g : Nat) : List (Bool × Refused) :=
  [(decide (s.run.st = .dark) || s.run.asleep || decide (s.run.stage = .pending), .dark),
   (decide (r.st = .unsure), .unsure),
   (match linkedEntry s r with | some e => e.hold | none => false, .hold),
   (r.crowded && decide (g ≠ 0), .crowded),
   ((laneOf s g).faulted.isSome, .faulted),
   ((laneOf s g).closed, .closed),
   ((laneOf s g).halted, .halted)]

/-- The first check of R92 that fails. -/
def firstFailed (s : State) (r : Rec) (g : Nat) : Option Refused := ((firstChecks s r g).find? (·.1)).map (·.2)

/-- A record joins the group of a plan for gate `g` at passage `h`, reached from a member with window `w` (R93). -/
def Joins (s : State) (d : Station) (g : Nat) (h : Int) (w : Int × Int) (x : Rec) : Prop :=
  x.dest = some g ∧ (x.st = .riding ∨ x.st = .missing) ∧ startedFire s x.id = false ∧ firstFailed s x g = none ∧
    Overlap (windowAt d x (passageNear s d.pos h x)) w

/-- The window from which the `k`-th record of a walk is reached: the first one's is `w`, the others' that of the record
before them (R93). -/
def reachedFrom (s : State) (d : Station) (h : Int) (w : Int × Int) (order : List Rec) (k : Nat) : Int × Int :=
  match k, order[k - 1]? with
  | _ + 1, some y => windowAt d y (passageNear s d.pos h y)
  | _, _ => w

/-- The walk of R93 in one direction from a member with window `w`: the first `n` records of `order` join, each from the
window of the one before it, and where fewer than `room` have joined the next one does not. -/
structure Walk (s : State) (d : Station) (g : Nat) (h : Int) (w : Int × Int) (order : List Rec) (room n : Nat) : Prop where
  fits  : n ≤ room ∧ n ≤ order.length
  join  : ∀ k x, k < n → order[k]? = some x → Joins s d g h (reachedFrom s d h w order k) x
  stops : n < room → ∀ x, order[n]? = some x → ¬Joins s d g h (reachedFrom s d h w order n) x

/-- A span meets the passage window of a record at a gate for some passage (R96, R101). -/
def MeetsPassage (s : State) (d : Station) (r : Rec) (w : Int × Int) : Prop :=
  ∃ k : Int, Overlap w (windowAt d r (r.anchor + d.pos + k * s.params.loopLen))

/-- The records of a set of handles take a refusal reason, and their watch stands at their next passage (R85, R97, R102). -/
def State.planned (s : State) (d : Station) (why : Refused) (ids : List Nat) : State :=
  let next (x : Rec) : Int :=
    if (s.pos.odo : Int) - x.anchor < d.pos then x.anchor + d.pos else x.anchor + s.params.loopLen + d.pos
  { s with trk := { s.trk with list := s.trk.list.map fun x =>
      if x.id ∈ ids then { x with refusal := why, watch := some (next x) } else x } }

/-- A tote record that is not VERIFYING and has no fire, bound for a gate with a diverter (R91). -/
structure Unplanned (s : State) (id g : Nat) (r : Rec) (d : Station) : Prop where
  gate   : g < 17
  found  : findRec s id = some r
  role   : r.role ≠ .hole
  state  : r.st ≠ .verifying
  fire   : fireOf s id = none
  dest   : r.dest = some g
  fitted : gateRec s g = some d

/-! ## The map (R12, R13) -/

/-- The record at an index of a map. -/
def recAt (m : StationMap) (i : Nat) : Station := vget m i Station.empty

/-- An index is the lowest at which a used record has a property. -/
def Lowest (m : StationMap) (p : Nat → Station → Prop) (i : Nat) : Prop :=
  i < 28 ∧ (recAt m i).kind ≠ .unused ∧ p i (recAt m i) ∧ ∀ j < i, (recAt m j).kind ≠ .unused → ¬p j (recAt m j)

/-- A check of R12 on a number of records: none of the kind, or more than the most allowed; the first beyond them is at
fault. -/
def CountFails (m : StationMap) (k : StationKind) (most i : Nat) : Prop :=
  (i = 28 ∧ ∀ j < 28, (recAt m j).kind ≠ k) ∨
  (i < 28 ∧ (recAt m i).kind = k ∧ (List.range i).countP (fun j => (recAt m j).kind = k) = most)

/-- The addresses that apply to a used record's kind (R10, R12). -/
def addressesOf (x : Station) : List Nat :=
  if x.kind = .laneDiverter ∨ x.kind = .returnDiverter then [x.prim, x.sec] else [x.prim]

/-- The check of R12 with a code fails, with the index reported. -/
def CheckFails (p : Params) (m : StationMap) : Nat → Nat → Prop
  | 1, i => CountFails m .induct 1 i
  | 2, i => Lowest m (fun _ x => x.kind = .induct ∧ x.pos ≠ 0) i
  | 3, i => CountFails m .merge 1 i
  | 4, i => CountFails m .returnDiverter 1 i
  | 5, i => i = 28 ∧ ∀ j < 28, (recAt m j).kind ≠ .laneDiverter
  | 6, i => Lowest m (fun i x => x.kind = .laneDiverter ∧
      ∃ j < i, (recAt m j).kind = .laneDiverter ∧ (recAt m j).lane = x.lane) i
  | 7, i => CountFails m .reader 8 i
  | 8, i => Lowest m (fun _ x => p.loopLen ≤ x.pos) i
  | 9, i => Lowest m (fun i x => ∃ j < i, (recAt m j).kind ≠ .unused ∧ (recAt m j).pos = x.pos) i
  | 10, i => Lowest m (fun _ x => ∃ j < 28, (recAt m j).kind = .merge ∧
      ((x.kind = .laneDiverter ∧ (recAt m j).pos ≤ x.pos) ∨ (x.kind = .returnDiverter ∧ x.pos ≤ (recAt m j).pos))) i
  | 11, i => i = 28 ∧ ¬∃ j < 28, (recAt m j).kind = .reader ∧
      ∀ k < 28, (recAt m k).kind = .laneDiverter → (recAt m j).pos < (recAt m k).pos
  | 12, i => Lowest m (fun i x => p.mgmtAddr ∈ addressesOf x ∨ (2 ≤ (addressesOf x).length ∧ x.prim = x.sec) ∨
      ∃ j < i, (recAt m j).kind ≠ .unused ∧ ∃ a ∈ addressesOf x, a ∈ addressesOf (recAt m j)) i
  | 13, i => Lowest m (fun _ x => x.kind = .merge ∧ x.pos ≤ p.spurLead) i
  | _, _ => False

/-! ## Slots (R142, R158) -/

/-- A gap between two records: the tail passage of the one ahead, and the head passage of the one behind. -/
structure Gap where
  tail : Int
  head : Int

/-- Where a gap opens for the gap target `g`, raised to the odometer `b`. -/
def Gap.opens (b g : Int) (x : Gap) : Int := max b (x.tail + g)

/-- A gap qualifies for a length: it opens at or below its closing. -/
def Gap.fits (b g len : Int) (x : Gap) : Prop := x.opens b g ≤ x.head - len - g

/-- A point is the opening of the first gap that qualifies; there is none where no gap does. -/
def FirstSlot (b g len : Int) (gaps : List Gap) : Option Int → Prop
  | some p => ∃ (j : Nat) (x : Gap), gaps[j]? = some x ∧ x.fits b g len ∧ p = x.opens b g ∧
      ∀ (k : Nat) (y : Gap), k < j → gaps[k]? = some y → ¬y.fits b g len
  | none => ∀ x ∈ gaps, ¬x.fits b g len

/-- The gaps ahead of records with these head passages and lengths: the first lies behind a tail passage, each other one
behind the record before. -/
def gapsAhead (tail : Int) (heads : List (Int × Nat)) : List Gap :=
  (List.range heads.length).map fun j =>
    match j, heads[j]?, heads[j - 1]? with
    | 0, some b, _ => ⟨tail, b.1⟩
    | _ + 1, some b, some a => ⟨a.1 + a.2, b.1⟩
    | _, _, _ => ⟨0, 0⟩

/-- The gaps at the origin, in the order of R142. -/
def originGaps (s : State) : List Gap :=
  match s.trk.list.getLast? with
  | some z => gapsAhead (z.anchor + z.len) (s.trk.list.map fun r => (r.anchor + (s.params.loopLen : Int), r.len))
  | none => []

/-- The gaps at the slot point, in the order of R158, with a record that was behind one gap taken at the same passage ahead
of the next (log 14). -/
def slotGaps (s : State) : List Gap :=
  let l : Int := s.params.loopLen
  let q : Nat := mergePos s - s.params.spurLead
  let next (r : Rec) : Int := r.anchor + q + ((s.pos.odo - (r.anchor + q)) / l + 1) * l
  let order := s.trk.list.rotate (s.trk.list.findIdx fun r => decide ((s.pos.odo - r.anchor) % l < q))
  match order.getLast? with
  | some z => gapsAhead (next z - l + z.len) (order.map fun r => (next r, r.len))
  | none => []

/-! ## Commands -/

/-- The state in which a parameter has taken a value and acts as the last column of R204's table says: on Vref (R6), on G, and
with a G that changes on the points of IND and MRG (R152), on a running interval point (R165), on the idle timer (R179), on
the park timer (R180) and on the link timer (R207). -/
def State.withParam (s : State) (i v : Nat) : State :=
  let p := s.params.put i v
  let u : State := { s with params := p }
  match i with
  | 2 | 3 => { u with pos := { s.pos with vref := min (max s.pos.v p.vnom) p.vmax } }
  | 4 | 5 =>
      let g := min (p.gmin + s.reg.s / 4) p.gmax
      if g = s.reg.g then u else mrgLook (indLook { u with reg := { s.reg with g := g } })
  | 9 => { u with mrg := { s.mrg with interval := s.mrg.interval.map fun _ => s.mrg.since + v - s.mrg.count } }
  | 17 =>
      if v ≠ 0 ∧ s.run.st = .running ∧ s.trk.list = [] ∧ s.ind.ready = none ∧ s.mrg.ready = none ∧
          s.ind.outstanding = none ∧ s.mrg.grant = none then
        { u with run := { s.run with idle := if s.run.idle.isSome then s.run.idle else some (1000 * v) } }
      else { u with run := { s.run with idle := none } }
  | 18 => { u with run := { s.run with
      park := if v = 0 then none else if s.run.st = .parked ∧ s.run.park = none then some (1000 * v) else s.run.park } }
  | 20 => { u with cmd := { s.cmd with link := if v = 0 then none else some (1000 * v) } }
  | _ => u

/-- The state with the load pointer at an index of its table (R203, R204). -/
def State.pointed (s : State) (i : Nat) : State := { s with cmd := { s.cmd with index := i } }

/-- The operation code and the tag of a row that is a management command (section 10.7). -/
def commandOp : Instr → Option (Nat × Byte)
  | .heartbeat t => some (1, t)
  | .setPointer t _ _ => some (2, t)
  | .putRecords t _ => some (3, t)
  | .start t => some (4, t)
  | .park t => some (5, t)
  | .resume t => some (6, t)
  | .dark t => some (7, t)
  | .clearFault t => some (8, t)
  | .toConfig t => some (9, t)
  | .resetTrack t | .resetDevice t => some (10, t)
  | .orderPut t _ _ _ _ _ _ => some (11, t)
  | .orderCancel t _ => some (12, t)
  | .orderQuery t _ => some (13, t)
  | .laneSetOpen t _ | .laneSetClose t _ => some (14, t)
  | .laneClear t _ => some (15, t)
  | .regulate t _ _ => some (16, t)
  | .inductSkip t => some (17, t)
  | .noticeMask t _ => some (18, t)
  | .queryStatus t => some (19, t)
  | .queryLane t _ => some (20, t)
  | .queryTote t _ => some (21, t)
  | .queryCounters t _ _ _ => some (22, t)
  | _ => Option.none

/-- The row of a command whose COMMAND payload is `p`: operation, tag, arguments (section 10.7). None where the operation is
no code or the arguments do not fit it. -/
def commandRow (p : List Byte) : Option Instr :=
  let tag := p.getD 1 0#8
  match byteAt p 0, p.drop 2 with
  | 1, [] => some (.heartbeat tag)
  | 2, [t, i] => some (.setPointer tag t.toNat i.toNat)
  | 3, bs => some (.putRecords tag bs)
  | 4, [] => some (.start tag)
  | 5, [] => some (.park tag)
  | 6, [] => some (.resume tag)
  | 7, [] => some (.dark tag)
  | 8, [] => some (.clearFault tag)
  | 9, [] => some (.toConfig tag)
  | 10, [a] => if a = 1#8 then some (.resetTrack tag) else if a = 2#8 then some (.resetDevice tag) else Option.none
  | 11, [a, b, r0, r1, r2, r3, n, q, k, h] =>
      some (.orderPut tag (256 * a.toNat + b.toNat) (refAt [r0, r1, r2, r3] 0) n.toNat q.toNat k.toNat h.toNat)
  | 12, [a, b] => some (.orderCancel tag (256 * a.toNat + b.toNat))
  | 13, [a, b] => some (.orderQuery tag (256 * a.toNat + b.toNat))
  | 14, [n, a] =>
      if a = 1#8 then some (.laneSetOpen tag n.toNat) else if a = 2#8 then some (.laneSetClose tag n.toNat) else Option.none
  | 15, [n] => some (.laneClear tag n.toNat)
  | 16, [m, a, b] => some (.regulate tag m.toNat (256 * a.toNat + b.toNat))
  | 17, [] => some (.inductSkip tag)
  | 18, [m] => some (.noticeMask tag m)
  | 19, [] => some (.queryStatus tag)
  | 20, [n] => some (.queryLane tag n.toNat)
  | 21, [a, b] => some (.queryTote tag (256 * a.toNat + b.toNat))
  | 22, [g, i, c] => some (.queryCounters tag g.toNat i.toNat c.toNat)
  | _, _ => Option.none

end Sys2Proof.Machine
end

