-- ==== Sys2Proof/Certificates/Slice0/Obligations.lean ====
section
/-! DEFINITION. The statements for the provers. -/

open Sys2Proof Sys2Proof.Machine

/-! ## Steps, runs and invariants -/

/-- The step takes the command at the front of the queue and runs it on the state with the queue's rest. -/
def Obligations.StepRunsTheFrontCommand : Prop :=
  ∀ (c : Instr) (rest : List Instr) (s : State),
    step { s with pending := c :: rest } = exec c { s with pending := rest }

/-- With no command waiting, the step takes the first point the odometer has reached, exactly as that point's own row
would, and with none reached the block idles (the model's choice, log 5). A point the step takes is a belt point that
stands and is reached. -/
def Obligations.StepOnAnEmptyQueueTakesAReachedPoint : Prop :=
  ∀ s : State, Inv s → s.pending = [] →
    (∀ p, nextDue s = some p → step s = exec p s ∧ beltPoint p = true ∧ stands s p = some true) ∧
    (nextDue s = none → step s = .next s)

/-- Every command, on every operand, in every state, answers a next state, and leaves the queue of commands alone. So no
run of the block stops, from whatever state and with whatever commands waiting. -/
def Obligations.EveryCommandGoesOnAndKeepsTheQueue : Prop :=
  (∀ (c : Instr) (s : State), ∃ t, exec c s = .next t ∧ t.pending = s.pending) ∧ ∀ s : State, Safe s

/-- Every step keeps the invariant of the block (R15, R16, R18, R65, R117, R122, R126, R175, R194 to R196, R213 and the
other rules its parts name). -/
def Obligations.EveryStepKeepsTheInvariant : Prop := ∀ s t : State, Inv s → step s = .next t → Inv t

/-- Every step keeps what the units compute in its range: the parameters (R11), the records of the map loaded and of the
map in force (R10), the reference speed between Vnom and Vmax (R6), S at most 1,023 and G what S gives (R150, R152), and
the debt in -8..8 (R166). -/
def Obligations.EveryStepKeepsTheRanges : Prop := ∀ s t : State, RangesOk s → step s = .next t → RangesOk t

/-- Every step keeps the links between the blocks, while the odometer has room for one more count (past its 40 bits it
holds a free value, log 1): every record at a position of the loop and the list in belt order (R17, R21), the queues in
order of open-start, every open-start below its close-start and every record in one fire at most (R89), PLANNED fires with
members bound for their lane (R98), a verify list's records VERIFYING, bound for that lane and in one list (R30, R126),
entries RIDING exactly with an ORDER record that carries their number (R66), no fire while RUN answers DARK (R172, R181),
and an empty list in CONFIG (R185). -/
def Obligations.EveryStepKeepsTheLinks : Prop :=
  ∀ s t : State, Inv s → Links s → s.pos.odo + 1 < 2 ^ 40 → step s = .next t → Links t

/-- The invariant and the links hold in the state after reset. -/
def Obligations.TheInvariantHoldsAtReset : Prop := Inv State.reset ∧ Links State.reset

/-- What a reset leaves: the values the chapters state for power-on (R2, R3, R5 to R7, R10, R40, R41, R62, R83, R89, R103,
R108, R115, R135, R136, R150, R155, R171, R190, R199, R200, R203, R205, R207, R208, R212, R214). That the part holds
bypass asserted until its port starts is the model's reading of R190 (log 2), and the regulator's last count and error of
0 are its reading of R150. -/
def Obligations.ResetLeavesThePowerOnValues : Prop :=
  let s := State.reset
  (s.pos.tally = 0 ∧ s.pos.odo = 0 ∧ s.pos.winCount = 0 ∧ s.pos.v = 0 ∧ s.pos.vref = 100 ∧ s.pos.overspd = false ∧
    s.pos.map.toList = List.replicate 28 Station.empty ∧ s.pos.inForce = none) ∧
  s.params = ⟨12000, 40, 100, 200, 60, 300, 30, 2, 2000, 3000, 20, 200, 300, 240, 8, 64, 500, 120, 900, 800, 10, 1⟩ ∧
  (s.sgt.eyes.toList = List.replicate 28 none ∧ s.sgt.strays = 0 ∧ s.sgt.phantoms = 0) ∧
  (s.sgt.passes.toList = List.replicate 28 0 ∧ s.sgt.noreads.toList = List.replicate 28 0) ∧
  (s.trk.list = [] ∧ s.trk.lost = 0 ∧ s.trk.jumps = 0) ∧ s.ord.entries = [] ∧
  (s.fpl.queues.toList = List.replicate 17 [] ∧ s.fpl.misses.toList = List.replicate 17 0) ∧
  (s.gtc.gates.toList = List.replicate 17 none ∧ s.gtc.spurious.toList = List.replicate 17 0) ∧
  s.lan.lanes.toList =
    ⟨⟨12, 0, 255, 40, true⟩, 0, false, false, none, .opened, 0, false, [], 0, 0, 0, 0⟩ ::
      List.replicate 16 ⟨⟨6, 0, 255, 40, false⟩, 0, true, false, none, .closed, 0, false, [], 0, 0, 0, 0⟩ ∧
  (s.ind.ready = none ∧ s.ind.last = none ∧ s.ind.outstanding = none ∧ s.ind.holeWait = none ∧ s.ind.reject = false) ∧
  (s.reg.s = 0 ∧ s.reg.mode = .closed ∧ s.reg.next = 2000 ∧ s.reg.g = 60 ∧ s.reg.lastN = 0 ∧ s.reg.lastE = 0) ∧
  (s.mrg.ready = none ∧ s.mrg.last = none ∧ s.mrg.grant = none ∧ s.mrg.debt = 0 ∧ s.mrg.count = 0 ∧
    s.mrg.interval = none ∧ s.mrg.hole = .none) ∧
  (s.run.st = .config ∧ s.run.belt = false ∧ s.run.rule = none ∧ s.run.cause = .none ∧ s.run.asleep = false ∧
    s.run.stage = .none ∧ s.run.endPoint = none ∧ s.run.settle = none ∧ s.run.stall = none ∧ s.run.idle = none ∧
    s.run.park = none ∧ s.run.wake = none) ∧
  (s.cmd.table = .stations ∧ s.cmd.index = 0 ∧ s.cmd.link = none ∧ s.cmd.hostless = false ∧ s.cmd.page = none) ∧
  (s.ntq.mask = 0xFF#8 ∧ s.ntq.queue = [] ∧ s.ntq.overflow = 0) ∧
  (s.rng.bypass = true ∧ s.rng.forward = [] ∧ s.rng.control = [] ∧ s.rng.replies = [] ∧ s.rng.turn = .forward ∧
    s.rng.sending = none) ∧
  (s.rng.crcDrops = 0 ∧ s.rng.hopDrops = 0 ∧ s.rng.fwdDrops = 0 ∧ s.rng.unmapped = 0 ∧ s.rng.cmdDrops = 0) ∧
  s.pending = []

/-! ## Resets, the encoder, the speed windows -/

/-- A reset puts every block at its values after power-on while it holds (R186). The encoder lines, what holds the part,
the counter of free values and the queue of commands are not the part's to reset (the model's choice, log 34). At the end
of a reset's cause, when it was the last, POS takes the encoder pair as its reference (R1, R186). The ring port starts
when no cause holds the part (R190), and nothing else changes. -/
def Obligations.ResetsAndThePortStart : Prop :=
  (∀ (c : ResetCause) (s : State),
    exec (.resetAssert c) s = .next { State.reset with
      held := ⟨s.held.resetn || decide (c = .resetn), s.held.supply || decide (c = .supply)⟩
      pos := { State.reset.pos with enc := s.pos.enc }
      free := s.free
      pending := s.pending }) ∧
  (∀ (pair : EncPair) (s : State),
    exec (.resetRelease .resetn pair) s = .next { s with
      held := ⟨false, s.held.supply⟩
      pos := { s.pos with enc := if s.held.resetn && !s.held.supply then pair else s.pos.enc } } ∧
    exec (.resetRelease .supply pair) s = .next { s with
      held := ⟨s.held.resetn, false⟩
      pos := { s.pos with enc := if s.held.supply && !s.held.resetn then pair else s.pos.enc } }) ∧
  (∀ s : State, exec .ringPortStart s =
    .next (if s.held.resetn || s.held.supply then s else { s with rng := { s.rng with bypass := false } }))

/-- A forward count of a part that is not held in reset steps the encoder reference forward and restarts the stall timer;
with a tally it lowers the tally and the odometer stands, with none it raises the odometer and the window's count (R1 to
R3, R5, R175). Points reached already are taken before the count (the model's order, log 5); past the end of 40 bits the
odometer holds a free value (log 1). A part held in reset counts nothing. A reverse count steps the encoder reference
back, raises the tally up to 255 and restarts the stall timer; a tally left above 64 is reported to run control with cause
BELT_REVERSE, which enters FAULT with it and no further causes, the belt released and the STATE notice queued; in FAULT the
cause joins the further causes with a FAULT notice, or changes nothing where it is recorded already, and in CONFIG there is
the FAULT notice alone (R1, R2, R175, R176). A change of both encoder lines counts nothing: the new state becomes the
reference and nothing else changes (R1). -/
def Obligations.EncoderCountsAndIllegalSteps : Prop :=
  (∀ s : State,
     (notHeld s = false → exec .forwardCount s = .next s) ∧
     (notHeld s = true →
       let u := drain Config.drainBound s
       let enc : EncPair := ⟨u.pos.enc.b, !u.pos.enc.a⟩
       let run := { u.run with stall := if u.run.stall.isSome then some u.params.stallTime else u.run.stall }
       exec .forwardCount s = .next
         (if 0 < u.pos.tally then { u with pos := { u.pos with enc := enc, tally := u.pos.tally - 1 }, run := run }
          else if u.pos.odo + 1 < 2 ^ 40 then
            { u with pos := { u.pos with enc := enc, odo := u.pos.odo + 1, winCount := u.pos.winCount + 1 }, run := run }
          else
            { u with
              pos := { u.pos with
                enc := enc, odo := (Config.odometerAfterEnd u.free).toNat, winCount := u.pos.winCount + 1 }
              run := run
              free := u.free + 1 })) ∧
     (nextDue s = none → drain Config.drainBound s = s)) ∧
  (∀ s : State, notHeld s = true → nextDue s = none →
     let tally := min 255 (s.pos.tally + 1)
     let u : State := { s with
       pos := { s.pos with enc := ⟨!s.pos.enc.b, s.pos.enc.a⟩, tally := tally }
       run := { s.run with stall := if s.run.stall.isSome then some s.params.stallTime else s.run.stall } }
     (s.pos.tally < 64 → exec .reverseCount s = .next u) ∧
     (64 ≤ s.pos.tally → ∃ t, exec .reverseCount s = .next t ∧ t.pos = u.pos ∧ t.trk = s.trk ∧ t.fpl = s.fpl ∧
       FaultTaken .beltReverse 0 s.run.further.reverse { s.run.further with reverse := true } u t ∧
       (s.run.st = .fault → s.run.cause = .beltReverse ∨ s.run.further.reverse = true → t = u)) ∧
     exec .illegalStep s = .next { s with pos := { s.pos with enc := ⟨!s.pos.enc.a, !s.pos.enc.b⟩ } })

/-- The end of a speed window: V is 4 times the window's count up to 1,000, the count starts from 0, Vref is V brought
into Vnom..Vmax, and a V above Vmax + Vmax/8 sets the overspeed flag, with one notice where the flag was clear (R5 to R7). -/
def Obligations.SpeedWindowEndMeasuresTheBelt : Prop :=
  ∀ s : State, notHeld s = true → nextDue s = none →
    let v := min (4 * s.pos.winCount) 1000
    let limit := s.params.vmax + s.params.vmax / 8
    let u : State := { s with pos := { s.pos with
      v := v, winCount := 0, vref := min (max v s.params.vnom) s.params.vmax, overspd := decide (limit < v) } }
    (v ≤ limit ∨ s.pos.overspd = true → exec .speedWindowEnd s = .next u) ∧
    (limit < v → s.pos.overspd = false → exec .speedWindowEnd s = .next (notify (.overspeed v limit) u))

/-! ## The ring -/

/-- The frame check of the receiver agrees with the sender (R191). Every command to a station, every reply of an operation
of section 10.7 with at most 21 bytes of data and every notice has a payload of the length and with the codes that the
check asks for; and a frame whose payload has, with addresses and hop count in range, is read back as it was sent: header,
hop count, kind and payload. Which code fields of NOTICE and REPLY payloads the check looks at is the model's reading (log
23), and that it passes class 0 and any detail of a FAULT notice is the model's choice (log 45). The CRC of the nine bytes
49 to 57 is 29B1, and a GATE SET frame with OPEN for node 20 is the eight bytes that section 10.7 gives it, the high byte of
the CRC first. -/
def Obligations.FrameCheckReadsBackWhatIsSent : Prop :=
  (∀ k : CtlKind, k.payload.length ≤ 24 ∧ payloadLengthOk k.code k.payload = true ∧ payloadCodesOk k.code k.payload = true) ∧
  (∀ r : Reply, 1 ≤ r.op → r.op ≤ 22 → r.data.length ≤ 21 →
    r.payload.length ≤ 24 ∧ payloadLengthOk 49 r.payload = true ∧ payloadCodesOk 49 r.payload = true) ∧
  (∀ n : Queued, n.payload.length ≤ 24 ∧ payloadLengthOk 50 n.payload = true ∧ payloadCodesOk 50 n.payload = true) ∧
  (∀ x : Frame, x.dst ≤ 63 → x.src ≤ 63 → x.hop ≤ 63 → x.kind < 256 → x.payload.length ≤ 24 →
    payloadLengthOk x.kind x.payload = true → payloadCodesOk x.kind x.payload = true →
    frameOf false x.bytes = some x ∧ frameOf true x.bytes = none) ∧
  crcOf [49#8, 50#8, 51#8, 52#8, 53#8, 54#8, 55#8, 56#8, 57#8] = 0x29B1#16 ∧
  Frame.bytes ⟨20, 0, 0, 32, [1#8]⟩ = [20#8, 0#8, 0#8, 32#8, 1#8, 1#8, 183#8, 227#8]

/-- A frame that fails the frame check is dropped and counted as a CRC drop (R191). A frame with source 0 is stripped; one
with hop count 63 is dropped and counted; one for another node joins the end of the forward queue with its hop count
raised by 1, or is dropped and counted when 8 wait (R192, R194). Nothing else changes. Stated here for frames that are not
from the management address. -/
def Obligations.RingFramesDroppedStrippedOrForwarded : Prop :=
  ∀ (missing : Bool) (bytes : List Byte) (s : State), portRuns s = true → nextDue s = none →
    (frameOf missing bytes = none → exec (.ringFrame missing bytes) s =
      .next { s with rng := { s.rng with crcDrops := satInc 65535 s.rng.crcDrops } }) ∧
    (∀ x, frameOf missing bytes = some x → x.src ≠ s.params.mgmtAddr →
      (x.src = 0 → exec (.ringFrame missing bytes) s = .next s) ∧
      (x.src ≠ 0 → x.hop = 63 → exec (.ringFrame missing bytes) s =
        .next { s with rng := { s.rng with hopDrops := satInc 65535 s.rng.hopDrops } }) ∧
      (x.src ≠ 0 → x.hop ≠ 63 → x.dst ≠ 0 → x.dst ≠ 63 → s.rng.forward.length < 8 →
        exec (.ringFrame missing bytes) s = .next { s with rng := { s.rng with
          forward := s.rng.forward ++ [⟨x.dst, x.src, x.hop + 1, x.kind, x.payload⟩] } }) ∧
      (x.src ≠ 0 → x.hop ≠ 63 → x.dst ≠ 0 → x.dst ≠ 63 → 8 ≤ s.rng.forward.length →
        exec (.ringFrame missing bytes) s =
          .next { s with rng := { s.rng with fwdDrops := satInc 65535 s.rng.fwdDrops } }))

/-- A station frame that ends at ring-in for the part acts exactly as its own row does (R192, R193, the codes of section
10.7), on the state with the link report made where its source is the management address (R207). -/
def Obligations.RingFrameOfAStationActsAsItsRow : Prop :=
  ∀ (missing : Bool) (bytes : List Byte) (x : Frame) (s : State), portRuns s = true → nextDue s = none →
    frameOf missing bytes = some x → x.src ≠ 0 → x.hop ≠ 63 → x.dst = 0 →
    let u := if x.src = s.params.mgmtAddr then linkReport s else s
    let c := byteAt x.payload 0
    let tote := wordAt x.payload 1
    let len := byteAt x.payload 3
    (x.kind = 16 → exec (.ringFrame missing bytes) s =
      if c = 1 then exec (.eyeLead x.src) u else exec (.eyeTrail x.src) u) ∧
    (x.kind = 17 → exec (.ringFrame missing bytes) s = exec (.tag x.src (if c = 1 then some tote else none)) u) ∧
    (x.kind = 18 → exec (.ringFrame missing bytes) s =
      if c = 1 then exec (.entry x.src) u else if c = 2 then exec (.removal x.src) u
      else if c = 3 then exec (.haltOn x.src) u else exec (.haltOff x.src) u) ∧
    (x.kind = 19 → exec (.ringFrame missing bytes) s =
      if c = 1 then exec (.atOpen x.src) u else if c = 2 then exec (.atClosed x.src) u
      else exec (.driveFault x.src) u) ∧
    (x.kind = 20 → exec (.ringFrame missing bytes) s =
      if c = 1 then exec (.inductReady x.src tote len) u else if c = 2 then exec (.released x.src) u
      else exec (.inductEmpty x.src) u) ∧
    (x.kind = 21 → exec (.ringFrame missing bytes) s =
      if c = 1 then exec (.spurReady x.src tote len) u else if c = 2 then exec (.spurMerged x.src) u
      else exec (.spurEmpty x.src) u)

/-- A COMMAND from the management address acts exactly as the row its payload spells, on the state with the link report
made (R193, R201, R207); one from another source is dropped and counted (R193). -/
def Obligations.RingFrameOfACommandActsAsItsRow : Prop :=
  ∀ (missing : Bool) (bytes : List Byte) (x : Frame) (s : State), portRuns s = true → nextDue s = none →
    frameOf missing bytes = some x → x.src ≠ 0 → x.hop ≠ 63 → x.dst = 0 → x.kind = 48 →
    (x.src = s.params.mgmtAddr → ∀ i, commandRow x.payload = some i →
      exec (.ringFrame missing bytes) s = exec i (linkReport s)) ∧
    (x.src ≠ s.params.mgmtAddr → exec (.ringFrame missing bytes) s =
      .next { s with rng := { s.rng with cmdDrops := satInc 65535 s.rng.cmdDrops } })

/-- The rest of what ends at ring-in (R192 to R194, R207). A frame from the management address that passes the check is
reported to CMD before anything else is done with it: HOSTLESS is cleared with its notice and IND looks at its conditions
again, and the link timer restarts with the link timeout unless that is 0; a release point this sets at the odometer is
taken then (log 5). A broadcast does what the same frame addressed to 0 does, and its copy joins the forward queue with
its hop count raised by 1; that the consumed copy is taken first is the model's reading of R192 (log 24). A frame for
another node is forwarded only. Of the kinds that no block takes, one addressed to 0 is counted with the unmapped frames
and a broadcast is not. A COMMAND from the management address with an operation that is no code, or with arguments that do
not fit it, is answered with FORMAT, and a RESET or LANE SET with an argument that is no code with RANGE; with tag 0 it is
answered with FORMAT, and where the reply queue is full or a RESET DEVICE reply waits to leave it is dropped and counted
(R193, R201, R202). -/
def Obligations.BroadcastsAndTheLinkReport : Prop :=
  (∀ s : State,
    let cleared : State := if s.cmd.hostless then
        notify (.hostless false) (indLook { s with cmd := { s.cmd with hostless := false } }) else s
    linkReport s = { cleared with cmd := { cleared.cmd with
      link := if s.params.linkTimeout = 0 then s.cmd.link else some (1000 * s.params.linkTimeout) } } ∧
    (linkReport s).cmd.hostless = false) ∧
  (∀ (missing : Bool) (bytes : List Byte) (x : Frame) (s : State), portRuns s = true → nextDue s = none →
    frameOf missing bytes = some x → x.src ≠ 0 →
    let u := if x.src = s.params.mgmtAddr then takeReached (linkReport s) else s
    let copied (t : State) : State := { t with rng :=
      if t.rng.forward.length < 8 then
        { t.rng with forward := t.rng.forward ++ [⟨x.dst, x.src, x.hop + 1, x.kind, x.payload⟩] }
      else { t.rng with fwdDrops := satInc 65535 t.rng.fwdDrops } }
    let noBlock := x.kind ∉ [16, 17, 18, 19, 20, 21, 48]
    (x.hop = 63 → exec (.ringFrame missing bytes) s =
      .next { u with rng := { u.rng with hopDrops := satInc 65535 u.rng.hopDrops } }) ∧
    (x.hop ≠ 63 → x.dst ≠ 0 → x.dst ≠ 63 → exec (.ringFrame missing bytes) s = .next (copied u)) ∧
    (x.hop ≠ 63 → x.dst = 0 → noBlock →
      exec (.ringFrame missing bytes) s = .next { u with rng := { u.rng with unmapped := satInc 65535 u.rng.unmapped } }) ∧
    (x.hop ≠ 63 → x.dst = 63 → noBlock → exec (.ringFrame missing bytes) s = .next (copied u)) ∧
    (x.hop ≠ 63 → x.dst = 63 → ¬noBlock →
      ∃ t, exec (.ringFrame false (Frame.bytes ⟨0, x.src, x.hop, x.kind, x.payload⟩)) s = .next t ∧
        exec (.ringFrame missing bytes) s = .next (copied t)) ∧
    (x.hop ≠ 63 → x.dst = 0 → x.kind = 48 → x.src = s.params.mgmtAddr → commandRow x.payload = none →
      let op := byteAt x.payload 0
      let tag := x.payload.getD 1 0#8
      let args := (x.payload.drop 2).length
      (8 ≤ s.rng.replies.length ∨ s.cmd.resetWaiting = true → exec (.ringFrame missing bytes) s =
        .next { u with rng := { u.rng with cmdDrops := satInc 65535 u.rng.cmdDrops } }) ∧
      (s.rng.replies.length < 8 → s.cmd.resetWaiting = false →
        (tag = 0#8 → exec (.ringFrame missing bytes) s = .next (u.replied op tag .format [])) ∧
        (tag ≠ 0#8 → exec (.ringFrame missing bytes) s = .next ((takeReached u).replied op tag
          (if (op = 10 ∧ args = 1) ∨ (op = 14 ∧ args = 2) then .range else .format) [])))))

/-- When the line is free the arbiter gives a forwarded frame and own traffic the line in turn, and of its own traffic the
oldest command before the oldest reply before the oldest notice; the frame leaves its queue and the marker turns (R197,
R198, R202, R213). A notice that leaves 16 behind it brings the overflow count, if above 0, to the end of the queue as an
OVERFLOW notice, and the count to 0 (R214). With nothing waiting, and while a frame is being sent, nothing changes. When a
frame has left, the line is no longer taken; a RELEASE REJECT that has left clears reject in flight and IND computes its
points afresh; the reply to RESET DEVICE that has left resets the part (R149, R187, R198), which keeps the encoder pair,
what holds it, its free values and the queue of commands (the model's choice, log 34). -/
def Obligations.TransmissionTakesAndFreesTheLine : Prop :=
  (∀ s : State, portRuns s = true → nextDue s = none →
     (s.rng.sending.isSome → exec .transmitStart s = .next s) ∧
     (s.rng.sending = none → s.rng.forward = [] → s.rng.control = [] → s.rng.replies = [] → s.ntq.queue = [] →
       exec .transmitStart s = .next s) ∧
     (∀ x xs, s.rng.sending = none → s.rng.forward = x :: xs →
       (s.rng.turn = .forward ∨ (s.rng.control = [] ∧ s.rng.replies = [] ∧ s.ntq.queue = [])) →
       exec .transmitStart s =
         .next { s with rng := { s.rng with forward := xs, sending := some ⟨x, .forwarded⟩, turn := .own } }) ∧
     (s.rng.sending = none → (s.rng.turn = .own ∨ s.rng.forward = []) →
       (∀ c cs, s.rng.control = c :: cs → exec .transmitStart s =
         .next { s with rng := { s.rng with
           control := cs, turn := .forward
           sending := some ⟨⟨c.dst, 0, 0, c.kind.code, c.kind.payload⟩, .command c.kind⟩ } }) ∧
       (∀ r rs, s.rng.control = [] → s.rng.replies = r :: rs → exec .transmitStart s =
         .next { s with rng := { s.rng with
           replies := rs
           sending := some ⟨⟨s.params.mgmtAddr, 0, 0, 49,
             BitVec.ofNat 8 r.op :: r.tag :: BitVec.ofNat 8 r.result.code :: r.data⟩,
             .reply r.resets⟩
           turn := .forward } }) ∧
       (∀ n ns, s.rng.control = [] → s.rng.replies = [] → s.ntq.queue = n :: ns →
         let more := ns.length = 16 ∧ 0 < s.ntq.overflow
         exec .transmitStart s = .next { s with
           rng := { s.rng with
             sending := some ⟨⟨s.params.mgmtAddr, 0, 0, 50, n.payload⟩, .notice⟩, turn := .forward }
           ntq := { s.ntq with
             queue := if more then ns ++ [⟨s.pos.odo, .overflow s.ntq.overflow⟩] else ns
             overflow := if more then 0 else s.ntq.overflow } }))) ∧
  (∀ s : State, nextDue s = none →
     (s.rng.sending = none → exec .transmitEnd s = .next s) ∧
     (∀ x, s.rng.sending = some x → x.kind ≠ .command .releaseReject → x.kind ≠ .reply true →
       exec .transmitEnd s = .next { s with rng := { s.rng with sending := none } }) ∧
     (∀ x, s.rng.sending = some x → x.kind = .command .releaseReject →
       exec .transmitEnd s = .next (indLook { s with
         rng := { s.rng with sending := none }, ind := { s.ind with reject := false } })) ∧
     (∀ x, s.rng.sending = some x → x.kind = .reply true →
       exec .transmitEnd s = .next { State.reset with
         held := s.held, pos := { State.reset.pos with enc := s.pos.enc }, free := s.free, pending := s.pending }))

/-! ## Station frames -/

/-- The frame of every station frame: what holds the part, the position unit, the parameters, the regulator, CMD, the
queue of commands and the ring port less its control queue and unmapped count stand. A station frame from an address that
no station record carries, or of a kind its record does not accept there, is dropped and counted with the unmapped frames,
and nothing else changes (R9). While the ring port does not run there are no frames (log 8). -/
def Obligations.FrameOfStationFrames : Prop :=
  (∀ (i : Instr) (src : Nat) (f : FrameKind) (s : State), frameRow i = some (src, f) → nextDue s = none →
     ∃ t, exec i s = .next t ∧ SameCore s t) ∧
  (∀ (i : Instr) (src : Nat) (f : FrameKind) (s : State), frameRow i = some (src, f) → nextDue s = none →
     (portRuns s = false → exec i s = .next s) ∧
     (portRuns s = true → (∀ x k, lookUp s src f = some (x, k) → x.accepts src f = false) →
       exec i s = .next { s with rng := { s.rng with unmapped := satInc 65535 s.rng.unmapped } }))

/-- The frame of every belt point and timer: as for station frames, but that the sample point sets the regulator and the
link timer CMD. A timer takes the reached points first, so it is stated with none reached (log 5). -/
def Obligations.FrameOfPointsAndTimers : Prop :=
  ∀ (i : Instr) (b : Bool) (s : State), stands s i = some b →
    (beltPoint i = true ∨ nextDue s = none) →
    ∃ t, exec i s = .next t ∧ SameCore { s with reg := t.reg, cmd := t.cmd } t ∧
      (i ≠ .samplePoint → t.reg = s.reg) ∧ (i ≠ .linkTimerExpiry → t.cmd = s.cmd)

/-- EYE LEAD opens a pass, whatever stood before: the lead stamp is the frame's, the jam point lies the jam length on,
nothing is read or held, and the crowded mark is measured from the previous trail, which an open pass that lost its TRAIL
has lost (R42, R44). At an eye with no pass nothing else changes. EYE TRAIL closes an open pass and nothing else: an eye
with no open pass discards it; an unread pass with no NOREAD held awaits its tag report until 16 counts on; any other pass
ends; the previous trail is the frame's stamp, and the jam point and the blocked flag are cleared (R43, R45). In CONFIG
both frames are discarded (R41). -/
def Obligations.EyeFramesOpenAndCloseAPass : Prop :=
  (∀ (src i : Nat) (x : Station) (e : Eye) (s : State), Hands s src .eye x i → eyeOf s i = some e → i < 28 →
     let stamp := s.pos.odo - x.lat
     let trail := if e.pass = .opened then none else e.prevTrail
     let crowded := match trail with
       | some p => if min 1023 (stamp - p) < s.params.gmin then some (min 1023 (stamp - p)) else none
       | none => none
     (s.run.st ≠ .config → e.pass = .noPass → exec (.eyeLead src) s = .next { s with
       sgt := { s.sgt with eyes := vset s.sgt.eyes i (some { e with
         pass := .opened, lead := some stamp, trail := none, noreadHeld := false, res := .unread, crowded := crowded
         jam := some (stamp + s.params.jamLen), blocked := false, tagLimit := none }) } }) ∧
     (s.run.st ≠ .config → ∃ t e', exec (.eyeLead src) s = .next t ∧ eyeOf t i = some e' ∧
       e'.pass = .opened ∧ e'.lead = some stamp ∧ e'.trail = none ∧ e'.noreadHeld = false ∧ e'.res = .unread ∧
       e'.jam = some (stamp + s.params.jamLen) ∧ e'.blocked = false ∧ e'.tagLimit = none ∧ e'.prevTrail = trail ∧
       e'.crowded = crowded)) ∧
  (∀ (src i : Nat) (x : Station) (s : State), Hands s src .eye x i → s.run.st = .config →
     exec (.eyeLead src) s = .next s ∧ exec (.eyeTrail src) s = .next s) ∧
  (∀ (src i : Nat) (x : Station) (e : Eye) (s : State), Hands s src .eye x i → eyeOf s i = some e → i < 28 →
     s.run.st ≠ .config →
     let stamp := s.pos.odo - x.lat
     (e.pass ≠ .opened → exec (.eyeTrail src) s = .next s) ∧
     (e.pass = .opened → e.res = .unread → e.noreadHeld = false → exec (.eyeTrail src) s = .next { s with
       sgt := { s.sgt with eyes := vset s.sgt.eyes i (some { e with
         pass := .awaiting, trail := some stamp, jam := none, blocked := false
         tagLimit := some (stamp + 16), prevTrail := some stamp }) } }) ∧
     (e.pass = .opened → (e.res ≠ .unread ∨ e.noreadHeld = true) →
       ∃ t e', exec (.eyeTrail src) s = .next t ∧ eyeOf t i = some e' ∧ e'.pass = .noPass ∧ e'.jam = none ∧
         e'.blocked = false ∧ e'.tagLimit = none ∧ e'.prevTrail = some stamp))

/-- TAG at an eye: a NOREAD at an unread open pass is held and nothing else changes; a frame at an open pass that a READ
has resolved is discarded; a READ resolves an unread open pass, which stays open; an awaiting pass ends; with no pass the
eye record stands as it was (R46, R48). A READ of 0 or above 4094 is a NOREAD. In CONFIG the frame is discarded (R41). -/
def Obligations.TagIsPairedWithThePass : Prop :=
  (∀ (src i : Nat) (x : Station) (read : Option Nat) (s : State), Hands s src .tag x i → s.run.st = .config →
    exec (.tag src read) s = .next s) ∧
  ∀ (src i : Nat) (x : Station) (e : Eye) (read : Option Nat) (s : State), Hands s src .tag x i → eyeOf s i = some e →
    i < 28 → s.run.st ≠ .config →
    let valid := match read with | some n => decide (1 ≤ n ∧ n ≤ 4094) | none => false
    (e.pass = .opened → e.res = .unread → valid = false → exec (.tag src read) s = .next { s with
      sgt := { s.sgt with eyes := vset s.sgt.eyes i (some { e with noreadHeld := true }) } }) ∧
    (e.pass = .opened → e.res ≠ .unread → exec (.tag src read) s = .next s) ∧
    (e.pass = .opened → e.res = .unread → valid = true →
      ∃ t e', exec (.tag src read) s = .next t ∧ eyeOf t i = some e' ∧ e'.pass = .opened ∧ e'.res ≠ .unread ∧
        e'.lead = e.lead ∧ e'.jam = e.jam) ∧
    (e.pass = .awaiting →
      ∃ t e', exec (.tag src read) s = .next t ∧ eyeOf t i = some e' ∧ e'.pass = .noPass ∧ e'.tagLimit = none) ∧
    (e.pass = .noPass → ∃ t, exec (.tag src read) s = .next t ∧ eyeOf t i = some e)

/-- A READ of a number that a record carries puts that record at the station: at the sighting's stamp its position is the
station's, it is RIDING with no missed deadline, and its doubt is cleared, whether it matched or jumped (R23, R32, R36,
R50, R51). No record is created and none leaves. -/
def Obligations.AReadPutsItsRecordAtTheStation : Prop :=
  ∀ (src i n : Nat) (x : Station) (e : Eye) (r : Rec) (s : State), Inv s → Hands s src .tag x i → eyeOf s i = some e →
    s.run.st ≠ .config → 1 ≤ n → n ≤ 4094 → carrier s n = some r → (e.pass = .opened → e.res = .unread) →
    let stamp : Nat := if e.pass = .noPass then s.pos.odo - x.lat else e.lead.getD 0
    ∃ t r', exec (.tag src (some n)) s = .next t ∧ carrier t n = some r' ∧ r'.id = r.id ∧
      ((stamp : Int) - r'.anchor - (stationAt s i).pos) % s.params.loopLen = 0 ∧
      r'.st = .riding ∧ r'.missed = 0 ∧ r'.doubt = 0 ∧ r'.doubtful = false ∧
      t.trk.list.length = s.trk.list.length

/-- Every sighting is resolved by R50 to R56: a READ against the record that carries its number (match or jump), else
against the nearest record without a number (fill-in), else against the order table (adoption with its size check, STRAY,
UNTRACKED; at the induction and spur eyes it is closed); a NOREAD against the nearest record by position, with its doubt,
else as a PHANTOM. Stated for every way a sighting is formed whose pass is not crowded: a TAG with no pass, a READ at an
open pass, a tag report at an awaiting pass, the TRAIL of a pass with a NOREAD held, a LEAD that ends an open or awaiting
pass, and the tag limit (R42, R43, R46 to R48). Whether a reader is DEGRADED is taken as it stood before the sighting was
counted, also for the NOREAD that ends a window (the model's choice, log 21). -/
def Obligations.SightingsAreResolved : Prop :=
  (∀ (src i : Nat) (d : Station) (e : Eye) (read : Option Nat) (s : State), Inv s → Hands s src .tag d i →
    eyeOf s i = some e → s.run.st ≠ .config → (∀ n, read = some n → 1 ≤ n ∧ n ≤ 4094) →
    let stamp : Nat := s.pos.odo - d.lat
    let seen (stamp : Nat) (len : Option Nat) : Sighting :=
      ⟨read, (stationAt s i).pos, stamp, len, i, sourceOf (stationAt s i).kind⟩
    let passed : Nat := max 1 (min 255 (e.trail.getD 0 - e.lead.getD 0))
    (e.pass = .noPass → ∃ t, exec (.tag src read) s = .next t ∧ Sighted (seen stamp none) s t) ∧
    (e.pass = .opened → e.res = .unread → e.crowded = none → read.isSome →
      ∃ t, exec (.tag src read) s = .next t ∧ Sighted (seen (e.lead.getD 0) none) s t) ∧
    (e.pass = .awaiting → e.crowded = none →
      ∃ t, exec (.tag src read) s = .next t ∧ Sighted (seen (e.lead.getD 0) (some passed)) s t)) ∧
  (∀ (src i : Nat) (d : Station) (e : Eye) (s : State), Inv s → Hands s src .eye d i → eyeOf s i = some e →
    s.run.st ≠ .config → e.crowded = none →
    let stamp : Nat := s.pos.odo - d.lat
    let lead : Nat := e.lead.getD 0
    let unseen (len : Option Nat) : Sighting :=
      ⟨none, (stationAt s i).pos, lead, len, i, sourceOf (stationAt s i).kind⟩
    (e.pass = .opened → e.res = .unread → e.noreadHeld = true →
      ∃ t, exec (.eyeTrail src) s = .next t ∧ Sighted (unseen (some (max 1 (min 255 (stamp - lead))))) s t) ∧
    (e.pass = .opened → e.res = .unread → ∃ t, exec (.eyeLead src) s = .next t ∧ Sighted (unseen none) s t) ∧
    (e.pass = .awaiting →
      ∃ t, exec (.eyeLead src) s = .next t ∧ Sighted (unseen (some (max 1 (min 255 (e.trail.getD 0 - lead))))) s t)) ∧
  (∀ (i : Nat) (e : Eye) (p : Int) (s : State), Inv s → eyeOf s i = some e → e.tagLimit = some p → p ≤ s.pos.odo →
    e.crowded = none →
    let lead : Nat := e.lead.getD 0
    ∃ t, exec (.tagLimit i) s = .next t ∧
      Sighted ⟨none, (stationAt s i).pos, lead, some (max 1 (min 255 (e.trail.getD 0 - lead))), i,
        sourceOf (stationAt s i).kind⟩ s t)

/-- A READ of the number of a VERIFYING record fails its divert, by a match or a jump (R57, R128): the record leaves its
lane's verify list wherever it stands there, the failed diverts counter and the streak rise, and a streak of 2 sets a
clear faulted flag with cause DIVERT (R121), with the LANE notice of a changed state (R122); the other lanes stand. The
record is RIDING with its laps raised, bound for its entry's lane (a RETURN record for lane 0), and a MISS notice with
reason FAILED is queued; at the lap limit it becomes RETURN with reason UNDELIVERABLE and its entry waits again (R104). A
NOREAD that matches a VERIFYING record hands it to its lane in the same way (R54). That a streak which stood at 2 already,
with the flag clear, sets the flag again is the model's reading (log 19), and so are the refusal reason, the lane and the
laps that the UNDELIVERABLE notice carries (log 22). -/
def Obligations.AFailedDivertIsHandedToItsLane : Prop :=
  ∀ (src i g : Nat) (d : Station) (e : Eye) (read : Option Nat) (r : Rec) (v : VerifyEntry) (s : State), Inv s →
    Links s → Hands s src .tag d i → eyeOf s i = some e → s.run.st ≠ .config → e.pass = .noPass → g < 17 →
    v ∈ (laneOf s g).verify → v.who = r.id →
    let x : Sighting := ⟨read, (stationAt s i).pos, (s.pos.odo - d.lat : Nat), none, i, sourceOf (stationAt s i).kind⟩
    (match read with
      | some n => 1 ≤ n ∧ n ≤ 4094 ∧ carrier s n = some r
      | none => Nearest s x (fun r => r.st ≠ .unsure) r) →
    let l := laneOf s g
    let streak := min 2 (l.streak + 1)
    let flag : Option LaneCause := if streak = 2 ∧ l.faulted = none then some .divert else l.faulted
    let laps := min 15 (r.laps + 1)
    let home := ((linkedEntry s r).map (·.lane)).getD 0
    ∃ t r', exec (.tag src read) s = .next t ∧ findRec t r.id = some r' ∧ AtPoint s x r' ∧
      laneOf t g = { l with
        verify := l.verify.filter (fun z => z.who ≠ r.id), failed := satInc 65535 l.failed, streak := streak
        faulted := flag, reported := (laneOf t g).computed } ∧
      (∀ m, m ≠ g → laneOf t m = laneOf s m) ∧
      ((laneOf t g).computed ≠ l.reported → Told (.lane g (laneOf t g).computed flag l.occ) s t) ∧
      (r.doubtful = false → Told (.miss r.tote r.role home laps .failed r.ref v.late) s t) ∧
      (∀ y, linkedEntry s r = some y → laps < y.lapLimit → r'.role = .order ∧ r'.laps = laps ∧ t.ord = s.ord ∧
        (read.isSome → r'.dest = some y.lane)) ∧
      (∀ y, linkedEntry s r = some y → y.lapLimit ≤ laps → r'.role = .ret ∧ r'.reason = .undeliverable ∧
        r'.dest = some 0 ∧ r'.laps = 0 ∧ findEntry t y.tote = some { y with st := .waiting } ∧
        (r.doubtful = false → Told (.undeliverable r.tote r.ref home laps r.refusal) s t)) ∧
      (r.role = .ret → r'.role = .ret ∧ r'.reason = r.reason ∧ r'.dest = some 0 ∧ r'.laps = laps ∧ t.ord = s.ord)

/-- A READ at an open pass with the crowded mark takes the crowded pair after its resolution: the eye's previous record
and the record read have their crowded flag set, each of them that is not VERIFYING and has no started fire becomes RETURN
with reason CROWDED, bound for lane 0 (an ORDER record's entry waits again), and the CROWDED notice names both, the
previous one first (R59, R60). A previous record that is VERIFYING or has a started fire keeps role, reason and destination,
and so does a record read that is matched under a STARTED fire, but for the destination that clearing its doubt gives back
(R50, R60). This is said of states that keep the links between the blocks, in which no record is in two fires (R89). The TRAIL of a pass that a READ has resolved delivers a
changed length to its record, and a tag report at an awaiting pass brings the pass's length; an ORDER record too long for
its entry's lane becomes RETURN with reason SIZE and its entry waits again, with the SIZE notice, unless its divert is under
way (R58, R79; a member of a fire still CLOSING counts so, log 35; of a VERIFYING record that a tag report finds, only the
length is stated here). Each sighting at a reader raises its passes, a NOREAD its noreads too,
in the counters and in the window, and the 64th ends the window with the health its noreads give and a READER notice where
that changed (R61, R62). The sightings are a tag report without a pass, at an awaiting pass, and a READ at an open pass that no
READ has resolved; the TRAIL of a pass that holds a NOREAD; a LEAD that ends an open pass unresolved or an awaiting one; and
the tag limit (R42, R43, R46 to R48). -/
def Obligations.CrowdedPairsLengthsAndReaderHealth : Prop :=
  (∀ (src i n gap p : Nat) (d : Station) (e : Eye) (r q : Rec) (s : State), Inv s → Links s → Hands s src .tag d i →
    eyeOf s i = some e → s.run.st ≠ .config → e.pass = .opened → e.res = .unread → e.crowded = some gap →
    1 ≤ n → n ≤ 4094 → carrier s n = some r → r.role ≠ .hole → e.prevRec = some p → findRec s p = some q →
    q.role ≠ .hole →
    let under (x : Rec) := x.st = .verifying ∨ startedFire s x.id = true
    let sent (t : State) (x x' : Rec) := x'.role = .ret ∧ x'.reason = .crowded ∧
      (x.role = .order → x'.dest = some 0 ∧ x'.laps = 0 ∧
        ∀ k y, x.tote = some k → findEntry s k = some y → findEntry t k = some { y with st := .waiting })
    ∃ t r' q', exec (.tag src (some n)) s = .next t ∧ findRec t r.id = some r' ∧ findRec t p = some q' ∧
      r'.crowded = true ∧ q'.crowded = true ∧ (¬under r → sent t r r') ∧ (¬under q → sent t q q') ∧
      (p ≠ r.id → under q → q'.role = q.role ∧ q'.reason = q.reason ∧ q'.dest = q.dest) ∧
      (∀ g f, fireOf s r.id = some (g, f) → f.st = .started → r.st ≠ .verifying →
        (diffAt s ⟨some n, (stationAt s i).pos, (e.lead.getD 0 : Nat), none, i, sourceOf (stationAt s i).kind⟩ r).natAbs ≤
          readReach s r →
        r'.role = r.role ∧ r'.reason = r.reason ∧
          r'.dest = (if r.doubtful then ((linkedEntry s r).map (·.lane)).or r.dest else r.dest)) ∧
      Told (.crowded i gap q.tote (some n)) s t) ∧
  (∀ (src i id : Nat) (d : Station) (e : Eye) (r : Rec) (s : State), Inv s → Hands s src .eye d i →
    eyeOf s i = some e → s.run.st ≠ .config → e.pass = .opened → e.res = .seen id → findRec s id = some r →
    let len := max 1 (min 255 (s.pos.odo - d.lat - e.lead.getD 0))
    let under := r.st = .verifying ∨ startedFire s id = true
    ∃ t r', exec (.eyeTrail src) s = .next t ∧ findRec t id = some r' ∧ r'.len = len ∧ r'.anchor = r.anchor ∧
      r'.st = r.st ∧ (r.len = len → t.trk = s.trk ∧ t.ord = s.ord ∧ t.fpl = s.fpl) ∧
      (∀ y, r.len ≠ len → linkedEntry s r = some y → (laneOf s y.lane).cfg.maxLen < len → ¬under →
        r'.role = .ret ∧ r'.reason = .size ∧ r'.dest = some 0 ∧ r'.laps = 0 ∧
          findEntry t y.tote = some { y with st := .waiting } ∧
          Told (.size r.tote r.ref y.lane len (laneOf s y.lane).cfg.maxLen) s t) ∧
      ((∀ y, linkedEntry s r = some y → len ≤ (laneOf s y.lane).cfg.maxLen) ∨ under →
        r'.role = r.role ∧ r'.reason = r.reason ∧ r'.dest = r.dest ∧ t.ord = s.ord)) ∧
  (∀ (src i n : Nat) (d : Station) (e : Eye) (r : Rec) (s : State), Inv s → Hands s src .tag d i → eyeOf s i = some e →
    s.run.st ≠ .config → e.pass = .awaiting → e.crowded = none → 1 ≤ n → n ≤ 4094 → carrier s n = some r →
    ∃ t r', exec (.tag src (some n)) s = .next t ∧ findRec t r.id = some r' ∧
      let len := max 1 (min 255 (e.trail.getD 0 - e.lead.getD 0))
      let started := startedFire s r.id = true
      r'.len = len ∧
      (∀ y, r.st ≠ .verifying → linkedEntry s r = some y → (laneOf s y.lane).cfg.maxLen < len → ¬started →
        r'.role = .ret ∧ r'.reason = .size ∧ r'.dest = some 0 ∧ r'.laps = 0 ∧
          findEntry t y.tote = some { y with st := .waiting } ∧
          Told (.size r.tote r.ref y.lane len (laneOf s y.lane).cfg.maxLen) s t) ∧
      (r.st ≠ .verifying → (∀ y, linkedEntry s r = some y → len ≤ (laneOf s y.lane).cfg.maxLen) ∨ started →
        r'.role = r.role ∧ r'.reason = r.reason ∧ t.ord = s.ord)) ∧
  (∀ (src i : Nat) (d : Station) (e : Eye) (read : Option Nat) (w : ReaderWindow) (s : State), Hands s src .tag d i →
    i < 28 → eyeOf s i = some e → s.run.st ≠ .config → (stationAt s i).kind = .reader →
    vget s.sgt.windows i none = some w →
    ∀ noread : Bool, (noread = true ↔ ∀ n, read = some n → n = 0 ∨ 4094 < n) →
    e.pass = .noPass ∨ e.pass = .awaiting ∨ (e.pass = .opened ∧ e.res = .unread ∧ noread = false) →
    ∃ t, exec (.tag src read) s = .next t ∧ Counted i noread w s t) ∧
  (∀ (src i : Nat) (d : Station) (e : Eye) (w : ReaderWindow) (s : State), Hands s src .eye d i → i < 28 →
    eyeOf s i = some e → s.run.st ≠ .config → (stationAt s i).kind = .reader → vget s.sgt.windows i none = some w →
    (e.pass = .opened → e.res = .unread → e.noreadHeld = true →
      ∃ t, exec (.eyeTrail src) s = .next t ∧ Counted i true w s t) ∧
    ((e.pass = .opened ∧ e.res = .unread) ∨ e.pass = .awaiting →
      ∃ t, exec (.eyeLead src) s = .next t ∧ Counted i true w s t)) ∧
  (∀ (i : Nat) (e : Eye) (p : Int) (w : ReaderWindow) (s : State), i < 28 → eyeOf s i = some e → e.tagLimit = some p →
    p ≤ s.pos.odo → (stationAt s i).kind = .reader → vget s.sgt.windows i none = some w →
    ∃ t, exec (.tagLimit i) s = .next t ∧ Counted i true w s t)

/-- ENTRY at a lane whose verify list is empty is a stray entry: the occupancy rises, saturating at 15, the stray entries
counter rises, the STRAY ENTRY notice carries the lane and the occupancy after the rise, and no record, order, fire, gate or
other lane is touched (R117, R132). ENTRY at a lane with a verify list
delivers its oldest record, confirmed: the record leaves the list and the tracking list, its entry is removed (or waits
again for a doubtful record at lane 0), the streak is cleared, and the occupancy and the deliveries counter rise (R117,
R127, R130). The verify deadline of a record delivers it unconfirmed in the same way, and the streak stands (R117, R129,
R130). The notice of a delivery is DELIVERED at lanes 1 to 16 and RETURNED at lane 0, with what R130 gives each, the reason
of RETURNED among it. The lamp of the lane follows where the occupancy enters FULL (R118, R125). The other lanes stand. A
pending READY is examined again once the record has left the list, so that one held as a DUPLICATE of it is held no longer
(R27, R139). That
of several records of the lane with their deadline reached the oldest is taken is the model's reading (log 50). -/
def Obligations.DeliveriesAndStrayEntries : Prop :=
  (∀ (src i : Nat) (x : Station) (s : State), Inv s → Hands s src .lane x i → x.laneNumber < 17 →
     (laneOf s x.laneNumber).verify = [] →
     ∃ t, exec (.entry src) s = .next t ∧
       (let l := laneOf s x.laneNumber
        let l' := laneOf t x.laneNumber
        l'.occ = min 15 (l.occ + 1) ∧ l'.stray = satInc 65535 l.stray ∧ l'.verify = [] ∧ l'.streak = l.streak ∧
          l'.cfg = l.cfg ∧ l'.closed = l.closed ∧ l'.halted = l.halted ∧ l'.faulted = l.faulted ∧
          l'.deliveries = l.deliveries ∧ l'.failed = l.failed ∧ l'.underflows = l.underflows ∧
          l'.reported = l'.computed ∧ Told (.strayEntry x.laneNumber l'.occ) s t) ∧
       LampFollows x.laneNumber s t ∧
       (∀ m, m ≠ x.laneNumber → laneOf t m = laneOf s m) ∧
       t.trk = s.trk ∧ t.ord = s.ord ∧ t.fpl = s.fpl ∧ t.gtc = s.gtc ∧ t.ind = s.ind ∧ t.mrg = s.mrg ∧ t.run = s.run ∧
       t.sgt = s.sgt) ∧
  (∀ (src i : Nat) (x : Station) (e : VerifyEntry) (es : List VerifyEntry) (r : Rec) (s : State), Inv s →
     Hands s src .lane x i → x.laneNumber < 17 → (laneOf s x.laneNumber).verify = e :: es →
     findRec s e.who = some r →
     ∃ t, exec (.entry src) s = .next t ∧
       (let l := laneOf s x.laneNumber
        let l' := laneOf t x.laneNumber
        l'.verify = es ∧ l'.streak = 0 ∧ l'.occ = min 15 (l.occ + 1) ∧ l'.deliveries = satInc 65535 l.deliveries ∧
          l'.stray = l.stray ∧ l'.failed = l.failed ∧ l'.cfg = l.cfg) ∧
       (∀ m, m ≠ x.laneNumber → laneOf t m = laneOf s m) ∧
       findRec t e.who = none ∧ t.trk.list.length + 1 = s.trk.list.length ∧
       (∀ k, r.role = .order → r.tote = some k → (r.doubtful = false ∨ x.laneNumber ≠ 0) → findEntry t k = none) ∧
       (∀ k y, r.role = .order → r.tote = some k → r.doubtful = true → x.laneNumber = 0 → findEntry s k = some y →
         findEntry t k = some { y with st := .waiting }) ∧
       TellsDelivery x.laneNumber r true e.late s t ∧ LampFollows x.laneNumber s t ∧ ReadyExamined s t) ∧
  (∀ (n : Nat) (pre post : List VerifyEntry) (e : VerifyEntry) (r : Rec) (s : State), Inv s → n < 17 →
     (laneOf s n).verify = pre ++ e :: post → (∀ z ∈ pre, (s.pos.odo : Int) < z.deadline) → e.deadline ≤ s.pos.odo →
     findRec s e.who = some r →
     ∃ t, exec (.verifyDeadline n) s = .next t ∧
       (let l := laneOf s n
        let l' := laneOf t n
        l'.verify = l.verify.filter (fun z => z.who ≠ e.who) ∧ l'.occ = min 15 (l.occ + 1) ∧ l'.streak = l.streak ∧
          l'.deliveries = satInc 65535 l.deliveries ∧ l'.stray = l.stray ∧ l'.failed = l.failed ∧ l'.cfg = l.cfg) ∧
       (∀ m, m ≠ n → laneOf t m = laneOf s m) ∧
       findRec t e.who = none ∧ t.trk.list.length + 1 = s.trk.list.length ∧
       (∀ k, r.role = .order → r.tote = some k → (r.doubtful = false ∨ n ≠ 0) → findEntry t k = none) ∧
       (∀ k y, r.role = .order → r.tote = some k → r.doubtful = true → n = 0 → findEntry s k = some y →
         findEntry t k = some { y with st := .waiting }) ∧
       TellsDelivery n r false e.late s t ∧ LampFollows n s t ∧ ReadyExamined s t)

/-- REMOVAL lowers the occupancy, or counts an underflow at 0 and changes nothing else; HALT_ON and HALT_OFF set and clear
the halted flag, and change nothing where the flag stands so already (R117, R120, R122). The reported state follows, and
the other lanes stand. A REMOVAL with which the lane leaves FULL sends LAMP OFF to its node, where it is mapped, and the
records that wait for the lane are planned from the front, one that an earlier plan gave a fire passed over (log 12); any
other changes the lane and its reported state only (R99, R118, R125). -/
def Obligations.RemovalAndHaltChangeTheLane : Prop :=
  ∀ (src i : Nat) (x : Station) (s : State), Inv s → Hands s src .lane x i → x.laneNumber < 17 →
    let n := x.laneNumber
    let l := laneOf s n
    (l.occ = 0 → exec (.removal src) s = .next { s with
      lan := ⟨vset s.lan.lanes n { l with underflows := satInc 65535 l.underflows }⟩ }) ∧
    (0 < l.occ → ∃ t, exec (.removal src) s = .next t ∧
      laneOf t n = { l with
        occ := l.occ - 1, reported := (laneOf t n).computed, lampOn := (laneOf t n).lampOn } ∧
      (∀ m, m ≠ n → laneOf t m = laneOf s m) ∧ t.ord = s.ord ∧ t.run = s.run ∧ t.ind = s.ind ∧ t.mrg = s.mrg ∧
      t.sgt = s.sgt ∧ LampFollows n s t ∧
      ∃ u, LaneChanged n { l with occ := l.occ - 1 } s u ∧
        t = if l.cfg.cap ≤ l.occ ∧ l.occ - 1 < l.cfg.cap then plannedInTurn n u else u) ∧
    (∀ on : Bool, l.halted = on → exec (if on then .haltOn src else .haltOff src) s = .next s) ∧
    (∀ on : Bool, l.halted = !on → ∃ t, exec (if on then .haltOn src else .haltOff src) s = .next t ∧
      laneOf t n = { l with halted := on, reported := (laneOf t n).computed } ∧
      (∀ m, m ≠ n → laneOf t m = laneOf s m) ∧ t.ord = s.ord ∧ t.run = s.run ∧ t.ind = s.ind ∧ t.mrg = s.mrg ∧
      t.sgt = s.sgt)

/-- Gate feedback: AT_OPEN of an OPENING gate makes it OPEN, AT_CLOSED of a CLOSING gate makes it CLOSED and clears its
recovery mark, and the timer stops; where the mark was set the lane's faulted flag is cleared, with the plans of the
records that wait for the lane where no other flag stands, one that an earlier plan gave a fire passed over (R99, R122,
log 12), and the gate keeps its fault cause (the model's choice, log 38). Feedback in any other state is counted as
spurious with a notice, and the gate stands (R110). A gate faults on DRIVE_FAULT in any state but FAULT, and on its
feedback timer: the gate is in FAULT with its cause, its timer stopped and its mark cleared; its lane is FAULTED with
cause GATE; the GATE notice carries the gate, the cause and the state the gate was in; and run control takes the report with
cause GATE and the gate's number: it enters FAULT with it and no further causes, the belt released and the STATE notice
queued; in FAULT the cause joins the further causes with a FAULT notice, or changes nothing where it is recorded already, and
in CONFIG there is the FAULT notice alone (R111, R112, R121, R176). -/
def Obligations.GateFeedbackAndGateFaults : Prop :=
  (∀ (src i : Nat) (x : Station) (y : Gate) (s : State), Hands s src .gate x i → gateOf s x.laneNumber = some y →
     x.laneNumber < 17 →
     let g := x.laneNumber
     let spurious (opened : Bool) : State := notify (.gate (.spurious opened) g y.st)
       { s with gtc := { s.gtc with spurious := vset s.gtc.spurious g (satInc 65535 (vget s.gtc.spurious g 0)) } }
     (y.st = .opening → exec (.atOpen src) s = .next { s with
       gtc := { s.gtc with gates := vset s.gtc.gates g (some { y with st := .opened, timer := none }) } }) ∧
     (y.st ≠ .opening → exec (.atOpen src) s = .next (spurious true)) ∧
     (y.st = .closing → y.recovery = false → exec (.atClosed src) s = .next { s with
       gtc := { s.gtc with gates := vset s.gtc.gates g (some { y with st := .closed, timer := none }) } }) ∧
     (y.st = .closing → y.recovery = true → ∃ t, exec (.atClosed src) s = .next t ∧
       gateOf t g = some { y with st := .closed, timer := none, recovery := false } ∧
       laneOf t g = { laneOf s g with faulted := none, reported := (laneOf t g).computed } ∧
       (∀ m, m ≠ g → laneOf t m = laneOf s m) ∧ t.run = s.run ∧ t.ord = s.ord ∧
       let l := laneOf s g
       ∃ u, LaneChanged g { l with faulted := none } { s with gtc := { s.gtc with
           gates := vset s.gtc.gates g (some { y with st := .closed, timer := none, recovery := false }) } } u ∧
         t = if l.faulted.isSome ∧ l.closed = false ∧ l.halted = false then plannedInTurn g u else u) ∧
     (y.st ≠ .closing → exec (.atClosed src) s = .next (spurious false))) ∧
  (∀ (g : Nat) (y : Gate) (s : State), g < 17 → gateOf s g = some y →
     let faulted (cause : GateCause) (t : State) : Prop :=
       gateOf t g = some ⟨.fault, none, cause, false⟩ ∧ (laneOf t g).faulted = some .gate ∧
       (laneOf t g).occ = (laneOf s g).occ ∧ t.ord = s.ord ∧ Told (.gate (.fault cause) g y.st) s t ∧
       FaultTaken .gate g s.run.further.gate { s.run.further with gate := true } s t
     (∀ src i x, Hands s src .gate x i → x.laneNumber = g → y.st ≠ .fault →
       ∃ t, exec (.driveFault src) s = .next t ∧ faulted .driveFault t) ∧
     (∀ src i x, Hands s src .gate x i → x.laneNumber = g → y.st = .fault → exec (.driveFault src) s = .next s) ∧
     (y.timer.isSome → nextDue s = none → ∃ t, exec (.feedbackTimerExpiry g) s = .next t ∧
       faulted (if y.st = .opening then .openTimeout else .closeTimeout) t))

/-- An INDUCT READY becomes the pending READY and the last READY. It is held as NOREAD without a number, as a DUPLICATE
where a record or the outstanding release carries the number, as NO ORDER where no entry has it, and is a CANDIDATE where
its entry is WAITING or LOST; a READY that is held queues its notice, NOREAD with the length, DUPLICATE with the number, the
length and the cause READY, or NO ORDER with the number and the length (R137 to R139). Records, orders, fires and gates stand. Under resume rule AUTO, with no wake
wait running, it ends a stop: PARKED with the stations awake becomes STARTING, and DARK, or PARKED with stations asleep,
begins the wake (R180, R183). An INDUCT EMPTY clears the pending READY and withdraws the release point, and with none
pending changes nothing (R141). -/
def Obligations.InductReadyAndEmpty : Prop :=
  (∀ (src i tote len : Nat) (x : Station) (s : State), Hands s src .induct x i →
     let read := if tote = 0 ∨ 4094 < tote then none else some tote
     ∃ t p, exec (.inductReady src tote len) s = .next t ∧ t.ind.ready = some p ∧ p.ready = ⟨read, len⟩ ∧
       t.ind.last = some ⟨read, len⟩ ∧ t.ind.outstanding = s.ind.outstanding ∧
       HasStanding s p.ready p.standing ∧ TellsHold p.ready p.standing s t ∧
       t.trk = s.trk ∧ t.ord = s.ord ∧ t.fpl = s.fpl ∧ t.gtc = s.gtc) ∧
  (∀ (src i tote len : Nat) (x : Station) (s : State), Hands s src .induct x i → s.run.rule = some .auto →
    s.run.wake = none →
    ∃ t, exec (.inductReady src tote len) s = .next t ∧
      (s.run.st = .parked → s.run.asleep = false → t.run.st = .starting ∧ t.run.belt = true ∧ t.run.rule = none ∧
        t.run.settle = some (s.pos.odo + s.params.settleDist)) ∧
      (s.run.st = .dark ∨ (s.run.st = .parked ∧ s.run.asleep = true) → t.run.st = s.run.st ∧ t.run.asleep = false ∧
        t.run.stage = .pending ∧ t.run.wake = some s.params.wakeTime ∧ t.run.wakeCause = some .ready)) ∧
  (∀ (src i : Nat) (x : Station) (s : State), Hands s src .induct x i →
    (s.ind.ready = none → exec (.inductEmpty src) s = .next s) ∧
    (∀ p, s.ind.ready = some p → ∃ t, exec (.inductEmpty src) s = .next t ∧ t.ind.ready = none ∧
      t.ind.releasePoint = none ∧ t.ind.last = s.ind.last ∧ t.ind.outstanding = s.ind.outstanding ∧
      t.ind.holeWait = s.ind.holeWait ∧ t.trk = s.trk ∧ t.ord = s.ord ∧ t.mrg = s.mrg ∧ t.lan = s.lan ∧
      t.fpl = s.fpl ∧ t.gtc = s.gtc ∧ t.sgt = s.sgt ∧ t.ntq = s.ntq ∧ t.rng = s.rng))

/-- RELEASED with a release outstanding confirms it, and TRK's answer decides the rest. With room in the list, no record
that carries the number, and an entry that does not ride, an ORDER record enters at the origin: bound for the entry's lane
with its reference, at position 0 at the frame's stamp, and the entry rides (R24 to R26, R145); where the length is above
the lane's maximum it is RETURN with reason SIZE instead, its entry waits, and the notice is queued (R78). With no entry
the record is RETURN with reason STRAY; with a record that carries the number it has none and the DUPLICATE notice is
queued; both are counted with the strays. With the list full there is no record, and an UNTRACKED notice (R145). A pending
READY is then examined again: it has the standing that R138 gives it with the release cleared and the list as it stands now,
with the notice of a hold where the standing has changed, and the release point is computed afresh (R139, R140, R142, R145).
With none outstanding a pending READY is cleared (before the sighting: the model's choice, log 20), and the last READY is resolved
as an ORIGIN sighting at the origin; in CONFIG nothing is done (R147). -/
def Obligations.ReleasedIsTaken : Prop :=
  (∀ (src i : Nat) (x : Station) (o : Release) (s : State), Inv s → Hands s src .induct x i →
    s.ind.outstanding = some o →
    let atOrigin (r : Rec) := (((s.pos.odo - x.lat : Nat) : Int) - r.anchor) % s.params.loopLen = 0
    let station := ((firstOf s .induct).map (·.2)).getD 0
    ∃ t, exec (.released src) s = .next t ∧ t.ind.outstanding = none ∧ t.ind.last = s.ind.last ∧ ReadyExamined s t ∧
      (∀ e, s.trk.list.length < 96 → carrier s o.tote = none → findEntry s o.tote = some e → e.st ≠ .riding →
        let maxLen := (laneOf s e.lane).cfg.maxLen
        t.trk.list.length = s.trk.list.length + 1 ∧ t.sgt.strays = s.sgt.strays ∧
        ∃ r, carrier t o.tote = some r ∧ atOrigin r ∧ r.ref = e.ref ∧ r.len = o.len ∧ r.laps = 0 ∧ r.st = .riding ∧
          (o.len ≤ maxLen → r.role = .order ∧ r.dest = some e.lane ∧
            findEntry t o.tote = some { e with st := .riding }) ∧
          (maxLen < o.len → r.role = .ret ∧ r.reason = .size ∧ r.dest = some 0 ∧
            findEntry t o.tote = some { e with st := .waiting } ∧
            Told (.size (some o.tote) e.ref e.lane o.len maxLen) s t)) ∧
      (s.trk.list.length < 96 → carrier s o.tote = none → findEntry s o.tote = none →
        t.trk.list.length = s.trk.list.length + 1 ∧ t.ord = s.ord ∧ t.sgt.strays = satInc 65535 s.sgt.strays ∧
        Told (.stray (some o.tote) station 0) s t ∧
        ∃ r, carrier t o.tote = some r ∧ atOrigin r ∧ r.role = .ret ∧ r.reason = .stray ∧ r.dest = some 0) ∧
      (s.trk.list.length < 96 → (carrier s o.tote).isSome →
        t.trk.list.length = s.trk.list.length + 1 ∧ t.ord = s.ord ∧ t.sgt.strays = satInc 65535 s.sgt.strays ∧
        Told (.duplicate (some o.tote) o.len .confirm) s t ∧
        ∃ r ∈ t.trk.list, r.id = s.trk.nextId ∧ atOrigin r ∧ r.tote = none ∧ r.role = .ret ∧ r.reason = .stray ∧
          r.dest = some 0) ∧
      (96 ≤ s.trk.list.length → t.trk.list = s.trk.list ∧ t.ord = s.ord ∧ t.sgt = s.sgt ∧
        Told (.untracked (some o.tote) station 0) s t)) ∧
  (∀ (src i : Nat) (x : Station) (s : State), Hands s src .induct x i → s.ind.outstanding = none →
    (s.run.st = .config → exec (.released src) s = .next s) ∧
    (s.run.st ≠ .config → ∃ t, exec (.released src) s = .next t ∧ t.ind.ready = none ∧ t.ind.outstanding = none ∧
      t.ind.last = s.ind.last) ∧
    (s.run.st ≠ .config → Inv s → ∃ t, exec (.released src) s = .next t ∧
      Sighted ⟨s.ind.last.bind (·.tote), 0, (s.pos.odo - x.lat : Nat), s.ind.last.map (·.len),
        ((firstOf s .induct).map (·.2)).getD 0, .origin⟩ s t))

/-- A SPUR READY becomes the pending and the last spur READY (R156); out of CONFIG debt accrues from it where accrual was
paused, at the interval less what the count holds, and interval points that this sets at or below the odometer are reached
at once (R4, R165 to R167); under resume rule AUTO it ends a stop as an INDUCT READY does (R180, R183). A SPUR
MERGED with a grant outstanding confirms it; with none, out of CONFIG, it takes the last spur READY (R163), which it
clears if it is pending, and in CONFIG it is discarded. The debt falls by 1, not below -8, and TRK's answer decides the
rest (R24, R25, R161, R166): a RETURN record with reason EMPTY enters at the merge point at the frame's stamp, with the
number, or without it where a record carries it, and a DUPLICATE notice; with the list full there is an UNTRACKED notice.
A SPUR EMPTY clears the pending spur READY and the merge point, drops a debt above 0 and the interval, and withdraws a
requested hole (R164). -/
def Obligations.SpurReportsAreTaken : Prop :=
  (∀ (src i tote len : Nat) (x : Station) (s : State), Hands s src .spur x i →
    let ready : Ready := ⟨if tote = 0 ∨ 4094 < tote then none else some tote, len⟩
    ∃ t, exec (.spurReady src tote len) s = .next t ∧ t.mrg.ready = some ready ∧ t.mrg.last = some ready ∧
      t.mrg.grant = s.mrg.grant ∧ t.trk = s.trk ∧ t.ord = s.ord ∧ t.fpl = s.fpl ∧
      t.gtc = s.gtc) ∧
  (∀ (src i tote len : Nat) (x : Station) (s : State), Hands s src .spur x i →
    let ready : Ready := ⟨if tote = 0 ∨ 4094 < tote then none else some tote, len⟩
    ∃ t, exec (.spurReady src tote len) s = .next t ∧
      (s.mrg.interval.isSome ∨ s.run.st = .config → t.mrg.count = s.mrg.count ∧ t.mrg.interval = s.mrg.interval ∧
        t.mrg.debt = s.mrg.debt ∧ t.mrg.hole = s.mrg.hole) ∧
      (s.mrg.interval = none → s.run.st ≠ .config → Accrues ready s t ∧
        (s.mrg.hole = .none → t.mrg.hole = .requested → Told (.forced 8 len ready.tote) s t)) ∧
      (s.run.rule = some .auto → s.run.wake = none →
        (s.run.st = .parked → s.run.asleep = false → t.run.st = .starting ∧ t.run.belt = true ∧ t.run.rule = none ∧
          t.run.settle = some (s.pos.odo + s.params.settleDist)) ∧
        (s.run.st = .dark ∨ (s.run.st = .parked ∧ s.run.asleep = true) → t.run.st = s.run.st ∧ t.run.asleep = false ∧
          t.run.stage = .pending ∧ t.run.wake = some s.params.wakeTime ∧ t.run.wakeCause = some .ready))) ∧
  (∀ (src i : Nat) (x : Station) (s : State), Inv s → Hands s src .spur x i →
    (s.run.st = .config → s.mrg.grant = none → exec (.spurMerged src) s = .next s) ∧
    (s.run.st ≠ .config ∨ s.mrg.grant.isSome →
      let tote := match s.mrg.grant with | some y => y.ready.tote | none => s.mrg.last.bind (·.tote)
      let len := match s.mrg.grant with | some y => y.ready.len | none => (s.mrg.last.map (·.len)).getD 255
      let atMerge (r : Rec) := (((s.pos.odo - x.lat : Nat) : Int) - r.anchor - mergePos s) % s.params.loopLen = 0
      ∃ t, exec (.spurMerged src) s = .next t ∧ t.mrg.grant = none ∧
        t.mrg.debt = (if -8 < s.mrg.debt then s.mrg.debt - 1 else -8) ∧ t.mrg.last = s.mrg.last ∧ t.ord = s.ord ∧
        t.mrg.ready = (if s.mrg.grant.isSome then s.mrg.ready else none) ∧
        (s.mrg.grant = none → s.mrg.ready.isSome → t.mrg.interval = none ∧ t.mrg.mergePoint = none) ∧
        (96 ≤ s.trk.list.length → t.trk = s.trk ∧
          Told (.untracked tote (((firstOf s .merge).map (·.2)).getD 0) (mergePos s)) s t) ∧
        (s.trk.list.length < 96 → t.trk.list.length = s.trk.list.length + 1 ∧
          ∃ r ∈ t.trk.list, r.id = s.trk.nextId ∧ r.role = .ret ∧ r.reason = .empty ∧ r.dest = some 0 ∧ r.len = len ∧
            atMerge r ∧
            ((∀ n, tote = some n → carrier s n = none) → r.tote = tote) ∧
            (∀ n, tote = some n → (carrier s n).isSome → r.tote = none ∧ Told (.duplicate tote len .merge) s t)))) ∧
  (∀ (src i : Nat) (x : Station) (s : State), Hands s src .spur x i →
    ∃ t, exec (.spurEmpty src) s = .next t ∧ t.mrg.ready = none ∧ t.mrg.mergePoint = none ∧
      t.mrg.debt = min s.mrg.debt 0 ∧ t.mrg.count = 0 ∧ t.mrg.interval = none ∧ t.mrg.last = s.mrg.last ∧
      t.mrg.grant = s.mrg.grant ∧ t.mrg.hole = (if s.mrg.hole = .requested then .none else s.mrg.hole) ∧
      (s.mrg.hole = .requested → t.ind.holeWait = none ∧ t.ind.holePoint = none) ∧
      (s.mrg.hole ≠ .requested → t.ind = s.ind) ∧ t.trk = s.trk ∧ t.ord = s.ord ∧ t.lan = s.lan ∧ t.fpl = s.fpl ∧
      t.gtc = s.gtc ∧ t.sgt = s.sgt ∧ t.ntq = s.ntq ∧ t.rng = s.rng)

/-! ## Belt points and timers -/

/-- A belt point that does not stand, or that the odometer has not reached, is not taken, and a timer that does not run
does not expire: the row has no effect (R4; the row itself is the model's choice, log 7). A point is reached exactly where
its row would take it. Every row but the points themselves, the resets, the port's start and the illegal step takes the
reached points first, one at a time, each as its own row does, so that it acts as it does on the state in which they are
taken; nothing is taken in reset, and at most 4,096 points are taken at once (the model's choices, log 5). -/
def Obligations.PointsAreTakenWhenReached : Prop :=
  (∀ (i : Instr) (s : State), stands s i = some false → (beltPoint i = true ∨ nextDue s = none) → exec i s = .next s) ∧
  (∀ s : State, Inv s → (nextDue s = none ↔ ∀ i, beltPoint i = true → stands s i = some false)) ∧
  (∀ s : State, takeReached s = if s.held.resetn || s.held.supply then s else drain 4096 s) ∧
  (∀ (s : State) (n : Nat), drain 0 s = s ∧ (nextDue s = none → drain n s = s) ∧
    ∀ p, nextDue s = some p → ∃ t, exec p s = .next t ∧ drain (n + 1) s = drain n t) ∧
  (∀ (i : Instr) (s : State), takesPointsFirst i = true → nextDue (takeReached s) = none →
    exec i s = exec i (takeReached s))

/-- The origin passage of a record raises its anchor by the loop length and leaves its other fields and the number of
records alone. The records of equal position ahead of it take theirs with it, before it, so that their order stands
(R17; that one row does so is the model's reading, log 18); no other record changes. Taken at the count that reaches
it, in a list whose other records have passed the origin, it leaves the records that pass last, in the order they had
(R17, R22). -/
def Obligations.OriginPassageMovesTheAnchor : Prop :=
  ∀ (id : Nat) (r : Rec) (pre post : List Rec) (s : State), Inv s → s.trk.list = pre ++ r :: post → r.id = id →
    r.anchor + s.params.loopLen ≤ s.pos.odo →
    let goes := pre.filter (fun x => x.anchor = r.anchor) ++ [r]
    let stays := pre.filter (fun x => x.anchor ≠ r.anchor) ++ post
    let moved (x : Rec) : Rec := { x with anchor := x.anchor + s.params.loopLen }
    ∃ t, exec (.originPassage id) s = .next t ∧
      (∀ x ∈ goes, findRec t x.id = some (moved x)) ∧ (∀ x ∈ stays, findRec t x.id = some x) ∧
      t.trk.list.length = s.trk.list.length ∧
      (r.anchor + s.params.loopLen = s.pos.odo → (∀ x ∈ s.trk.list, x.anchor ≤ s.pos.odo) →
        t.trk.list = stays ++ goes.map moved) ∧
      t.ord = s.ord ∧ t.fpl = s.fpl ∧ t.gtc = s.gtc ∧ t.lan = s.lan ∧ t.sgt = s.sgt

/-- The first expiry of a sighting deadline makes a RIDING record MISSING and moves the deadline on by the distance from
the expected reader to the next, which becomes the expected reader; nothing else changes (R37). A later expiry removes the
record as LOST, counts it, sets the entry of an ORDER record LOST, and queues the LOST notice with cause DEADLINE (R35,
R38). -/
def Obligations.SightingDeadlineMissesThenLoses : Prop :=
  ∀ (id : Nat) (r : Rec) (p : Int) (s : State), Inv s → findRec s id = some r → r.deadline = some p → p ≤ s.pos.odo →
    (∀ i j d, r.missed = 0 → r.expected = some i → nextReader s (stationAt s i).pos = some (j, d) →
      exec (.sightingDeadline id) s = .next { s with trk := { s.trk with list := s.trk.list.map fun x =>
        if x.id = id then { r with
          missed := 1, st := if r.st = .riding then .missing else r.st, deadline := some (p + d), expected := some j }
        else x } }) ∧
    (r.missed ≠ 0 → ∃ t, exec (.sightingDeadline id) s = .next t ∧ findRec t id = none ∧
      t.trk.list.length + 1 = s.trk.list.length ∧ t.trk.lost = satInc 65535 s.trk.lost ∧
      (∀ k e, r.role = .order → r.tote = some k → findEntry s k = some e → findEntry t k = some { e with st := .lost }) ∧
      Told (.lost r.tote r.role r.reason r.ref (((s.pos.odo : Int) - r.anchor) % s.params.loopLen).toNat 2 .deadline) s t)

/-- The jam point of an open pass blocks the eye and is withdrawn; run control takes the report with cause EYE_JAM and the
station's index: it enters FAULT with it and no further causes, the belt released and the STATE notice queued; in FAULT the
cause joins the further causes with a FAULT notice, or changes nothing where it is recorded already, and in CONFIG there is
the FAULT notice alone (R45, R176). The tag limit of an awaiting pass ends the pass, and its sighting is counted at a reader
as a NOREAD (R47, R62). -/
def Obligations.JamPointAndTagLimit : Prop :=
  (∀ (i : Nat) (e : Eye) (p : Int) (s : State), i < 28 → eyeOf s i = some e → e.jam = some p → p ≤ s.pos.odo →
     ∃ t, exec (.jamPoint i) s = .next t ∧ eyeOf t i = some { e with jam := none, blocked := true } ∧
       (∀ k, k ≠ i → eyeOf t k = eyeOf s k) ∧ t.trk = s.trk ∧ t.ord = s.ord ∧ t.fpl = s.fpl ∧ t.gtc = s.gtc ∧
       t.lan = s.lan ∧ FaultTaken .eyeJam i s.run.further.jam { s.run.further with jam := true } s t) ∧
  (∀ (i : Nat) (e : Eye) (p : Int) (s : State), i < 28 → eyeOf s i = some e → e.tagLimit = some p → p ≤ s.pos.odo →
     ∃ t e', exec (.tagLimit i) s = .next t ∧ eyeOf t i = some e' ∧ e'.pass = .noPass ∧ e'.tagLimit = none ∧
       e'.jam = none ∧ e'.blocked = false ∧ e'.prevTrail = e.prevTrail ∧
       ((stationAt s i).kind = .reader →
         vget t.sgt.passes i 0 = satInc 65535 (vget s.sgt.passes i 0) ∧
         vget t.sgt.noreads i 0 = satInc 65535 (vget s.sgt.noreads i 0)))

/-- The open-start of the first PLANNED fire that it reaches makes that fire STARTED; a gate CLOSED or CLOSING is sent
OPEN, its timer is set to twice the open swing time and it is OPENING; a gate in another state is not sent anything
(R105). The check point of a STARTED fire finds the gate OPEN, and nothing but the mark that it is taken changes; with the
gate in another state the fire's LATE_GATE flag is set and the notice queued, with the tote number of the fire's first
member in belt order (R89, R106). That of several fires of the gate with that point reached the one nearest the front of
the queue is taken is the model's choice (log 50). -/
def Obligations.OpenStartAndCheckPointActOnTheGate : Prop :=
  ∀ (g : Nat) (pre post : List Fire) (x : Fire) (d : Station) (y : Gate) (s : State), g < 17 →
    queueOf s g = pre ++ x :: post → gateRec s g = some d → gateOf s g = some y →
    (x.st = .planned → x.f ≤ s.pos.odo → (∀ z ∈ pre, z.st = .planned → (s.pos.odo : Int) < z.f) →
      let q := pre ++ { x with st := .started } :: post
      (y.st ≠ .closed → y.st ≠ .closing → exec (.openStart g) s =
        .next { s with fpl := { s.fpl with queues := vset s.fpl.queues g q } }) ∧
      (y.st = .closed ∨ y.st = .closing → ∃ t, exec (.openStart g) s = .next t ∧ Placed s t ⟨d.prim, .gateOpen⟩ ∧
        t = { s with
          fpl := { s.fpl with queues := vset s.fpl.queues g q }
          gtc := { s.gtc with gates := vset s.gtc.gates g (some { y with st := .opening, timer := some (2 * d.so) }) }
          rng := t.rng })) ∧
    (x.st = .started → x.checked = false → x.k ≤ s.pos.odo →
      (∀ z ∈ pre, z.st = .started → z.checked = false → (s.pos.odo : Int) < z.k) →
      (y.st = .opened → exec (.checkPoint g) s = .next { s with
        fpl := { s.fpl with queues := vset s.fpl.queues g (pre ++ { x with checked := true } :: post) } }) ∧
      (y.st ≠ .opened → exec (.checkPoint g) s = .next (notify
        (.gate (.lateGate (toteNow s (inBeltOrder s x.members).head?)) g y.st)
        { s with fpl := { s.fpl with
          queues := vset s.fpl.queues g (pre ++ { x with checked := true, lateGate := true } :: post) } })))

/-- The close-start of a STARTED fire: an orphan leaves the queue and no record changes; otherwise the fire is CLOSING and
each member, in belt order, is VERIFYING, bound for the fire's lane, and in its verify list with the deadline C + Ev and
the fire's LATE_GATE flag (R107, R126). Then the gate is kept for another fire, or sent CLOSE where it is OPENING or OPEN
(R107). The end point drops the CLOSING fire and changes nothing else (R107). A full verify list first delivers its oldest
record unconfirmed (R126). That of several fires of the gate with that point reached the one nearest the front of the queue
is taken is the model's choice (log 50). -/
def Obligations.CloseStartHandsOverAndEndPointDrops : Prop :=
  ∀ (g : Nat) (pre post : List Fire) (x : Fire) (s : State), Inv s → g < 17 → queueOf s g = pre ++ x :: post →
    (x.st = .started → x.c ≤ s.pos.odo → (∀ z ∈ pre, z.st = .started → (s.pos.odo : Int) < z.c) →
      let kept := (pre ++ post).any fun z =>
        decide (z.st = .started) || (decide (z.st = .planned) && decide (z.f ≤ x.c + x.dc))
      let decided (t : State) : Prop :=
        (kept = true → t.gtc = s.gtc ∧ t.rng = s.rng) ∧
        (∀ d y, kept = false → gateRec s g = some d → gateOf s g = some y → y.st = .opening ∨ y.st = .opened →
          gateOf t g = some { y with st := .closing, timer := some (2 * d.sc) } ∧ Placed s t ⟨d.prim, .gateClose⟩) ∧
        (∀ y, gateOf s g = some y → y.st ≠ .opening → y.st ≠ .opened → t.gtc = s.gtc ∧ t.rng = s.rng)
      (x.members = [] → ∃ t, exec (.closeStart g) s = .next t ∧ queueOf t g = pre ++ post ∧ decided t ∧
        t.trk = s.trk ∧ t.lan = s.lan ∧ t.ord = s.ord ∧ t.ntq = s.ntq) ∧
      (x.members ≠ [] → (∀ m ∈ x.members, ∃ r, findRec s m = some r ∧ (r.st = .riding ∨ r.st = .missing)) →
        (laneOf s g).verify.length + x.members.length ≤ 4 →
        ∃ t, exec (.closeStart g) s = .next t ∧ queueOf t g = pre ++ { x with st := .closing } :: post ∧ decided t ∧
          (laneOf t g).verify = (laneOf s g).verify ++
            (inBeltOrder s x.members).map (fun m => ⟨m, x.c + (laneOf s g).cfg.ev, x.lateGate⟩) ∧
          t.trk = { s.trk with list := s.trk.list.map fun r =>
            if r.id ∈ x.members then { r with st := .verifying, deadline := none, expected := none, dest := some g }
            else r } ∧
          (∀ n, n ≠ g → laneOf t n = laneOf s n) ∧ t.ord = s.ord ∧ t.ntq = s.ntq ∧ t.run = s.run ∧ t.ind = s.ind ∧
          t.mrg = s.mrg ∧ t.sgt = s.sgt) ∧
      (∀ m r e es, x.members = [m] → findRec s m = some r → r.st = .riding → (laneOf s g).verify = e :: es →
        es.length = 3 → e.who ≠ m → (∀ z ∈ es, z.who ≠ e.who) →
        ∃ t, exec (.closeStart g) s = .next t ∧ findRec t e.who = none ∧
          (laneOf t g).verify = es ++ [⟨m, x.c + (laneOf s g).cfg.ev, x.lateGate⟩] ∧
          (laneOf t g).occ = min 15 ((laneOf s g).occ + 1))) ∧
    (x.st = .closing → x.c + x.dc ≤ s.pos.odo →
      (∀ z ∈ pre, z.st = .closing → (s.pos.odo : Int) < z.c + z.dc) →
      exec (.endPoint g) s = .next { s with fpl := { s.fpl with queues := vset s.fpl.queues g (pre ++ post) } })

/-- The passage watch of a record that is VERIFYING, or a member of a STARTED fire at its destination gate, is spent and
nothing else is done. For any other record it is a pass-by: the misses counter of the lane and the record's laps rise, a
MISS notice is queued, and an ORDER record whose laps have reached its entry's lap limit becomes RETURN with reason
UNDELIVERABLE, with its notice, its entry WAITING again (R103, R104). The LATE_GATE flag of that MISS notice is no (the
model's choice, log 31). -/
def Obligations.PassageWatchIsSpentOrAPassBy : Prop :=
  ∀ (id g : Nat) (r : Rec) (p : Int) (s : State), Inv s → findRec s id = some r → r.dest = some g → r.watch = some p →
    p ≤ s.pos.odo →
    let served := ∃ f, fireOf s id = some (g, f) ∧ f.st = .started
    let laps := min 15 (r.laps + 1)
    let missed := notify (.miss r.tote r.role g (satInc 15 r.laps) r.refusal r.ref false) s
    (r.st = .verifying ∨ served → exec (.passageWatch id) s = .next { s with trk := { s.trk with
      list := s.trk.list.map fun x => if x.id = id then { x with watch := none } else x } }) ∧
    (r.st ≠ .verifying → ¬served →
      ∃ t r', exec (.passageWatch id) s = .next t ∧ findRec t id = some r' ∧
        t.fpl.misses = vset s.fpl.misses g (satInc 65535 (vget s.fpl.misses g 0)) ∧
        t.trk.list.length = s.trk.list.length ∧ t.lan = s.lan ∧ t.sgt = s.sgt ∧ t.ind = s.ind ∧ t.mrg = s.mrg ∧
        t.run = s.run ∧
        ((∀ e, linkedEntry s r = some e → laps < e.lapLimit) →
          r'.laps = laps ∧ r'.role = r.role ∧ r'.dest = some g ∧ r'.st = r.st ∧ r'.anchor = r.anchor ∧
            t.ord = s.ord ∧ t.ntq = missed.ntq) ∧
        (∀ e, linkedEntry s r = some e → e.lapLimit ≤ laps →
          r'.role = .ret ∧ r'.reason = .undeliverable ∧ r'.dest = some 0 ∧ r'.laps = 0 ∧
            findEntry t e.tote = some { e with st := .waiting } ∧
            t.ntq = (notify (.undeliverable r.tote r.ref g laps r.refusal) missed).ntq))

/-- The release point with every condition of R140 holding places RELEASE GO for the induction station; the READY becomes
the outstanding release with its confirm point, and no point of IND stands. With a condition failing the point is spent
and no GO is placed; a pending READY has been examined again (R139, R140, R144). The confirm point abandons the release and
queues the INDUCT_TIMEOUT notice with its number, its length and the odometer of its GO. A pending READY is then examined
again: it has the standing that R138 gives it with the release cleared, with the notice of a hold where the standing has
changed, and no other notice is queued; the release point is computed afresh (R138 to R140, R142, R146). -/
def Obligations.ReleasePointAndItsConfirmPoint : Prop :=
  (∀ (n len i : Nat) (p : Int) (d : Station) (e : Entry) (s : State), s.ind.releasePoint = some p → p ≤ s.pos.odo →
    s.ind.ready = some ⟨⟨some n, len⟩, .candidate⟩ → carrier s n = none → findEntry s n = some e → e.st ≠ .riding →
    s.run.st = .running → s.cmd.hostless = false → s.trk.list.length < 96 → s.ind.holeWait = none →
    s.ind.outstanding = none → s.ind.reject = false → firstOf s .induct = some (d, i) →
    ∃ t, exec .releasePoint s = .next t ∧ Placed s t ⟨d.prim, .releaseGo⟩ ∧
      t = { s with
        rng := t.rng
        run := { s.run with idle := none }
        ind := { s.ind with
          ready := none, outstanding := some ⟨n, len, s.pos.odo, s.pos.odo + s.params.releaseConfirm⟩
          releasePoint := none, holePoint := none } }) ∧
  (∀ (p : Int) (s : State), s.ind.releasePoint = some p → p ≤ s.pos.odo →
    (s.run.st ≠ .running ∨ s.cmd.hostless = true ∨ 96 ≤ s.trk.list.length ∨ s.ind.holeWait.isSome ∨
      s.ind.outstanding.isSome ∨ s.ind.reject = true ∨
      (∀ n, s.ind.ready.bind (·.ready.tote) = some n → (carrier s n).isSome ∨ findEntry s n = none)) →
    ∃ t, exec .releasePoint s = .next t ∧ t.ind.releasePoint = none ∧ t.ind.outstanding = s.ind.outstanding ∧
      ReadyExamined s t ∧ t.ind.last = s.ind.last ∧ t.rng = s.rng ∧ t.run = s.run ∧ t.trk = s.trk ∧ t.ord = s.ord ∧ t.mrg = s.mrg) ∧
  (∀ (o : Release) (s : State), s.ind.outstanding = some o → o.confirm ≤ s.pos.odo →
    let told := notify (.inductTimeout o.tote o.len o.goOdo) s
    ∃ t, exec .confirmPoint s = .next t ∧ t.ind.outstanding = none ∧ t.ind.last = s.ind.last ∧
      t.ind.holeWait = s.ind.holeWait ∧ t.ind.reject = s.ind.reject ∧
      Told (.inductTimeout o.tote o.len o.goOdo) s t ∧ ReadyExamined s t ∧ PointHeld t ∧
      (s.ind.ready = none → t.ntq = told.ntq) ∧
      (∀ p q, s.ind.ready = some p → t.ind.ready = some q → q.standing = p.standing ∨ q.standing = .candidate →
        t.ntq = told.ntq) ∧
      t.run = { s.run with idle := t.run.idle } ∧ t.trk = s.trk ∧ t.ord = s.ord ∧ t.fpl = s.fpl ∧ t.gtc = s.gtc ∧ t.lan = s.lan ∧ t.mrg = s.mrg ∧ t.rng = s.rng)

/-- The merge point with every condition of R157 holding places MERGE GO for the spur station; the spur READY becomes the
outstanding grant of kind NATURAL with its confirm point, and accrual pauses; with a condition failing the point is spent
and nothing else changes (R157, R160, R165). The confirm point abandons the grant with its notice, and the debt stands
(R162). -/
def Obligations.MergePointAndItsConfirmPoint : Prop :=
  (∀ (i : Nat) (p : Int) (y : Ready) (d : Station) (s : State), s.mrg.mergePoint = some p → p ≤ s.pos.odo →
    s.mrg.ready = some y → s.run.st = .running → s.trk.list.length < 96 → s.mrg.grant = none →
    firstOf s .merge = some (d, i) →
    ∃ t, exec .mergePoint s = .next t ∧ Placed s t ⟨d.prim, .mergeGo⟩ ∧
      t = { s with
        rng := t.rng
        run := { s.run with idle := none }
        mrg := { s.mrg with
          ready := none, grant := some ⟨y, s.pos.odo, s.pos.odo + s.params.mergeConfirm, false⟩, mergePoint := none
          interval := none
          count := if s.mrg.interval.isSome then s.mrg.count + (s.pos.odo - s.mrg.since).toNat else s.mrg.count } }) ∧
  (∀ (p : Int) (s : State), s.mrg.mergePoint = some p → p ≤ s.pos.odo →
    (s.mrg.ready = none ∨ s.run.st ≠ .running ∨ 96 ≤ s.trk.list.length ∨ s.mrg.grant.isSome) →
    exec .mergePoint s = .next { s with mrg := { s.mrg with mergePoint := none } }) ∧
  (∀ (y : Grant) (s : State), s.mrg.grant = some y → y.confirm ≤ s.pos.odo →
    ∃ t, exec .mergeConfirmPoint s = .next t ∧
      t.mrg = { s.mrg with grant := none, mergePoint := t.mrg.mergePoint } ∧
      t.ntq = (notify (.mergeTimeout y.ready.tote y.ready.len y.goOdo y.forced) s).ntq ∧
      t.trk = s.trk ∧ t.ord = s.ord ∧ t.fpl = s.fpl ∧ t.gtc = s.gtc ∧ t.lan = s.lan ∧ t.ind = s.ind ∧ t.rng = s.rng)

/-- The end of an interval: the interval count is 0, the debt rises and stays at most 8, and the next interval point lies
I beyond the one reached (R165, R166). A debt that then stands at 8, with a spur READY pending and no hole outstanding,
requests a hole of the READY's length, with a FORCED notice, and holds back the release (R140, R148, R167). The sample
point: REG keeps the number of tote records and the error, S moves by K times the error within 0..1,023 in CLOSED mode and
stands in the others, the next sample point lies the sample distance on, and G is min(Gmin + S/4, Gmax). A G that changes
lets IND and MRG compute their points afresh, and nothing else changes (R151, R152). -/
def Obligations.IntervalPointAndSamplePoint : Prop :=
  (∀ (p : Int) (s : State), s.mrg.interval = some p → p ≤ s.pos.odo →
     let debt := if s.mrg.debt < 8 then s.mrg.debt + 1 else 8
     let m := { s.mrg with count := 0, debt := debt, interval := some (p + s.params.mergeInterval), since := p }
     (debt ≠ 8 ∨ s.mrg.ready = none ∨ s.mrg.hole ≠ .none → exec .intervalPoint s = .next { s with mrg := m }) ∧
     (∀ y, debt = 8 → s.mrg.ready = some y → s.mrg.hole = .none →
       ∃ t, exec .intervalPoint s = .next t ∧
         t = { s with
           mrg := { m with hole := .requested }
           ind := { s.ind with holeWait := some y.len, releasePoint := none, holePoint := t.ind.holePoint }
           ntq := (notify (.forced 8 y.len y.tote) s).ntq })) ∧
  (∀ s : State, s.reg.next ≤ s.pos.odo →
     let n := s.trk.list.countP fun r => r.role ≠ .hole
     let e : Int := n - (s.params.otarget : Int)
     let x : Nat := if s.reg.mode = .closed then (min (max (s.reg.s + s.params.gain * e) 0) 1023).toNat else s.reg.s
     let g := min (s.params.gmin + x / 4) s.params.gmax
     let r : Reg := { s.reg with lastN := n, lastE := e, s := x, next := s.reg.next + s.params.sampleDist, g := g }
     (g = s.reg.g → exec .samplePoint s = .next { s with reg := r }) ∧
     ∃ t, exec .samplePoint s = .next t ∧ t = { s with
       reg := r
       ind := { s.ind with releasePoint := t.ind.releasePoint, holePoint := t.ind.holePoint }
       mrg := { s.mrg with mergePoint := t.mrg.mergePoint } })

/-- The hole point with room in the list and no hole in it places a hole of the length asked for at the origin: it is
handed to MRG, which is TRAVELLING to the slot point; with no room, or with a hole in the list, the request stays and the
point is spent (R24, R25, R148, R168). At the arrival point the hole is removed; a pending spur READY with no grant
outstanding in RUNNING is granted with kind FORCED: MERGE GO is placed for the spur station, the READY becomes the grant
with its confirm point, and accrual pauses; otherwise nothing is granted, nothing is placed and accrual goes on (R160, R165,
R168). What is placed is said for a hole that no fire serves, as none does (R89). -/
def Obligations.HolePointAndArrivalPoint : Prop :=
  (∀ (len : Nat) (p : Int) (s : State), Inv s → s.ind.holeWait = some len → s.ind.holePoint = some p → p ≤ s.pos.odo →
    (s.trk.list.length < 96 → (∀ r ∈ s.trk.list, r.role ≠ .hole) →
      ∃ t r, exec .holePoint s = .next t ∧ t.trk.list.length = s.trk.list.length + 1 ∧ r ∈ t.trk.list ∧
        r.role = .hole ∧ r.tote = none ∧ r.len = len ∧ r.anchor = s.pos.odo ∧ r.dest = none ∧
        t.ind.holeWait = none ∧ t.ind.holePoint = none ∧ t.mrg.hole = .travelling ∧
        t.mrg.arrival = some (s.pos.odo + slotPos s) ∧ t.mrg.ready = s.mrg.ready ∧ t.mrg.debt = s.mrg.debt ∧
        t.ord = s.ord ∧ t.fpl = s.fpl ∧ t.gtc = s.gtc ∧ t.lan = s.lan ∧ t.sgt = s.sgt ∧ t.rng = s.rng) ∧
    (96 ≤ s.trk.list.length ∨ (∃ r ∈ s.trk.list, r.role = .hole) →
      exec .holePoint s = .next { s with ind := { s.ind with holePoint := none } })) ∧
  (∀ (p : Int) (s : State), Inv s → s.mrg.arrival = some p → p ≤ s.pos.odo →
    ∃ t, exec .arrivalPoint s = .next t ∧ t.mrg.hole = .none ∧ t.mrg.arrival = none ∧ t.mrg.debt = s.mrg.debt ∧
      t.trk.list.map (·.id) = (s.trk.list.filter fun r => r.role ≠ .hole).map (·.id) ∧ t.ord = s.ord ∧ t.lan = s.lan ∧
      (∀ y, s.mrg.ready = some y → s.mrg.grant = none → s.run.st = .running →
        t.mrg.ready = none ∧ t.mrg.grant = some ⟨y, s.pos.odo, s.pos.odo + s.params.mergeConfirm, true⟩ ∧
        t.mrg.interval = none ∧
        t.mrg.count = (if s.mrg.interval.isSome then s.mrg.count + (s.pos.odo - s.mrg.since).toNat else s.mrg.count) ∧
        ((∀ r ∈ s.trk.list, r.role = .hole → fireOf s r.id = none) →
          ∀ d i, firstOf s .merge = some (d, i) → Placed s t ⟨d.prim, .mergeGo⟩)) ∧
      (s.mrg.ready = none ∨ s.mrg.grant.isSome ∨ s.run.st ≠ .running →
        t.mrg.ready = s.mrg.ready ∧ t.mrg.grant = s.mrg.grant ∧ t.mrg.interval = s.mrg.interval ∧
        t.mrg.count = s.mrg.count ∧
        ((∀ r ∈ s.trk.list, r.role = .hole → fireOf s r.id = none) → t.rng = s.rng)))

/-- The settle point leads from STARTING to RUNNING, or to RESUMING where a resume is owed: at its first entry every
tote record is UNSURE and the resume end point lies one loop length on, at a later one the records and the point stand;
with no tote record in the list the lap is over at once, and RESUMING leads on to RUNNING, with both STATE notices
(R174, R184). The resume end point gives up every record still UNSURE, each counted and with its LOST notice of cause
RESUME (stated for up to 8 of them), the stage is none, and RESUMING ends in RUNNING (R31, R35, R184). -/
def Obligations.SettlePointAndResumeEndPoint : Prop :=
  (∀ (p : Int) (s : State), Inv s → s.run.settle = some p → p ≤ s.pos.odo →
    ∃ t, exec .settlePoint s = .next t ∧ t.run.settle = none ∧ t.run.belt = true ∧ t.run.stall = s.run.stall ∧
      t.trk.list.map (·.id) = s.trk.list.map (·.id) ∧ t.ord = s.ord ∧ t.fpl = s.fpl ∧ t.gtc = s.gtc ∧ t.lan = s.lan ∧
      t.sgt = s.sgt ∧ t.rng = s.rng ∧
      (s.run.stage = .none → t.run.st = .running ∧ t.run.stage = .none ∧ t.trk = s.trk ∧
        t.ntq = (notify (.state .starting .running .settled) s).ntq) ∧
      (s.run.stage = .lap → t.run.st = .resuming ∧ t.run.stage = .lap ∧ t.run.endPoint = s.run.endPoint ∧
        t.trk = s.trk ∧ t.ntq = (notify (.state .starting .resuming .settled) s).ntq) ∧
      (s.run.stage = .pending → (∃ r ∈ s.trk.list, r.role ≠ .hole) →
        t.run.st = .resuming ∧ t.run.stage = .lap ∧ t.run.endPoint = some (s.pos.odo + s.params.loopLen) ∧
          ∀ r ∈ t.trk.list, r.role ≠ .hole → r.st = .unsure ∧ r.missed = 0) ∧
      (s.run.stage = .pending → (∀ r ∈ s.trk.list, r.role = .hole ∧ r.st ≠ .unsure) →
        t.run.st = .running ∧ t.run.stage = .none ∧ t.run.endPoint = none ∧ t.trk = s.trk ∧
          t.ntq = (notify (.state .resuming .running .allRead) (notify (.state .starting .resuming .settled) s)).ntq)) ∧
  (∀ (p : Int) (s : State), Inv s → s.run.endPoint = some p → p ≤ s.pos.odo →
    ∃ t, exec .resumeEndPoint s = .next t ∧ t.run.endPoint = none ∧ t.run.stage = .none ∧
      (∀ r ∈ t.trk.list, r.st ≠ .unsure) ∧
      t.trk.list.length + s.trk.list.countP (fun r => r.st = .unsure) = s.trk.list.length ∧
      (s.run.st = .resuming → t.run.st = .running) ∧ (s.run.st ≠ .resuming → t.run.st = s.run.st) ∧
      t.lan = s.lan ∧ t.sgt = s.sgt ∧
      (s.trk.lost ≤ 65535 → t.trk.lost = min 65535 (s.trk.lost + s.trk.list.countP fun r => r.st = .unsure)) ∧
      (s.trk.list.countP (fun r => r.st = .unsure) ≤ 8 → ∀ r ∈ s.trk.list, r.st = .unsure → Told
        (.lost r.tote r.role r.reason r.ref (((s.pos.odo : Int) - r.anchor) % s.params.loopLen).toNat r.missed .resume)
        s t))

/-- The timers: the stall timer enters FAULT with cause BELT_STALL; the idle timer enters PARKED with resume rule AUTO;
the park timer enters DARK with the rule PARKED held, or stays PARKED with a PARK_LONG notice and the timer restarted
where a condition of DARK fails; the wake wait enters STARTING with the cause of the wake; the link timer sets HOSTLESS,
which withdraws the release point (R175, R176, R179, R181 to R183, R207). The conditions of DARK are those of R181, and the
first that fails in its order is the one that fails: a mapped gate that is not CLOSED, a fire in a queue, a debt above 0, an
outstanding release, an outstanding grant, a VERIFYING record. The timers hold their limits only: a park timer
that expires in a wake wait acts as it does without one, and the wait goes on (the model's choice, log 33). -/
def Obligations.TimersAct : Prop :=
  (∀ s : State,
    let gate := ∃ g y, gateOf s g = some y ∧ y.st ≠ .closed
    let fire := ∃ g, queueOf s g ≠ []
    let debt := 0 < s.mrg.debt
    let release := s.ind.outstanding.isSome
    let grant := s.mrg.grant.isSome
    let verify := ∃ r ∈ s.trk.list, r.st = .verifying
    (darkFails s = some .gate ↔ gate) ∧
    (darkFails s = some .fire ↔ ¬gate ∧ fire) ∧
    (darkFails s = some .debt ↔ ¬gate ∧ ¬fire ∧ debt) ∧
    (darkFails s = some .release ↔ ¬gate ∧ ¬fire ∧ ¬debt ∧ release) ∧
    (darkFails s = some .grant ↔ ¬gate ∧ ¬fire ∧ ¬debt ∧ ¬release ∧ grant) ∧
    (darkFails s = some .verify ↔ ¬gate ∧ ¬fire ∧ ¬debt ∧ ¬release ∧ ¬grant ∧ verify) ∧
    (darkFails s = none ↔ ¬gate ∧ ¬fire ∧ ¬debt ∧ ¬release ∧ ¬grant ∧ ¬verify)) ∧
  ∀ s : State, Inv s → nextDue s = none →
    (s.run.stall.isSome → exec .stallTimerExpiry s = .next (s.entered { s.run with
      st := .fault, belt := false, rule := none, cause := .beltStall, detail := 0, further := ⟨false, false, false, false⟩
      settle := none, stall := none, idle := none, park := none, wake := none, wakeCause := none } (.fault .beltStall))) ∧
    (s.run.idle.isSome → exec .idleTimerExpiry s = .next (s.entered { s.run with
      st := .parked, belt := false, rule := some .auto, settle := none, stall := none, idle := none
      park := parkTimer s.params } .autoPark)) ∧
    (s.run.park.isSome →
      (∀ c, darkFails s = some c → exec .parkTimerExpiry s =
        .next (notify (.parkLong c s.params.parkLimit) { s with run := { s.run with park := parkTimer s.params } })) ∧
      (darkFails s = none → exec .parkTimerExpiry s = .next ((placeControl ⟨63, .sleep⟩ s).entered { s.run with
        st := .dark, belt := false, asleep := true, settle := none, stall := none, idle := none, park := none }
        .autoDark))) ∧
    (s.run.wake.isSome → ∀ c, s.run.wakeCause = some c → exec .wakeWaitExpiry s = .next (s.entered { s.run with
      st := .starting, belt := true, rule := none, settle := some (s.pos.odo + s.params.settleDist)
      stall := some s.params.stallTime, idle := none, park := none, wake := none, wakeCause := none } c)) ∧
    (s.cmd.link.isSome → ∃ t, exec .linkTimerExpiry s = .next t ∧ t = { s with
      cmd := { s.cmd with link := none, hostless := true }
      ind := { s.ind with releasePoint := none, holePoint := t.ind.holePoint }
      ntq := (notify (.hostless true) s).ntq })

/-! ## Plans, fires and slots -/

/-- The next passage of a record at a gate is A + P where B - A is below P and A + L + P otherwise, the first of its
passages above the odometer (R85). The swing distances are the products of swing time and speed in thousandths, rounded
up, within 1..160, not rounded up for an exact multiple of 1000; a fire takes the open distance with So and the close
distance with Sc at Vref (R86). -/
def Obligations.NextPassageAndSwingDistances : Prop :=
  (∀ (s : State) (r : Rec) (p : Nat),
    ((s.pos.odo : Int) - r.anchor < p → nextPassage s r p = r.anchor + p) ∧
    ((p : Int) ≤ s.pos.odo - r.anchor → nextPassage s r p = r.anchor + s.params.loopLen + p) ∧
    (r.anchor ≤ s.pos.odo → (s.pos.odo : Int) - r.anchor < s.params.loopLen → p < s.params.loopLen →
      (s.pos.odo : Int) < nextPassage s r p ∧
      ∀ k : Int, (s.pos.odo : Int) < r.anchor + p + k * s.params.loopLen →
        nextPassage s r p ≤ r.anchor + p + k * s.params.loopLen)) ∧
  (∀ ms v : Nat, swing ms v = (ms * v + 999) / 1000 ∧ ms * v ≤ 1000 * swing ms v ∧ 1000 * swing ms v < ms * v + 1000 ∧
    (20 ≤ ms → ms ≤ 400 → 20 ≤ v → v ≤ 400 → 1 ≤ swing ms v ∧ swing ms v ≤ 160) ∧
    (∀ k, ms * v = 1000 * k → swing ms v = k)) ∧
  swing 150 200 = 30 ∧
  (∀ (s : State) (d : Station) (h : Int) (group : List (Rec × Int)),
    (fireFor s d h group).f = (fireFor s d h group).k - swing d.so s.pos.vref ∧
    (fireFor s d h group).dc = swing d.sc s.pos.vref)

/-- A plan request for a tote record that is not VERIFYING and has no fire. The first check of R92 that fails refuses it:
the record takes the reason, its watch stands at its next passage (R85, R91, R102), and nothing else changes. Otherwise,
with an open-start at or below the odometer the plan is for the passage one loop on (R87), and the group is formed there
(R93). Where no other member has a fire to leave, the room check with the committed count and, without a RUSH member, less
the reserve (R94: FULL or ROOM), a queue of 8 (R95) and a shadow (R96) refuse it in this order, every member with the
reason; a plan that passes them all is accepted: a PLANNED fire with the points of R88 stands in the queue at its place by
open-start (R89), and each member's reason is NONE, or LATE where the plan was moved (R97). That the new fire stands behind
every fire of the same open-start is the model's choice, since R89 and R97 give no order of ties (log 44). That every
member's watch then stands at its own next passage, also where the plan was moved, is the model's reading of R97 and R102
(log 12). -/
def Obligations.PlansAreRefusedOrAcceptedInOrder : Prop :=
  ∀ (id g : Nat) (r : Rec) (d : Station) (s : State), Inv s → Unplanned s id g r d →
    (∀ why, firstFailed s r g = some why → planReq id s = s.planned d why [id]) ∧
    (firstFailed s r g = none →
      let next := nextPassage s r d.pos
      let late := next - d.lead - swing d.so s.pos.vref ≤ s.pos.odo
      ∀ h : Int, (late → h = next + s.params.loopLen) → (¬late → h = next) →
      let group := groupOf s d g r h
      let ids := group.map (·.1.id)
      (∀ m ∈ ids, fireOf s m = none) →
      let l := laneOf s g
      let q := queueOf s g
      let committed := l.occ + ((q.filter fun x => x.st ≠ .closing).map (·.members.length)).sum + l.verify.length
      let rush := ∃ m ∈ group, ∃ e, linkedEntry s m.1 = some e ∧ e.rush = true
      let fits := committed + group.length ≤ l.cfg.cap - l.cfg.reserve ∨ (rush ∧ committed + group.length ≤ l.cfg.cap)
      let x := fireFor s d h group
      let shadow := (∃ y ∈ s.trk.list, y.role ≠ .hole ∧ y.id ∉ ids ∧ MeetsPassage s d y (x.f, x.c + x.dc)) ∨
        ∃ y ∈ q, ∃ m ∈ group, Overlap (windowAt d m.1 m.2) (y.f, y.c + y.dc)
      (¬fits → l.cfg.cap ≤ l.occ → planReq id s = s.planned d .full ids) ∧
      (¬fits → l.occ < l.cfg.cap → planReq id s = s.planned d .room ids) ∧
      (fits → 8 ≤ q.length → planReq id s = s.planned d .queue ids) ∧
      (0 < s.params.loopLen → fits → q.length < 8 → shadow → planReq id s = s.planned d .shadow ids) ∧
      (0 < s.params.loopLen → fits → q.length < 8 → ¬shadow → ∃ pre post, q = pre ++ post ∧
        (∀ y ∈ pre, y.f ≤ x.f) ∧ (∀ y, post.head? = some y → x.f < y.f) ∧
        ∃ why, (late → why = .late) ∧ (¬late → why = .none) ∧
          planReq id s = State.planned
            { s with fpl := { s.fpl with queues := vset s.fpl.queues g (pre ++ x :: post) } } d why ids))

/-- The group of a plan is the record and those that join it in a walk of the list both ways (R93): ahead of the record
and around from the last one, then behind it and around from the first, the hole stepped over, each record reached from
the window of the one before it, until one does not join or 8 are reached. The fire of a group has F and K from the member
whose passage is lowest, and C from the member whose window ends last (R88), its members in belt order, its swing
distances at Vref, and it is PLANNED (R84, R86, R89, R90). Of two passages of a record exactly half a loop from the planned
one the earlier counts as the nearest (the model's choice, log 51). -/
def Obligations.GroupsAreWalkedAndFiresServeThem : Prop :=
  (∀ (s : State) (d : Station) (g : Nat) (r : Rec) (h : Int) (pre post : List Rec), Inv s → s.trk.list = pre ++ r :: post →
    let w := windowAt d r h
    let ahead := (pre.reverse ++ post.reverse).filter fun x => x.role ≠ .hole
    ∃ n m, Walk s d g h w ahead 7 n ∧
      (let behind := ((post ++ pre).filter fun x => x.role ≠ .hole).takeWhile fun x => x ∉ ahead.take n
       Walk s d g h w behind (7 - n) m ∧
       groupOf s d g r h = (r, h) :: ((ahead.take n ++ behind.take m).map fun x => (x, passageNear s d.pos h x))) ∧
      ((groupOf s d g r h).map (·.1.id)).Nodup) ∧
  (∀ (s : State) (d : Station) (h : Int) (r : Rec) (more : List (Rec × Int)),
    let group := (r, h) :: more
    let x := fireFor s d h group
    (∀ m ∈ group, x.k ≤ m.2 - d.lead) ∧ (∃ m ∈ group, x.k = m.2 - d.lead) ∧
    (∀ m ∈ group, m.2 + m.1.len + d.trail ≤ x.c) ∧ (∃ m ∈ group, x.c = m.2 + m.1.len + d.trail) ∧
    x.f = x.k - swing d.so s.pos.vref ∧ x.dc = swing d.sc s.pos.vref ∧ x.st = .planned ∧ x.lateGate = false ∧
    x.members = (s.trk.list.filter fun y => y.id ∈ group.map (·.1.id)).map (·.id))

/-- A plan request for a record that is not in the list, for the hole and for a VERIFYING record is ignored; for a member
of a STARTED fire it moves only that fire's close-start, to where the last of its members' windows ends for their passages
nearest to the check point (of two half a loop from it the earlier one: the model's choice, log 51), and not to a point
already passed; a member of a CLOSING fire leaves it and is planned (R91,
R100). A cancelled order's record with a PLANNED fire of its own is withdrawn from it: the fire leaves the queue, and once
the plans that follow are decided the gate is sent CLOSE if it is OPENING or OPEN and no fire keeps it (R34, R74, R98,
R107). HALT_ON withdraws every PLANNED fire of its lane and its members are refused (R98, R122); HALT_OFF that clears the
last flag plans the records bound for the lane that have no fire and are not VERIFYING, from the front (R99). No PLANNED
fire of which a record is not a member is left with that record's passage in its window by a READ of it, nor by its entry
at a RELEASED (R101). A PLANNED fire keeps its gate through its own Dc, and the gate is decided after the plans, as the
model reads R98 and R107 (log 30); a record that has a fire by an earlier plan of the same walk is not planned again (log
12). -/
def Obligations.FiresAreMovedAndWithdrawn : Prop :=
  (∀ (id : Nat) (s : State), (∀ r, findRec s id = some r → r.role = .hole ∨ r.st = .verifying) → planReq id s = s) ∧
  (∀ (id g : Nat) (r : Rec) (x : Fire) (d : Station) (top : Int) (s : State), findRec s id = some r → r.role ≠ .hole →
    r.st ≠ .verifying → fireOf s id = some (g, x) → x.st = .started → gateRec s g = some d →
    let ends := (x.members.filterMap (findRec s)).map fun m => passageNear s d.pos x.k m + m.len + d.trail
    top ∈ ends → (∀ y ∈ ends, y ≤ top) →
    let c := if top ≤ s.pos.odo ∨ top ≤ x.f then max (s.pos.odo : Int) (x.f + 1) else top
    planReq id s = { s with fpl := { s.fpl with
      queues := vset s.fpl.queues g ((queueOf s g).map fun y => if y = x then { y with c := c } else y) } }) ∧
  (∀ (id g : Nat) (r : Rec) (x : Fire) (s : State), FiresOk s → findRec s id = some r → r.role ≠ .hole →
    r.st ≠ .verifying → fireOf s id = some (g, x) → x.st = .closing →
    let q := (queueOf s g).map fun y => { y with members := y.members.filter fun m => m ≠ id }
    planReq id s = planReq id { s with fpl := { s.fpl with queues := vset s.fpl.queues g q } }) ∧
  (∀ (tag : Byte) (n g : Nat) (e : Entry) (r : Rec) (x : Fire) (y : Gate) (d : Station) (s : State), Takes s tag → Inv s →
    Links s → 1 ≤ n → n ≤ 4094 → findEntry s n = some e → e.st = .riding → carrier s n = some r →
    fireOf s r.id = some (g, x) → x.st = .planned → x.members = [r.id] → g ≠ 0 → gateRec s g = some d →
    gateOf s g = some y →
    ∃ t, exec (.orderCancel tag n) s =
        .next ((takeReached t).replied 12 tag .done (bytesOf 2 n ++ [BitVec.ofNat 8 e.st.code])) ∧
      queueOf t g = (queueOf s g).filter (fun z => z ≠ x) ∧
      (let kept := (queueOf t g).any fun z =>
         decide (z.st = .started) || (decide (z.st = .planned) && decide (z.f ≤ s.pos.odo + z.dc))
       (kept = true ∨ (y.st ≠ .opening ∧ y.st ≠ .opened) → gateOf t g = some y) ∧
       (kept = false → y.st = .opening ∨ y.st = .opened →
         gateOf t g = some { y with st := .closing, timer := some (2 * d.sc) } ∧ ⟨d.prim, .gateClose⟩ ∈ t.rng.control))) ∧
  (∀ (src i : Nat) (x : Station) (s : State), Inv s → Links s → Hands s src .lane x i → x.laneNumber < 17 →
    (laneOf s x.laneNumber).halted = false → (gateRec s x.laneNumber).isSome →
    ∃ t, exec (.haltOn src) s = .next t ∧ (∀ f ∈ queueOf t x.laneNumber, f.st ≠ .planned) ∧
      ∀ f ∈ queueOf s x.laneNumber, f.st = .planned → ∀ m ∈ f.members,
        fireOf t m = none ∧ ∃ r, findRec t m = some r ∧ r.refusal ≠ .none) ∧
  (∀ (src i : Nat) (x : Station) (s : State), Inv s → Hands s src .lane x i → x.laneNumber < 17 →
    let n := x.laneNumber
    let l := laneOf s n
    l.halted = true → l.closed = false → l.faulted = none →
    let freed : Lane := { l with halted := false, reported := if l.cfg.cap ≤ l.occ then .full else .opened }
    exec (.haltOff src) s = .next (plannedInTurn n
      (notify (.lane n freed.reported none l.occ) { s with lan := ⟨vset s.lan.lanes n freed⟩ }))) ∧
  (∀ (src i n : Nat) (d : Station) (e : Eye) (r : Rec) (s : State), Inv s → Hands s src .tag d i → eyeOf s i = some e →
    s.run.st ≠ .config → e.pass = .noPass → 1 ≤ n → n ≤ 4094 → carrier s n = some r → r.role ≠ .hole →
    0 < s.params.loopLen →
    ∃ t r', exec (.tag src (some n)) s = .next t ∧ carrier t n = some r' ∧
      ∀ g f x, g < 17 → f ∈ queueOf t g → f.st = .planned → r'.id ∉ f.members → gateRec t g = some x →
        ¬MeetsPassage t x r' (f.f, f.c + f.dc)) ∧
  (∀ (src i : Nat) (x : Station) (o : Release) (s : State), Inv s → Hands s src .induct x i →
    s.ind.outstanding = some o → s.trk.list.length < 96 → 0 < s.params.loopLen →
    ∃ t, exec (.released src) s = .next t ∧ ∀ r ∈ t.trk.list, r.id = s.trk.nextId →
      ∀ g f y, g < 17 → f ∈ queueOf t g → f.st = .planned → r.id ∉ f.members → gateRec t g = some y →
        ¬MeetsPassage t y r (f.f, f.c + f.dc))

/-- A gap qualifies for a length where it opens, at the tail of the record ahead plus G and not below the odometer, at or
below the head of the record behind less the length less G. A READY that is a CANDIDATE, with every other condition of
R140 holding, has its release point at the opening of the first gap at the origin that qualifies, and none where no gap
does; with an empty list the point is the odometer (R142, R143). A pending spur READY with the conditions of R157 has its
merge point in the same way at the slot point, the gaps taken from the first record whose position is below it (R158,
R159; that a record behind one gap is taken at the same passage ahead of the next is the model's choice, log 14). A hole
that waits with the conditions of R148 has its hole point as R142 gives it. -/
def Obligations.PointsLieInTheFirstSlotThatFits : Prop :=
  (∀ (s : State) (len : Nat),
    (s.trk.list = [] → originSlot s len = some s.pos.odo ∧ mergeSlot s len = some s.pos.odo) ∧
    (s.trk.list ≠ [] → FirstSlot s.pos.odo s.reg.g len (originGaps s) (originSlot s len) ∧
      FirstSlot s.pos.odo s.reg.g len (slotGaps s) (mergeSlot s len))) ∧
  (∀ (src i tote len : Nat) (x : Station) (e : Entry) (s : State), Hands s src .induct x i → 1 ≤ tote → tote ≤ 4094 →
    carrier s tote = none → findEntry s tote = some e → e.st ≠ .riding → s.ind.outstanding = none →
    s.run.st = .running → s.run.rule = none → s.cmd.hostless = false → s.trk.list.length < 96 →
    s.ind.holeWait = none → s.ind.reject = false →
    ∃ t, exec (.inductReady src tote len) s = .next t ∧ t.ind.releasePoint = originSlot s len) ∧
  (∀ (src i tote len : Nat) (x : Station) (s : State), Hands s src .spur x i → s.run.st = .running → s.run.rule = none →
    s.trk.list.length < 96 → s.mrg.grant = none →
    ∃ t, exec (.spurReady src tote len) s = .next t ∧ t.mrg.mergePoint = mergeSlot s len) ∧
  (∀ (src i len : Nat) (x : Station) (p : Pending) (s : State), Hands s src .induct x i → s.ind.ready = some p →
    s.ind.holeWait = some len → s.run.st = .running → s.trk.list.length < 96 → s.ind.outstanding = none →
    ∃ t, exec (.inductEmpty src) s = .next t ∧ t.ind.holePoint = originSlot s len)

/-! ## Management commands -/

/-- A command that finds the reply queue full, or a RESET DEVICE reply waiting to leave, is dropped and counted; one with
tag 0 is refused with FORMAT and not executed (R187, R201, R202). While the ring port does not run there are no commands
(log 8). -/
def Obligations.CommandsTurnedAway : Prop :=
  ∀ (i : Instr) (op : Nat) (tag : Byte) (s : State), commandOp i = some (op, tag) → nextDue s = none →
    (portRuns s = false → exec i s = .next s) ∧
    (portRuns s = true → 8 ≤ s.rng.replies.length ∨ s.cmd.resetWaiting = true →
      exec i s = .next { s with rng := { s.rng with cmdDrops := satInc 65535 s.rng.cmdDrops } }) ∧
    (portRuns s = true → s.rng.replies.length < 8 → s.cmd.resetWaiting = false → tag = 0#8 →
      exec i s = .next (s.replied op 0#8 .format []))

/-- HEARTBEAT changes no state, and its reply is DONE with the run state and the number of notices waiting (R206). -/
def Obligations.HeartbeatOnlyAnswers : Prop :=
  ∀ (tag : Byte) (s : State), Takes s tag →
    exec (.heartbeat tag) s =
      .next (s.replied 1 tag .done [BitVec.ofNat 8 s.run.st.code, BitVec.ofNat 8 s.ntq.queue.length])

/-- SET POINTER moves the load pointer to a record of a table, or is refused with RANGE; NOTICE MASK replaces the mask.
PUT RECORDS takes one record or two, of any of the three tables, that fit the table and lie in range, in CONFIG (a parameter
that is not marked C in every run state), and steps the pointer past each; a length that is no whole number of records is refused with FORMAT, a run state
with STATE, a place past the end or a value out of range with RANGE; a refused record changes nothing (R10, R115, R203
to R205, R212). A lane record brings the lane's reported state and its lamp along where the new capacity moves it across
FULL; with the belt and the gate's queue empty, as in CONFIG, nothing else changes (R115, R118, R122, R125). Points that
a written record sets at the odometer are then taken (R201). -/
def Obligations.LoadingCommands : Prop :=
  ∀ (tag : Byte) (s : State), Takes s tag →
    (∀ (table index : Nat) (t : Table), t.code = table →
      (index < t.size → exec (.setPointer tag table index) s =
        .next (State.replied { s with cmd := { s.cmd with table := t, index := index } } 2 tag .done
          [BitVec.ofNat 8 table, BitVec.ofNat 8 index])) ∧
      (t.size ≤ index → exec (.setPointer tag table index) s = .next (s.replied 2 tag .range []))) ∧
    (∀ table index : Nat, table < 1 ∨ 3 < table → exec (.setPointer tag table index) s = .next (s.replied 2 tag .range [])) ∧
    (∀ mask : Byte, exec (.noticeMask tag mask) s =
      .next (State.replied { s with ntq := { s.ntq with mask := mask } } 18 tag .done [mask])) ∧
    (∀ bs : List Byte,
      let k := s.cmd.table.recordBytes
      let i := s.cmd.index
      let data (n : Nat) : List Byte := [BitVec.ofNat 8 n, BitVec.ofNat 8 s.cmd.table.code, BitVec.ofNat 8 (i + n)]
      (bs.length ≠ k → bs.length ≠ 2 * k → exec (.putRecords tag bs) s = .next (s.replied 3 tag .format [])) ∧
      (bs.length = k ∨ bs.length = 2 * k →
        (s.cmd.table ≠ .params → s.run.st ≠ .config →
          exec (.putRecords tag bs) s = .next (s.replied 3 tag .state (data 0))) ∧
        (s.cmd.table = .params ∨ s.run.st = .config → s.cmd.table.size < i + bs.length / k →
          exec (.putRecords tag bs) s = .next (s.replied 3 tag .range (data 0)))) ∧
      (s.cmd.table = .stations → s.run.st = .config → bs.length = 11 → i < 28 →
        (∀ x, stationOf bs = some x → stationOk x = true → exec (.putRecords tag bs) s =
          .next (State.replied { s with
            pos := { s.pos with map := vset s.pos.map i x }, cmd := { s.cmd with index := i + 1 } } 3 tag .done (data 1))) ∧
        ((∀ x, stationOf bs = some x → stationOk x = false) →
          exec (.putRecords tag bs) s = .next (s.replied 3 tag .range (data 0)))) ∧
      (∀ as x y, s.cmd.table = .stations → s.run.st = .config → as.length = 11 → bs.length = 11 → i + 1 < 28 →
        stationOf as = some x → stationOk x = true → stationOf bs = some y → stationOk y = true →
        exec (.putRecords tag (as ++ bs)) s =
          .next (State.replied { s with
            pos := { s.pos with map := vset (vset s.pos.map i x) (i + 1) y }, cmd := { s.cmd with index := i + 2 } }
            3 tag .done (data 2))) ∧
      (s.cmd.table = .lanes → s.run.st = .config → bs.length = 5 → i < 17 →
        (∀ x, laneRecOf bs = some x → laneRecOk i x = true → ∃ t,
          exec (.putRecords tag bs) s = .next ((takeReached t).replied 3 tag .done (data 1)) ∧ (laneOf t i).cfg = x ∧
          (laneOf t i).closed = !x.initOpen ∧ (laneOf t i).occ = (laneOf s i).occ ∧
          (∀ m, m ≠ i → laneOf t m = laneOf s m) ∧ t.cmd = { s.cmd with index := i + 1 } ∧ t.pos = s.pos ∧
          t.params = s.params ∧ t.ord = s.ord ∧ LampFollows i s t ∧
          (s.trk.list = [] → queueOf s i = [] → LaneChanged i { laneOf s i with cfg := x, closed := !x.initOpen }
            { s with cmd := { s.cmd with index := i + 1 } } t)) ∧
        ((∀ x, laneRecOf bs = some x → laneRecOk i x = false) →
          exec (.putRecords tag bs) s = .next (s.replied 3 tag .range (data 0)))) ∧
      (∀ as x y, s.cmd.table = .lanes → s.run.st = .config → as.length = 5 → bs.length = 5 → i + 1 < 17 →
        laneRecOf as = some x → laneRecOk i x = true → laneRecOf bs = some y → laneRecOk (i + 1) y = true → ∃ t,
          exec (.putRecords tag (as ++ bs)) s = .next ((takeReached t).replied 3 tag .done (data 2)) ∧
          (laneOf t i).cfg = x ∧ (laneOf t i).closed = !x.initOpen ∧ (laneOf t i).occ = (laneOf s i).occ ∧
          (laneOf t (i + 1)).cfg = y ∧ (laneOf t (i + 1)).closed = !y.initOpen ∧
          (laneOf t (i + 1)).occ = (laneOf s (i + 1)).occ ∧
          (∀ m, m ≠ i → m ≠ i + 1 → laneOf t m = laneOf s m) ∧ t.cmd = { s.cmd with index := i + 2 } ∧ t.pos = s.pos ∧
          t.params = s.params ∧ t.ord = s.ord ∧
          (s.trk.list = [] → queueOf s i = [] → queueOf s (i + 1) = [] → ∃ u,
            LaneChanged i { laneOf s i with cfg := x, closed := !x.initOpen }
              { s with cmd := { s.cmd with index := i + 1 } } u ∧
            LaneChanged (i + 1) { laneOf s (i + 1) with cfg := y, closed := !y.initOpen }
              { u with cmd := { s.cmd with index := i + 2 } } t)) ∧
      (s.cmd.table = .params → bs.length = 2 → i < 22 →
        let v := wordAt bs 0
        (configOnly i = true → s.run.st ≠ .config → exec (.putRecords tag bs) s = .next (s.replied 3 tag .state (data 0))) ∧
        (configOnly i = false ∨ s.run.st = .config → paramOk s.params i v = false →
          exec (.putRecords tag bs) s = .next (s.replied 3 tag .range (data 0))) ∧
        (configOnly i = false ∨ s.run.st = .config → paramOk s.params i v = true →
          (∃ t, exec (.putRecords tag bs) s = .next ((takeReached t).replied 3 tag .done (data 1)) ∧
            t.params = s.params.put i v ∧ t.cmd.index = i + 1 ∧ t.trk = s.trk ∧ t.ord = s.ord ∧ t.lan = s.lan ∧
            t.fpl = s.fpl ∧ t.gtc = s.gtc ∧ t.sgt = s.sgt ∧ t.ntq = s.ntq) ∧
          (i ∉ [2, 3, 4, 5, 9, 17, 18, 20] → exec (.putRecords tag bs) s =
            .next (State.replied (takeReached { s with
              params := s.params.put i v, cmd := { s.cmd with index := i + 1 } }) 3 tag .done (data 1))))) ∧
      (∀ as, s.cmd.table = .params → as.length = 2 → bs.length = 2 → i + 1 < 22 →
        let p := s.params.put i (wordAt as 0)
        ((configOnly i = false ∧ configOnly (i + 1) = false) ∨ s.run.st = .config →
          paramOk s.params i (wordAt as 0) = true → paramOk p (i + 1) (wordAt bs 0) = true →
          ∃ t, exec (.putRecords tag (as ++ bs)) s = .next ((takeReached t).replied 3 tag .done (data 2)) ∧
            t.params = p.put (i + 1) (wordAt bs 0) ∧ t.cmd.index = i + 2 ∧ t.trk = s.trk ∧ t.ord = s.ord ∧
            t.lan = s.lan ∧ t.fpl = s.fpl ∧ t.gtc = s.gtc ∧ t.sgt = s.sgt ∧ t.ntq = s.ntq)))

/-- A parameter that PUT RECORDS writes acts as R204's table says. Vnom and Vmax set Vref afresh (R6); Gmin and Gmax set G
afresh, and a G that changes lets IND and MRG compute their points (R152); the merge interval moves a running interval
point to its reference point plus the new interval less the count (R165); the idle time of 0 stops the idle timer, and
another value starts it where only the 0 kept it from running (R179); the park limit does so for the park timer in PARKED
(R180); the link timeout restarts the link timer, or stops it with 0 (R207). The other parameters only take the value. A
point that the load sets or moves to or below the odometer is then taken (R4, R165, R201). Of two records that are both written
each acts as it would alone, the second on the state that the first has left, and the points of both are taken after the
second (R201, R204); a second one that is refused, with RANGE or with STATE, is not written, and the first stays written with
the pointer on the second (R204). -/
def Obligations.LoadedParametersActAtOnce : Prop :=
  ∀ (tag : Byte) (bs : List Byte) (i : Nat) (s : State), Takes s tag → Inv s → s.cmd.table = .params → s.cmd.index = i →
    bs.length = 2 → i < 22 →
    let v := wordAt bs 0
    let p := s.params.put i v
    let u : State := { s with params := p }
    let data (n : Nat) : List Byte := [BitVec.ofNat 8 n, 3#8, BitVec.ofNat 8 (i + n)]
    paramOk s.params i v = true → (configOnly i = false ∨ s.run.st = .config) →
    let done (t : State) : Host.Outcome State Fault Refusal :=
      .next (State.replied (takeReached { t with cmd := { t.cmd with index := i + 1 } }) 3 tag .done (data 1))
    (i = 2 ∨ i = 3 → exec (.putRecords tag bs) s =
      done { u with pos := { s.pos with vref := min (max s.pos.v p.vnom) p.vmax } }) ∧
    (i = 4 ∨ i = 5 →
      let g := min (p.gmin + s.reg.s / 4) p.gmax
      (g = s.reg.g → exec (.putRecords tag bs) s = done u) ∧
      ∃ t, exec (.putRecords tag bs) s = done t ∧ t = { u with
        reg := { s.reg with g := g }
        ind := { s.ind with releasePoint := t.ind.releasePoint, holePoint := t.ind.holePoint }
        mrg := { s.mrg with mergePoint := t.mrg.mergePoint } }) ∧
    (i = 9 → exec (.putRecords tag bs) s = done { u with mrg := { s.mrg with
      interval := s.mrg.interval.map fun _ => s.mrg.since + v - s.mrg.count } }) ∧
    (i = 17 →
      let waits := s.run.st = .running ∧ s.trk.list = [] ∧ s.ind.ready = none ∧ s.mrg.ready = none ∧
        s.ind.outstanding = none ∧ s.mrg.grant = none
      (v = 0 ∨ ¬waits → exec (.putRecords tag bs) s = done { u with run := { s.run with idle := none } }) ∧
      (v ≠ 0 → waits → exec (.putRecords tag bs) s = done { u with run := { s.run with
        idle := if s.run.idle.isSome then s.run.idle else some (1000 * v) } })) ∧
    (i = 18 → exec (.putRecords tag bs) s = done { u with run := { s.run with
      park := if v = 0 then none else if s.run.st = .parked ∧ s.run.park = none then some (1000 * v) else s.run.park } }) ∧
    (i = 20 → exec (.putRecords tag bs) s = done { u with cmd := { s.cmd with
      link := if v = 0 then none else some (1000 * v) } }) ∧
    (i ∉ [2, 3, 4, 5, 9, 17, 18, 20] → exec (.putRecords tag bs) s = done u) ∧
    let t := (s.withParam i v).pointed (i + 1)
    exec (.putRecords tag bs) s = done (s.withParam i v) ∧
    (i = 4 ∨ i = 5 → min (p.gmin + s.reg.s / 4) p.gmax ≠ s.reg.g → PointHeld t) ∧
    (∀ cs : List Byte, cs.length = 2 → i + 1 < 22 →
      let w := wordAt cs 0
      let both : Host.Outcome State Fault Refusal := .next (State.replied
        (takeReached ((t.withParam (i + 1) w).pointed (i + 2))) 3 tag .done (data 2))
      let stopped (r : Result) : Host.Outcome State Fault Refusal :=
        .next (State.replied (takeReached t) 3 tag r (data 1))
      (configOnly (i + 1) = false ∨ s.run.st = .config → paramOk p (i + 1) w = true →
        exec (.putRecords tag (bs ++ cs)) s = both) ∧
      (configOnly (i + 1) = false ∨ s.run.st = .config → paramOk p (i + 1) w = false →
        exec (.putRecords tag (bs ++ cs)) s = stopped .range) ∧
      (configOnly (i + 1) = true → s.run.st ≠ .config → exec (.putRecords tag (bs ++ cs)) s = stopped .state))

/-- START is refused with STATE outside CONFIG, with MAP_INVALID and the station and code of the first failing check of
the map, and with GAP_TOO_SMALL and the first diverter that fails. Otherwise the map loaded is in force, RUN is STARTING
with the belt run output asserted, every lane has its faulted flag and streak clear, the entries for lanes that are not
mapped are gone, and every eye of the map is at its initial values, every reader HEALTHY; with the empty list that CONFIG
holds, every queue is empty and every mapped gate is CLOSING (R12, R13, R41, R61, R67, R108, R121, R173 to R175). The
control queue has lost its commands for nodes the map does not hold, and a RELEASE REJECT among them clears reject in
flight; the other commands stand but for the nodes the start commands go to (R195). WAKE is broadcast, each mapped lane's
lamp shows whether it is FULL, and a pending spur READY accrues debt (R125, R165, R170). The points that START sets at the
odometer are then taken (R201): with the list empty that is the settle point where the settle distance is 0, and none
otherwise (R174). That the reply carries the run state after it, and not STARTING, is the model's choice (log 42). -/
def Obligations.StartPutsTheMapInForce : Prop :=
  ∀ (tag : Byte) (s : State), Takes s tag → Inv s →
    (s.run.st ≠ .config → exec (.start tag) s = .next (s.replied 4 tag .state [])) ∧
    (s.run.st = .config → ∀ i code, mapFault s.params s.pos.map = some (i, code) →
      exec (.start tag) s = .next (s.replied 4 tag .mapInvalid [BitVec.ofNat 8 i, BitVec.ofNat 8 code])) ∧
    (s.run.st = .config → mapFault s.params s.pos.map = none → ∀ i, gapFault s.params s.pos.map = some i →
      exec (.start tag) s = .next (s.replied 4 tag .gapTooSmall [BitVec.ofNat 8 i])) ∧
    (s.run.st = .config → mapFault s.params s.pos.map = none → gapFault s.params s.pos.map = none →
      ∃ t, exec (.start tag) s =
          .next ((takeReached t).replied 4 tag .done [BitVec.ofNat 8 (takeReached t).run.st.code]) ∧
        (s.trk.list = [] → 0 < s.params.mergeInterval →
          nextDue t = if s.params.settleDist = 0 then some .settlePoint else none) ∧
        t.pos = { s.pos with inForce := some s.pos.map } ∧
        t.run = { s.run with
          st := .starting, belt := true, rule := none, asleep := false, stage := .none, endPoint := none
          settle := some (s.pos.odo + s.params.settleDist), stall := some s.params.stallTime, idle := none, park := none } ∧
        (∀ n, n < 17 → (laneOf t n).faulted = none ∧ (laneOf t n).streak = 0 ∧ (laneOf t n).occ = (laneOf s n).occ ∧
          (laneOf t n).cfg = (laneOf s n).cfg) ∧
        t.ord.entries = s.ord.entries.filter (fun e => laneMapped t e.lane) ∧
        (∀ i, i < 28 → eyeOf t i = if (vget s.pos.map i Station.empty).hasEye then some Eye.initial else none) ∧
        (s.trk.list = [] → (∀ g, queueOf t g = []) ∧ t.trk = s.trk ∧
          ∀ g, g < 17 → gateOf t g = (gateRec t g).map fun d => ⟨.closing, some (2 * d.sc), .none, false⟩) ∧
        (∀ i, i < 28 → vget t.sgt.windows i none =
          if (vget s.pos.map i Station.empty).kind = .reader then some ⟨0, 0, false⟩ else none) ∧
        (let holds (a : Nat) := ∃ i x, i < 28 ∧ x = vget s.pos.map i Station.empty ∧ x.kind ≠ .unused ∧
           a ∈ addressesOf x
         let started (a : Nat) := a = 63 ∨ ∃ g d, gateRec t g = some d ∧ (a = d.prim ∨ a = d.sec)
         (∀ c ∈ t.rng.control, c.dst = 63 ∨ holds c.dst) ∧
         (∀ c ∈ s.rng.control, holds c.dst → ¬started c.dst → c ∈ t.rng.control) ∧
         (∀ a, ⟨a, .releaseReject⟩ ∈ s.rng.control → a ≠ 63 → ¬holds a → t.ind.reject = false)) ∧
        ((∀ g d, gateRec t g = some d → d.prim ≠ 63 ∧ d.sec ≠ 63) → ⟨63, .wake⟩ ∈ t.rng.control) ∧
        (∀ n d, n < 17 → gateRec t n = some d →
          (laneOf t n).lampOn = decide ((laneOf s n).cfg.cap ≤ (laneOf s n).occ)) ∧
        (∀ y, s.mrg.ready = some y → s.mrg.interval = none → Accrues y s t) ∧
        (s.mrg.ready = none ∨ s.mrg.interval.isSome → t.mrg.interval = s.mrg.interval ∧ t.mrg.count = s.mrg.count ∧
          t.mrg.debt = s.mrg.debt ∧ t.mrg.hole = s.mrg.hole))

/-- The check of START refuses a map with the code and the index of the first of the thirteen checks that fails, as the
table of R12 gives them, and passes it where none fails; then the first diverter in index order whose margins and longer
swing at Vmax exceed Gmin is the one GAP_TOO_SMALL carries (R12, R13). -/
def Obligations.TheMapChecksOfStart : Prop :=
  ∀ (p : Params) (m : StationMap),
    (∀ i c, mapFault p m = some (i, c) ↔ CheckFails p m c i ∧ ∀ b < c, ∀ j, ¬CheckFails p m b j) ∧
    (mapFault p m = none ↔ ∀ c i, ¬CheckFails p m c i) ∧
    (let tooSmall (x : Station) := (x.kind = .laneDiverter ∨ x.kind = .returnDiverter) ∧
       p.gmin < x.lead + x.trail + (max x.so x.sc * p.vmax + 999) / 1000
     (∀ i, gapFault p m = some i ↔ Lowest m (fun _ x => tooSmall x) i) ∧
     (gapFault p m = none ↔ ∀ i < 28, ¬tooSmall (recAt m i)))

/-- PARK, RESUME, DARK and CLEAR FAULT, in every run state: the state they enter and the reply, or the refusal with STATE,
which changes nothing; a DARK refused for a condition carries it; RESUME with stations asleep, and in DARK, begins the
wake: WAKE is broadcast, the passes at the reader eyes are discarded (their blocked flags with them: the model's choice,
log 17), no eye keeps its previous trail and record (R63), and every mapped lane is sent the lamp for its FULL condition
(R125). While a wake wait runs RESUME changes nothing (R177, R178, R180, R181, R183). With a settle distance of 0 RESUME sets
a settle point that is taken before its reply (R174, R201), which carries the run state after it (the model's choice, log
42). -/
def Obligations.RunControlCommands : Prop :=
  ∀ (tag : Byte) (s : State), Takes s tag → Inv s →
    let st := s.run.st
    (st = .starting ∨ st = .running ∨ st = .resuming → exec (.park tag) s =
      .next ((s.entered { s.run with
        st := .parked, belt := false, rule := some .host, settle := none, stall := none, idle := none
        park := parkTimer s.params } .park).replied 5 tag .done [4#8])) ∧
    (st = .parked → s.run.wake = none →
      exec (.park tag) s = .next (State.replied { s with run := { s.run with rule := some .host } } 5 tag .done [4#8]) ∧
      (s.run.asleep = false →
        let t := s.entered { s.run with
          st := .starting, belt := true, rule := none, settle := some (s.pos.odo + s.params.settleDist)
          stall := some s.params.stallTime, idle := none, park := none } .resume
        exec (.resume tag) s =
          .next ((takeReached t).replied 6 tag .done [BitVec.ofNat 8 (takeReached t).run.st.code]) ∧
        nextDue t = (if s.params.settleDist = 0 then some .settlePoint else none) ∧
        (0 < s.params.settleDist → exec (.resume tag) s = .next (t.replied 6 tag .done [2#8]))) ∧
      (∀ c, darkFails s = some c → exec (.dark tag) s = .next (s.replied 7 tag .state [BitVec.ofNat 8 c.code])) ∧
      (darkFails s = none → exec (.dark tag) s =
        .next (((placeControl ⟨63, .sleep⟩ s).entered { s.run with
          st := .dark, belt := false, rule := some .host, asleep := true, settle := none, stall := none, idle := none
          park := none } .dark).replied 7 tag .done [5#8]))) ∧
    (st = .dark → s.run.wake = none →
      exec (.dark tag) s = .next (State.replied { s with run := { s.run with rule := some .host } } 7 tag .done [5#8])) ∧
    (st = .dark ∨ (st = .parked ∧ s.run.asleep = true) → s.run.wake = none →
      ∃ t, exec (.resume tag) s = .next t ∧
        t.run = { s.run with
          asleep := false, stage := .pending, endPoint := none, wake := some s.params.wakeTime, wakeCause := some .resume } ∧
        t.rng.replies = s.rng.replies ++ [⟨6, tag, .done, [BitVec.ofNat 8 st.code], false⟩] ∧
        ((∀ g d, gateRec s g = some d → d.sec ≠ 63) → ⟨63, .wake⟩ ∈ t.rng.control) ∧
        (∀ i e, i < 28 → eyeOf s i = some e → eyeOf t i = some (if (stationAt s i).kind = .reader then Eye.initial
          else { e with prevTrail := none, prevRec := none })) ∧
        (∀ n d, n < 17 → gateRec s n = some d →
          let full := decide ((laneOf s n).cfg.cap ≤ (laneOf s n).occ)
          laneOf t n = { laneOf s n with lampOn := full } ∧
          (d.sec ≠ 63 → (∀ m x, gateRec s m = some x → m ≠ n → x.sec ≠ d.sec) →
            ⟨d.sec, if full then .lampOn else .lampOff⟩ ∈ t.rng.control)) ∧
        t.trk = s.trk ∧ t.ord = s.ord ∧ t.fpl = s.fpl ∧ t.gtc = s.gtc ∧ t.ind = s.ind ∧ t.mrg = s.mrg ∧ t.ntq = s.ntq) ∧
    (s.run.wake.isSome →
      exec (.park tag) s = .next (s.replied 5 tag .state []) ∧ exec (.dark tag) s = .next (s.replied 7 tag .state []) ∧
      exec (.resume tag) s = .next (s.replied 6 tag .done [BitVec.ofNat 8 st.code])) ∧
    (st = .config ∨ st = .fault ∨ st = .dark → exec (.park tag) s = .next (s.replied 5 tag .state [])) ∧
    (st ≠ .parked → st ≠ .dark →
      exec (.resume tag) s = .next (s.replied 6 tag .state []) ∧ exec (.dark tag) s = .next (s.replied 7 tag .state [])) ∧
    (st = .fault → anyBlocked s = false → exec (.clearFault tag) s =
      .next ((State.entered { s with pos := { s.pos with tally := 0 } } { s.run with
        st := .parked, belt := false, rule := some .host, cause := .none, detail := 0
        further := ⟨false, false, false, false⟩, settle := none, stall := none, idle := none
        park := parkTimer s.params } .clearFault).replied 8 tag .done [4#8])) ∧
    (st ≠ .fault ∨ anyBlocked s = true → exec (.clearFault tag) s = .next (s.replied 8 tag .state []))

/-- TO CONFIG is refused with STATE outside PARKED or in a wake wait and with NOT_EMPTY while a tote record remains;
otherwise RUN is in CONFIG, without a wake wait, and IND, MRG and the eyes act on it; with stations asleep WAKE is broadcast
(R183, R185), and each mapped lane's lamp shows its FULL condition, which the model reads off R125 (log 33). A tracking
reset empties the list, the queues and the
verify lists, sends every gate that is not CLOSED to CLOSING, sets tally, debt and S to 0, returns the entries of ORDER
records to WAITING, discards awaiting passes and keeps open ones without their crowded marks and with a read that named a
record set to CLOSED (R64), and leads from FAULT to PARKED; a pending READY is examined again with the list empty and no
release outstanding, so that one held as a DUPLICATE is a candidate where its entry is WAITING or LOST (R139, R154); with a spur READY pending accrual starts afresh (R165), and in
CONFIG it does not, as the model reads R165 (log 25); it is refused with STATE in the other run states. RESET DEVICE
places its reply, which resets the part when it has left. Points that TO CONFIG or a tracking reset sets at the odometer
are then taken (R201; R40, R41, R83, R114, R135, R150, R154, R170, R185, R187, R188). -/
def Obligations.ToConfigAndResets : Prop :=
  ∀ (tag : Byte) (s : State), Takes s tag → Inv s →
    (s.run.st ≠ .parked ∨ s.run.wake.isSome → exec (.toConfig tag) s = .next (s.replied 9 tag .state [])) ∧
    (s.run.st = .parked → s.run.wake = none → (∃ r ∈ s.trk.list, r.role ≠ .hole) →
      exec (.toConfig tag) s = .next (s.replied 9 tag .notEmpty [])) ∧
    (s.run.st = .parked → s.run.wake = none → (∀ r ∈ s.trk.list, r.role = .hole) →
      ∃ t, exec (.toConfig tag) s = .next ((takeReached t).replied 9 tag .done [1#8]) ∧
        t.run.st = .config ∧ t.run.belt = false ∧ t.run.rule = none ∧ t.run.asleep = false ∧ t.run.stage = .none ∧
        t.run.endPoint = none ∧ t.run.park = none ∧ t.ind.outstanding = none ∧ t.ind.holeWait = none ∧
        t.ind.last = s.ind.last ∧ t.mrg.grant = none ∧ t.mrg.debt = 0 ∧ t.mrg.count = 0 ∧ t.mrg.interval = none ∧
        t.mrg.hole = .none ∧ t.mrg.arrival = none ∧ t.mrg.ready = s.mrg.ready ∧ t.pos = s.pos ∧ t.ord = s.ord ∧
        t.run.wake = none ∧
        (s.run.asleep = true → ((∀ g d, gateRec s g = some d → d.prim ≠ 63 ∧ d.sec ≠ 63) → ⟨63, .wake⟩ ∈ t.rng.control) ∧
          ∀ n d, n < 17 → gateRec s n = some d → laneOf t n = { laneOf s n with lampOn := laneFull s n }) ∧
        (s.run.asleep = false → t.lan = s.lan ∧ (⟨63, .wake⟩ ∈ t.rng.control → ⟨63, .wake⟩ ∈ s.rng.control)) ∧
        (s.mrg.hole = .travelling → t.trk.list = []) ∧
        (∀ m, s.pos.inForce = some m → ∀ i, i < 28 →
          eyeOf t i = if (vget m i Station.empty).hasEye then some Eye.initial else none)) ∧
    (s.run.wake.isSome ∨ (s.run.st ≠ .config ∧ s.run.st ≠ .parked ∧ s.run.st ≠ .fault) →
      exec (.resetTrack tag) s = .next (s.replied 10 tag .state [])) ∧
    (s.run.wake = none → s.run.st = .config ∨ s.run.st = .parked ∨ s.run.st = .fault →
      ∃ t, exec (.resetTrack tag) s = .next ((takeReached t).replied 10 tag .done [BitVec.ofNat 8 t.run.st.code]) ∧
        t.trk = { s.trk with list := [] } ∧ (∀ g, queueOf t g = []) ∧
        t.fpl.misses = s.fpl.misses ∧ t.lan = ⟨vmap (fun l => { l with verify := [] }) s.lan.lanes⟩ ∧
        t.pos = { s.pos with tally := 0 } ∧ t.reg = { s.reg with s := 0, g := min s.params.gmin s.params.gmax } ∧
        (∀ g y, g < 17 → gateOf s g = some y → y.st = .closed → gateOf t g = some y) ∧
        (∀ g y d, g < 17 → gateOf s g = some y → y.st ≠ .closed → gateRec s g = some d →
          gateOf t g = some { y with st := .closing, timer := some (2 * d.sc), recovery := false }) ∧
        (∀ r k e, r ∈ s.trk.list → r.role = .order → r.tote = some k → findEntry s k = some e →
          findEntry t k = some { e with st := .waiting }) ∧
        (∀ k, (∀ r ∈ s.trk.list, r.role = .order → r.tote ≠ some k) → findEntry t k = findEntry s k) ∧
        (∀ i e, i < 28 → eyeOf s i = some e →
          (e.pass = .noPass → eyeOf t i = some { e with prevTrail := none, prevRec := none }) ∧
          (e.pass = .awaiting → eyeOf t i = some { e with
            pass := .noPass, jam := none, blocked := false, tagLimit := none, crowded := none, prevTrail := none
            prevRec := none }) ∧
          (e.pass = .opened → ∃ res, eyeOf t i = some { e with
            crowded := none, res := res, prevTrail := none, prevRec := none } ∧
            (e.res = .unread → res = .unread) ∧ (e.res ≠ .unread → res = .closed))) ∧
        t.sgt.windows = s.sgt.windows ∧ t.sgt.passes = s.sgt.passes ∧ t.sgt.noreads = s.sgt.noreads ∧
        t.ind.outstanding = none ∧ t.ind.holeWait = none ∧ t.ind.last = s.ind.last ∧ t.ind.releasePoint = none ∧
        t.ind.reject = s.ind.reject ∧ ReadyExamined s t ∧
        t.mrg.grant = none ∧ t.mrg.debt = 0 ∧ t.mrg.count = 0 ∧ t.mrg.hole = .none ∧ t.mrg.arrival = none ∧
        t.mrg.ready = s.mrg.ready ∧
        (s.mrg.ready.isSome → s.run.st ≠ .config →
          t.mrg.interval = some ((s.pos.odo : Int) + s.params.mergeInterval) ∧ t.mrg.since = s.pos.odo) ∧
        (s.mrg.ready = none ∨ s.run.st = .config → t.mrg.interval = none) ∧
        t.run.stage = .none ∧ t.run.endPoint = none ∧
        t.run.st = (if s.run.st = .fault then .parked else s.run.st) ∧
        (s.run.st = .fault → t.run.rule = some .host ∧ t.run.cause = .none)) ∧
    exec (.resetDevice tag) s = .next { s with
      cmd := { s.cmd with resetWaiting := true }
      rng := { s.rng with replies := s.rng.replies ++ [⟨10, tag, .done, [], true⟩] } }

/-- ORDER PUT, ORDER CANCEL and ORDER QUERY: arguments out of range are refused with RANGE, a full table with FULL, an
unknown number with UNKNOWN; a record whose divert is under way is left alone with LATE; an entry that does not ride is
created, replaced or removed; a riding one is amended, with its record, or its record turns back to lane 0 (R68 to R71,
R73 to R75). An ORDER PUT that creates or replaces an entry has IND examine a pending READY of that number again: one held as
NO ORDER is then a candidate, and the release point is computed afresh; a READY of another number is left alone (R69, R139).
Points that a command sets at the odometer are then taken (R201). A VERIFYING record's stage is reported ahead
of its started fire (the model's choice, log 39). -/
def Obligations.OrderCommands : Prop :=
  ∀ (tag : Byte) (n : Nat) (s : State), Takes s tag → Inv s →
    let inRange := 1 ≤ n ∧ n ≤ 4094
    let late (r : Rec) := r.st = .verifying ∨ startedFire s r.id = true
    (∀ (ref : Ref) (lane priority lapLimit hold : Nat),
      let ok := inRange ∧ 1 ≤ lane ∧ lane ≤ 16 ∧ laneMapped s lane = true ∧ (priority = 1 ∨ priority = 2) ∧
        1 ≤ lapLimit ∧ lapLimit ≤ 15 ∧ hold ≤ 1
      let put := Instr.orderPut tag n ref lane priority lapLimit hold
      let new (st : EntryState) : Entry := ⟨n, ref, lane, decide (priority = 2), lapLimit, decide (hold = 1), st⟩
      let answered (t : State) (st : EntryState) (size : Byte) :=
        exec put s = .next ((takeReached t).replied 11 tag .done (bytesOf 2 n ++ [BitVec.ofNat 8 st.code, size])) ∧
        findEntry t n = some (new st) ∧ ∀ k, k ≠ n → findEntry t k = findEntry s k
      let examined (t : State) :=
        ((∀ p, s.ind.ready = some p → p.ready.tote ≠ some n) → t.ind = s.ind ∧ t.ntq = s.ntq) ∧
        (∀ p, s.ind.ready = some p → p.ready.tote = some n → Reexamined p s t ∧
          ∀ q, t.ind.ready = some q → q.standing = p.standing ∨ q.standing = .candidate → t.ntq = s.ntq) ∧
        t.ind = { s.ind with
          ready := t.ind.ready, releasePoint := t.ind.releasePoint, holePoint := t.ind.holePoint } ∧ t.rng = s.rng
      (¬ok → exec put s = .next (s.replied 11 tag .range [])) ∧
      (ok → findEntry s n = none → 512 ≤ s.ord.entries.length → exec put s = .next (s.replied 11 tag .full [])) ∧
      (ok → findEntry s n = none → s.ord.entries.length < 512 → ∃ t, answered t .waiting 0#8 ∧ examined t ∧
        t.trk = s.trk ∧ t.fpl = s.fpl ∧ t.gtc = s.gtc ∧ t.lan = s.lan ∧ t.run = s.run ∧ t.mrg = s.mrg ∧ t.sgt = s.sgt) ∧
      (∀ e, ok → findEntry s n = some e → e.st ≠ .riding → ∃ t, answered t e.st 0#8 ∧ examined t ∧
        t.trk = s.trk ∧ t.fpl = s.fpl ∧ t.gtc = s.gtc ∧ t.lan = s.lan ∧ t.run = s.run ∧ t.mrg = s.mrg ∧ t.sgt = s.sgt) ∧
      (∀ e r, ok → findEntry s n = some e → e.st = .riding → carrier s n = some r → late r →
        exec put s = .next (s.replied 11 tag .late (bytesOf 2 n ++ [2#8, 0#8]))) ∧
      (∀ e r, ok → findEntry s n = some e → e.st = .riding → carrier s n = some r → ¬late r → r.role = .order →
        (r.len ≤ (laneOf s lane).cfg.maxLen → ∃ t r', answered t .riding 0#8 ∧
          findRec t r.id = some r' ∧ r'.role = .order ∧ r'.ref = ref ∧ r'.laps = (if lane = e.lane then r.laps else 0) ∧
          r'.dest = (if r.doubtful then r.dest else some lane) ∧ r'.anchor = r.anchor ∧ t.lan = s.lan ∧ t.sgt = s.sgt ∧
          t.run = s.run ∧ t.ind = s.ind) ∧
        ((laneOf s lane).cfg.maxLen < r.len → ∃ t r', answered t .waiting 1#8 ∧
          findRec t r.id = some r' ∧ r'.role = .ret ∧ r'.reason = .size ∧ r'.dest = some 0 ∧ r'.laps = 0 ∧
          r'.anchor = r.anchor ∧ t.lan = s.lan ∧ t.sgt = s.sgt ∧ t.run = s.run ∧ t.ind = s.ind))) ∧
    (¬inRange → exec (.orderCancel tag n) s = .next (s.replied 12 tag .range []) ∧
      exec (.orderQuery tag n) s = .next (s.replied 13 tag .range [])) ∧
    (inRange → findEntry s n = none → exec (.orderCancel tag n) s = .next (s.replied 12 tag .unknown []) ∧
      exec (.orderQuery tag n) s = .next (s.replied 13 tag .unknown [])) ∧
    (∀ e, inRange → findEntry s n = some e →
      let data := bytesOf 2 n ++ [BitVec.ofNat 8 e.st.code]
      (e.st ≠ .riding → exec (.orderCancel tag n) s =
        .next (State.replied { s with ord := ⟨s.ord.entries.filter fun x => x.tote ≠ n⟩ } 12 tag .done data)) ∧
      (∀ r, e.st = .riding → carrier s n = some r → late r →
        exec (.orderCancel tag n) s = .next (s.replied 12 tag .late data)) ∧
      (∀ r, e.st = .riding → carrier s n = some r → ¬late r → r.role = .order →
        ∃ t r', exec (.orderCancel tag n) s = .next ((takeReached t).replied 12 tag .done data) ∧ findEntry t n = none ∧
          (∀ k, k ≠ n → findEntry t k = findEntry s k) ∧ findRec t r.id = some r' ∧ r'.role = .ret ∧
          r'.reason = .cancelled ∧ r'.dest = some 0 ∧ r'.laps = 0 ∧ r'.anchor = r.anchor ∧
          t.lan = s.lan ∧ t.sgt = s.sgt ∧
          t.run = s.run ∧ t.ind = s.ind) ∧
      exec (.orderQuery tag n) s = .next (s.replied 13 tag .done (bytesOf 2 n ++ bytesOf 4 e.ref.toNat ++
        [BitVec.ofNat 8 e.lane, if e.rush then 2#8 else 1#8, BitVec.ofNat 8 e.lapLimit, if e.hold then 1#8 else 0#8,
          BitVec.ofNat 8 e.st.code, BitVec.ofNat 8 (if e.st ≠ .riding then 0 else match carrier s n with
          | some r => if r.st = .verifying then 3 else if startedFire s r.id then 2 else 1
          | none => 1)])))

/-- LANE SET, LANE CLEAR, REGULATE and INDUCT SKIP: a lane above 16, and a mode or a value that does not go with it, are
refused with RANGE, and an INDUCT SKIP without a pending READY, with a release outstanding or in CONFIG with STATE.
Otherwise CLOSE sets the closed flag and leaves no PLANNED fire; OPEN clears it, the streak, and the faulted flag, but
for one of cause GATE whose gate stands in FAULT, which then begins its recovery, or still proves itself closed; the
recovering gate keeps its fault cause (the model's choice, log 38); CLEAR sets the occupancy to 0. Where OPEN clears the
lane's last flag, or CLEAR takes it out of FULL, the records that wait for the lane are planned from the front, one that
an earlier plan gave a fire passed over (log 12), and LAMP OFF goes to a mapped lane that left FULL (R99, R118, R122,
R125). REGULATE sets mode, S and G; INDUCT SKIP sends REJECT (R113, R119, R121, R123, R124, R149, R152, R153). Points
that a command sets at the odometer are then taken (R201). -/
def Obligations.LaneRegulateAndSkipCommands : Prop :=
  ∀ (tag : Byte) (s : State), Takes s tag → Inv s →
    (∀ n, 16 < n → exec (.laneSetOpen tag n) s = .next (s.replied 14 tag .range []) ∧
      exec (.laneSetClose tag n) s = .next (s.replied 14 tag .range []) ∧
      exec (.laneClear tag n) s = .next (s.replied 15 tag .range [])) ∧
    (∀ n, n ≤ 16 →
      let l := laneOf s n
      let answered (c : Instr) (op : Nat) (t : State) :=
        exec c s = .next ((takeReached t).replied op tag .done
          [BitVec.ofNat 8 n, BitVec.ofNat 8 (laneOf t n).computed.code]) ∧
        (∀ m, m ≠ n → laneOf t m = laneOf s m) ∧ t.ord = s.ord ∧ t.run = s.run ∧ t.ind = s.ind ∧ t.mrg = s.mrg ∧
        t.sgt = s.sgt ∧ t.trk.list.map (·.id) = s.trk.list.map (·.id)
      (∃ t, answered (.laneSetClose tag n) 14 t ∧
        laneOf t n = { l with closed := true, reported := (laneOf t n).computed } ∧
        (l.closed = false → ∀ f ∈ queueOf t n, f.st ≠ .planned)) ∧
      (∃ t, answered (.laneClear tag n) 15 t ∧
        laneOf t n = { l with occ := 0, reported := (laneOf t n).computed, lampOn := (laneOf t n).lampOn } ∧
        LampFollows n s t ∧ ∃ u, LaneChanged n { l with occ := 0 } s u ∧
          t = if l.cfg.cap ≤ l.occ ∧ 0 < l.cfg.cap then plannedInTurn n u else u) ∧
      (∃ t, answered (.laneSetOpen tag n) 14 t ∧
        (let kept := l.faulted = some .gate ∧ ∃ y, gateOf s n = some y ∧ (y.st = .fault ∨ y.recovery = true)
         let cleared : Lane → Lane := fun l => { l with closed := false, streak := 0 }
         let freed := (l.closed = true ∨ l.faulted.isSome) ∧ l.halted = false ∧ ¬kept
         let driven (v : State) := t = { v with gtc := t.gtc, rng := { v.rng with control := t.rng.control } } ∧
           ((∀ y, gateOf s n = some y → y.st ≠ .fault) → t = v)
         (kept → laneOf t n = { cleared l with reported := (laneOf t n).computed }) ∧
         (¬kept → laneOf t n = { cleared l with faulted := none, reported := (laneOf t n).computed }) ∧
         ∃ u, (kept → LaneChanged n (cleared l) s u) ∧ (¬kept → LaneChanged n { cleared l with faulted := none } s u) ∧
           (freed → driven (plannedInTurn n u)) ∧ (¬freed → driven u)) ∧
        (∀ y d, gateOf s n = some y → y.st = .fault → gateRec s n = some d →
          gateOf t n = some { y with st := .closing, timer := some (2 * d.sc), recovery := true } ∧
          ⟨d.prim, .gateClose⟩ ∈ t.rng.control))) ∧
    (∀ (mode value : Nat) (m : RegMode), m.code = mode → (if m = .manual then value ≤ 1023 else value = 0) →
      ∃ t : State,
        (let x := if m = .manual then value else s.reg.s
         let g := min (s.params.gmin + x / 4) s.params.gmax
         exec (.regulate tag mode value) s = .next ((takeReached t).replied 16 tag .done
           ([BitVec.ofNat 8 mode] ++ bytesOf 2 x ++ bytesOf 2 g)) ∧
         t.reg = { s.reg with mode := m, s := x, g := g }) ∧
        t.trk = s.trk ∧ t.ord = s.ord ∧ t.fpl = s.fpl ∧ t.gtc = s.gtc ∧ t.lan = s.lan ∧ t.run = s.run ∧ t.ntq = s.ntq) ∧
    (∀ mode value : Nat, (∀ m : RegMode, m.code = mode → ¬(if m = .manual then value ≤ 1023 else value = 0)) →
      exec (.regulate tag mode value) s = .next (s.replied 16 tag .range [])) ∧
    (∀ (p : Pending) (d : Station) (i : Nat), s.ind.ready = some p → s.run.st ≠ .config → s.ind.outstanding = none →
      firstOf s .induct = some (d, i) →
      ∃ t, exec (.inductSkip tag) s = .next ((takeReached t).replied 17 tag .done
          (bytesOf 2 (p.ready.tote.getD 0) ++ [BitVec.ofNat 8 p.ready.len])) ∧
        ⟨d.prim, .releaseReject⟩ ∈ t.rng.control ∧ t.ind.ready = none ∧
        t.ind.reject = true ∧ t.ind.releasePoint = none ∧ t.ind.last = s.ind.last ∧ t.ind.holeWait = s.ind.holeWait ∧
        t.trk = s.trk ∧ t.ord = s.ord ∧ t.fpl = s.fpl ∧ t.lan = s.lan ∧ t.mrg = s.mrg ∧ t.ntq = s.ntq) ∧
    (s.ind.ready = none ∨ s.run.st = .config ∨ s.ind.outstanding.isSome →
      exec (.inductSkip tag) s = .next (s.replied 17 tag .state []))

/-- The queries change nothing but the page record of the paged ones and, where asked to, the counters they have read.
QUERY STATUS gives the page after the last where the last paged query was QUERY STATUS, else page 0, with the data of
R209; QUERY LANE does so for its lane with two pages, with the data of R210 (the last lamp command has the codes of a LAMP
frame: PRESUMED, log 36; the interval count of page 2 is the held register: DEDUCED, log 16); QUERY TOTE gives the record
that carries the number; QUERY COUNTERS gives the counters of a group and index, and with clear code 1 sets these counters
to 0 and nothing else (R208 to R211). -/
def Obligations.QueryCommands : Prop :=
  ∀ (tag : Byte) (s : State), Takes s tag →
    let code (n : Nat) : Byte := BitVec.ofNat 8 n
    let flag (b : Bool) : Byte := if b then 1#8 else 0#8
    (let page := match s.cmd.page with
      | some x => if x.lane = none then (x.page + 1) % 4 else 0
      | none => 0
     exec (.queryStatus tag) s = .next (State.replied { s with cmd := { s.cmd with page := some ⟨none, page⟩ } } 19 tag .done
      (if page = 0 then
        [0#8, code s.run.st.code, code (match s.run.rule with | none => 0 | some .auto => 1 | some .host => 2),
          code s.run.cause.code, code s.run.detail,
          code ((if s.run.further.stall then 1 else 0) + (if s.run.further.reverse then 2 else 0) +
            (if s.run.further.jam then 4 else 0) + (if s.run.further.gate then 8 else 0)),
          flag s.run.asleep, code s.run.stage.code] ++ bytesOf 5 (s.run.endPoint.getD 0).toNat ++
        [flag s.cmd.hostless, code s.pos.tally] ++ bytesOf 5 s.pos.odo
       else if page = 1 then
        [1#8] ++ bytesOf 2 s.pos.v ++ bytesOf 2 s.pos.vref ++
        [code (s.trk.list.countP fun r => r.role ≠ .hole), flag (s.trk.list.any fun r => r.role = .hole)] ++
        bytesOf 2 (s.ord.entries.countP fun e => e.st = .waiting) ++
        bytesOf 2 (s.ord.entries.countP fun e => e.st = .riding) ++
        bytesOf 2 (s.ord.entries.countP fun e => e.st = .lost) ++ bytesOf 2 s.reg.s ++ [code s.reg.mode.code] ++
        bytesOf 2 s.reg.g ++ [code s.reg.lastN, BitVec.ofInt 8 s.reg.lastE]
       else if page = 2 then
        [2#8, code (match s.ind.ready.map (·.standing) with
          | none => 0 | some Standing.candidate => 1 | some Standing.heldNoread => 2
          | some Standing.heldNoOrder => 3 | some Standing.heldDuplicate => 4)] ++
        bytesOf 2 ((s.ind.ready.bind (·.ready.tote)).getD 0) ++ bytesOf 2 ((s.ind.outstanding.map (·.tote)).getD 0) ++
        bytesOf 2 (match s.ind.releasePoint with | some p => min (p - s.pos.odo).toNat 65534 | none => 65535) ++
        [code (s.ind.holeWait.getD 0),
          code (match s.mrg.ready with | none => 0 | some r => if r.tote = none then 1 else 2)] ++
        bytesOf 2 ((s.mrg.ready.bind (·.tote)).getD 0) ++
        [code (match s.mrg.grant with | none => 0 | some y => if y.forced then 2 else 1)] ++
        bytesOf 2 ((s.mrg.grant.bind (·.ready.tote)).getD 0) ++ [BitVec.ofInt 8 s.mrg.debt] ++ bytesOf 2 s.mrg.count ++
        [code s.mrg.hole.code]
       else
        [3#8, code s.rng.forward.length, code s.rng.control.length, code (s.rng.replies.length + 1),
          code s.ntq.queue.length, code s.ntq.overflow, s.ntq.mask, code (readers s).length, code (healthByte s)]))) ∧
    (∀ ks : List Nat, ks.Nodup → (∀ i, i ∈ ks ↔ ∃ x, (x, i) ∈ readers s) →
      ks.Pairwise (fun a b => (stationAt s a).pos < (stationAt s b).pos) →
      healthByte s = (ks.zipIdx.map fun x => match vget s.sgt.windows x.1 none with
        | some w => if w.degraded then 2 ^ x.2 else 0
        | none => 0).sum) ∧
    (∀ n, 16 < n → exec (.queryLane tag n) s = .next (s.replied 20 tag .range [])) ∧
    (∀ n, n ≤ 16 →
      let page := match s.cmd.page with
        | some x => if x.lane = some n then (x.page + 1) % 2 else 0
        | none => 0
      exec (.queryLane tag n) s = .next (State.replied { s with cmd := { s.cmd with page := some ⟨some n, page⟩ } } 20 tag
        .done (let l := laneOf s n
          if page = 0 then
            [0#8, code n, code l.reported.code,
              code ((if l.closed then 1 else 0) + (if l.halted then 2 else 0) + (if l.faulted.isSome then 4 else 0)),
              code (match l.faulted with | none => 0 | some .gate => 1 | some .divert => 2), code l.occ,
              code (l.occ + (((queueOf s n).filter fun x => x.st ≠ .closing).map (·.members.length)).sum + l.verify.length),
              code l.streak, if l.lampOn then 1#8 else 2#8, code l.verify.length] ++
            bytesOf 5 ((l.verify.head?.map fun (e : VerifyEntry) => e.deadline).getD 0).toNat ++
            [code l.cfg.cap, code l.cfg.reserve, code l.cfg.maxLen, code l.cfg.ev, if l.cfg.initOpen then 1#8 else 2#8]
          else
            [1#8, code n] ++
            (match gateOf s n with
              | some y => [code y.st.code, code y.cause.code] ++ bytesOf 2 (vget s.gtc.spurious n 0) ++
                  [code (queueOf s n).length, code (((queueOf s n).head?.map (·.st.code)).getD 0)]
              | none => [0#8, 0#8, 0#8, 0#8, 0#8, 0#8]) ++
            bytesOf 2 l.deliveries ++ bytesOf 2 (vget s.fpl.misses n 0) ++ bytesOf 2 l.failed ++ bytesOf 2 l.stray ++
            bytesOf 2 l.underflows))) ∧
    (∀ n, n < 1 ∨ 4094 < n → exec (.queryTote tag n) s = .next (s.replied 21 tag .range [])) ∧
    (∀ n, 1 ≤ n → n ≤ 4094 → carrier s n = none → exec (.queryTote tag n) s = .next (s.replied 21 tag .unknown [])) ∧
    (∀ n r, 1 ≤ n → n ≤ 4094 → carrier s n = some r → exec (.queryTote tag n) s =
      .next (s.replied 21 tag .done (bytesOf 2 n ++ [BitVec.ofNat 8 r.role.code, BitVec.ofNat 8 r.reason.code] ++
        bytesOf 4 r.ref.toNat ++ bytesOf 2 (((s.pos.odo : Int) - r.anchor) % s.params.loopLen).toNat ++
        [BitVec.ofNat 8 r.len, BitVec.ofNat 8 (r.dest.getD 0), BitVec.ofNat 8 r.laps, BitVec.ofNat 8 r.st.code,
          BitVec.ofNat 8 (countsOf r)] ++ pointBytes r.deadline ++ [BitVec.ofNat 8 r.refusal.code]))) ∧
    (∀ group index clear, 1 < clear ∨ group < 1 ∨ 4 < group ∨ (group = 1 ∧ index ≠ 0) ∨ (group = 2 ∧ 16 < index) ∨
        (group = 3 ∧ (stationAt s index).kind ≠ .reader) ∨ (group = 4 ∧ gateRec s index = none) →
      exec (.queryCounters tag group index clear) s = .next (s.replied 22 tag .range [])) ∧
    (let data (group index : Nat) (l : List Nat) := [code group, code index] ++ l.flatMap (bytesOf 2)
     let answers (group index : Nat) (l : List Nat) (t : State) :=
       exec (.queryCounters tag group index 0) s = .next (s.replied 22 tag .done (data group index l)) ∧
       exec (.queryCounters tag group index 1) s = .next (t.replied 22 tag .done (data group index l))
     answers 1 0 [s.trk.lost, s.trk.jumps, s.sgt.strays, s.sgt.phantoms, s.rng.crcDrops, s.rng.hopDrops, s.rng.fwdDrops,
       s.rng.unmapped, s.rng.cmdDrops] { s with
         trk := { s.trk with lost := 0, jumps := 0 }, sgt := { s.sgt with strays := 0, phantoms := 0 }
         rng := { s.rng with crcDrops := 0, hopDrops := 0, fwdDrops := 0, unmapped := 0, cmdDrops := 0 } } ∧
     (∀ n, n ≤ 16 → answers 2 n [(laneOf s n).deliveries, vget s.fpl.misses n 0, (laneOf s n).failed, (laneOf s n).stray,
       (laneOf s n).underflows] { s with
         lan := ⟨vset s.lan.lanes n { laneOf s n with deliveries := 0, failed := 0, stray := 0, underflows := 0 }⟩
         fpl := { s.fpl with misses := vset s.fpl.misses n 0 } }) ∧
     (∀ i, (stationAt s i).kind = .reader → answers 3 i [vget s.sgt.passes i 0, vget s.sgt.noreads i 0] { s with
         sgt := { s.sgt with passes := vset s.sgt.passes i 0, noreads := vset s.sgt.noreads i 0 } }) ∧
     (∀ g, (gateRec s g).isSome → answers 4 g [vget s.gtc.spurious g 0] { s with
         gtc := { s.gtc with spurious := vset s.gtc.spurious g 0 } }))
end

