-- ==== Sys2Proof/Laws/State.lean ====
section
/-! SUPPORT. One lemma per update of State: what every field holds afterwards. And the tables of fixed size. -/

namespace Sys2Proof.Machine

@[simp] theorem State.setHeld_fields (s : State) (x : Held) :
    (s.setHeld x).held = x ∧ (s.setHeld x).pos = s.pos ∧ (s.setHeld x).params = s.params ∧
    (s.setHeld x).sgt = s.sgt ∧ (s.setHeld x).trk = s.trk ∧ (s.setHeld x).ord = s.ord ∧
    (s.setHeld x).fpl = s.fpl ∧ (s.setHeld x).gtc = s.gtc ∧ (s.setHeld x).lan = s.lan ∧
    (s.setHeld x).ind = s.ind ∧ (s.setHeld x).reg = s.reg ∧ (s.setHeld x).mrg = s.mrg ∧
    (s.setHeld x).run = s.run ∧ (s.setHeld x).cmd = s.cmd ∧ (s.setHeld x).ntq = s.ntq ∧
    (s.setHeld x).rng = s.rng ∧ (s.setHeld x).free = s.free ∧ (s.setHeld x).pending = s.pending :=
  ⟨rfl, rfl, rfl, rfl, rfl, rfl, rfl, rfl, rfl, rfl, rfl, rfl, rfl, rfl, rfl, rfl, rfl, rfl⟩

@[simp] theorem State.setPos_fields (s : State) (x : Pos) :
    (s.setPos x).held = s.held ∧ (s.setPos x).pos = x ∧ (s.setPos x).params = s.params ∧
    (s.setPos x).sgt = s.sgt ∧ (s.setPos x).trk = s.trk ∧ (s.setPos x).ord = s.ord ∧ (s.setPos x).fpl = s.fpl ∧
    (s.setPos x).gtc = s.gtc ∧ (s.setPos x).lan = s.lan ∧ (s.setPos x).ind = s.ind ∧ (s.setPos x).reg = s.reg ∧
    (s.setPos x).mrg = s.mrg ∧ (s.setPos x).run = s.run ∧ (s.setPos x).cmd = s.cmd ∧ (s.setPos x).ntq = s.ntq ∧
    (s.setPos x).rng = s.rng ∧ (s.setPos x).free = s.free ∧ (s.setPos x).pending = s.pending :=
  ⟨rfl, rfl, rfl, rfl, rfl, rfl, rfl, rfl, rfl, rfl, rfl, rfl, rfl, rfl, rfl, rfl, rfl, rfl⟩

@[simp] theorem State.setParams_fields (s : State) (x : Params) :
    (s.setParams x).held = s.held ∧ (s.setParams x).pos = s.pos ∧ (s.setParams x).params = x ∧
    (s.setParams x).sgt = s.sgt ∧ (s.setParams x).trk = s.trk ∧ (s.setParams x).ord = s.ord ∧
    (s.setParams x).fpl = s.fpl ∧ (s.setParams x).gtc = s.gtc ∧ (s.setParams x).lan = s.lan ∧
    (s.setParams x).ind = s.ind ∧ (s.setParams x).reg = s.reg ∧ (s.setParams x).mrg = s.mrg ∧
    (s.setParams x).run = s.run ∧ (s.setParams x).cmd = s.cmd ∧ (s.setParams x).ntq = s.ntq ∧
    (s.setParams x).rng = s.rng ∧ (s.setParams x).free = s.free ∧ (s.setParams x).pending = s.pending :=
  ⟨rfl, rfl, rfl, rfl, rfl, rfl, rfl, rfl, rfl, rfl, rfl, rfl, rfl, rfl, rfl, rfl, rfl, rfl⟩

@[simp] theorem State.setSgt_fields (s : State) (x : Sgt) :
    (s.setSgt x).held = s.held ∧ (s.setSgt x).pos = s.pos ∧ (s.setSgt x).params = s.params ∧
    (s.setSgt x).sgt = x ∧ (s.setSgt x).trk = s.trk ∧ (s.setSgt x).ord = s.ord ∧ (s.setSgt x).fpl = s.fpl ∧
    (s.setSgt x).gtc = s.gtc ∧ (s.setSgt x).lan = s.lan ∧ (s.setSgt x).ind = s.ind ∧ (s.setSgt x).reg = s.reg ∧
    (s.setSgt x).mrg = s.mrg ∧ (s.setSgt x).run = s.run ∧ (s.setSgt x).cmd = s.cmd ∧ (s.setSgt x).ntq = s.ntq ∧
    (s.setSgt x).rng = s.rng ∧ (s.setSgt x).free = s.free ∧ (s.setSgt x).pending = s.pending :=
  ⟨rfl, rfl, rfl, rfl, rfl, rfl, rfl, rfl, rfl, rfl, rfl, rfl, rfl, rfl, rfl, rfl, rfl, rfl⟩

@[simp] theorem State.setTrk_fields (s : State) (x : Trk) :
    (s.setTrk x).held = s.held ∧ (s.setTrk x).pos = s.pos ∧ (s.setTrk x).params = s.params ∧
    (s.setTrk x).sgt = s.sgt ∧ (s.setTrk x).trk = x ∧ (s.setTrk x).ord = s.ord ∧ (s.setTrk x).fpl = s.fpl ∧
    (s.setTrk x).gtc = s.gtc ∧ (s.setTrk x).lan = s.lan ∧ (s.setTrk x).ind = s.ind ∧ (s.setTrk x).reg = s.reg ∧
    (s.setTrk x).mrg = s.mrg ∧ (s.setTrk x).run = s.run ∧ (s.setTrk x).cmd = s.cmd ∧ (s.setTrk x).ntq = s.ntq ∧
    (s.setTrk x).rng = s.rng ∧ (s.setTrk x).free = s.free ∧ (s.setTrk x).pending = s.pending :=
  ⟨rfl, rfl, rfl, rfl, rfl, rfl, rfl, rfl, rfl, rfl, rfl, rfl, rfl, rfl, rfl, rfl, rfl, rfl⟩

@[simp] theorem State.setOrd_fields (s : State) (x : OrdTable) :
    (s.setOrd x).held = s.held ∧ (s.setOrd x).pos = s.pos ∧ (s.setOrd x).params = s.params ∧
    (s.setOrd x).sgt = s.sgt ∧ (s.setOrd x).trk = s.trk ∧ (s.setOrd x).ord = x ∧ (s.setOrd x).fpl = s.fpl ∧
    (s.setOrd x).gtc = s.gtc ∧ (s.setOrd x).lan = s.lan ∧ (s.setOrd x).ind = s.ind ∧ (s.setOrd x).reg = s.reg ∧
    (s.setOrd x).mrg = s.mrg ∧ (s.setOrd x).run = s.run ∧ (s.setOrd x).cmd = s.cmd ∧ (s.setOrd x).ntq = s.ntq ∧
    (s.setOrd x).rng = s.rng ∧ (s.setOrd x).free = s.free ∧ (s.setOrd x).pending = s.pending :=
  ⟨rfl, rfl, rfl, rfl, rfl, rfl, rfl, rfl, rfl, rfl, rfl, rfl, rfl, rfl, rfl, rfl, rfl, rfl⟩

@[simp] theorem State.setFpl_fields (s : State) (x : Fpl) :
    (s.setFpl x).held = s.held ∧ (s.setFpl x).pos = s.pos ∧ (s.setFpl x).params = s.params ∧
    (s.setFpl x).sgt = s.sgt ∧ (s.setFpl x).trk = s.trk ∧ (s.setFpl x).ord = s.ord ∧ (s.setFpl x).fpl = x ∧
    (s.setFpl x).gtc = s.gtc ∧ (s.setFpl x).lan = s.lan ∧ (s.setFpl x).ind = s.ind ∧ (s.setFpl x).reg = s.reg ∧
    (s.setFpl x).mrg = s.mrg ∧ (s.setFpl x).run = s.run ∧ (s.setFpl x).cmd = s.cmd ∧ (s.setFpl x).ntq = s.ntq ∧
    (s.setFpl x).rng = s.rng ∧ (s.setFpl x).free = s.free ∧ (s.setFpl x).pending = s.pending :=
  ⟨rfl, rfl, rfl, rfl, rfl, rfl, rfl, rfl, rfl, rfl, rfl, rfl, rfl, rfl, rfl, rfl, rfl, rfl⟩

@[simp] theorem State.setGtc_fields (s : State) (x : Gtc) :
    (s.setGtc x).held = s.held ∧ (s.setGtc x).pos = s.pos ∧ (s.setGtc x).params = s.params ∧
    (s.setGtc x).sgt = s.sgt ∧ (s.setGtc x).trk = s.trk ∧ (s.setGtc x).ord = s.ord ∧ (s.setGtc x).fpl = s.fpl ∧
    (s.setGtc x).gtc = x ∧ (s.setGtc x).lan = s.lan ∧ (s.setGtc x).ind = s.ind ∧ (s.setGtc x).reg = s.reg ∧
    (s.setGtc x).mrg = s.mrg ∧ (s.setGtc x).run = s.run ∧ (s.setGtc x).cmd = s.cmd ∧ (s.setGtc x).ntq = s.ntq ∧
    (s.setGtc x).rng = s.rng ∧ (s.setGtc x).free = s.free ∧ (s.setGtc x).pending = s.pending :=
  ⟨rfl, rfl, rfl, rfl, rfl, rfl, rfl, rfl, rfl, rfl, rfl, rfl, rfl, rfl, rfl, rfl, rfl, rfl⟩

@[simp] theorem State.setLan_fields (s : State) (x : Lan) :
    (s.setLan x).held = s.held ∧ (s.setLan x).pos = s.pos ∧ (s.setLan x).params = s.params ∧
    (s.setLan x).sgt = s.sgt ∧ (s.setLan x).trk = s.trk ∧ (s.setLan x).ord = s.ord ∧ (s.setLan x).fpl = s.fpl ∧
    (s.setLan x).gtc = s.gtc ∧ (s.setLan x).lan = x ∧ (s.setLan x).ind = s.ind ∧ (s.setLan x).reg = s.reg ∧
    (s.setLan x).mrg = s.mrg ∧ (s.setLan x).run = s.run ∧ (s.setLan x).cmd = s.cmd ∧ (s.setLan x).ntq = s.ntq ∧
    (s.setLan x).rng = s.rng ∧ (s.setLan x).free = s.free ∧ (s.setLan x).pending = s.pending :=
  ⟨rfl, rfl, rfl, rfl, rfl, rfl, rfl, rfl, rfl, rfl, rfl, rfl, rfl, rfl, rfl, rfl, rfl, rfl⟩

@[simp] theorem State.setInd_fields (s : State) (x : Ind) :
    (s.setInd x).held = s.held ∧ (s.setInd x).pos = s.pos ∧ (s.setInd x).params = s.params ∧
    (s.setInd x).sgt = s.sgt ∧ (s.setInd x).trk = s.trk ∧ (s.setInd x).ord = s.ord ∧ (s.setInd x).fpl = s.fpl ∧
    (s.setInd x).gtc = s.gtc ∧ (s.setInd x).lan = s.lan ∧ (s.setInd x).ind = x ∧ (s.setInd x).reg = s.reg ∧
    (s.setInd x).mrg = s.mrg ∧ (s.setInd x).run = s.run ∧ (s.setInd x).cmd = s.cmd ∧ (s.setInd x).ntq = s.ntq ∧
    (s.setInd x).rng = s.rng ∧ (s.setInd x).free = s.free ∧ (s.setInd x).pending = s.pending :=
  ⟨rfl, rfl, rfl, rfl, rfl, rfl, rfl, rfl, rfl, rfl, rfl, rfl, rfl, rfl, rfl, rfl, rfl, rfl⟩

@[simp] theorem State.setReg_fields (s : State) (x : Reg) :
    (s.setReg x).held = s.held ∧ (s.setReg x).pos = s.pos ∧ (s.setReg x).params = s.params ∧
    (s.setReg x).sgt = s.sgt ∧ (s.setReg x).trk = s.trk ∧ (s.setReg x).ord = s.ord ∧ (s.setReg x).fpl = s.fpl ∧
    (s.setReg x).gtc = s.gtc ∧ (s.setReg x).lan = s.lan ∧ (s.setReg x).ind = s.ind ∧ (s.setReg x).reg = x ∧
    (s.setReg x).mrg = s.mrg ∧ (s.setReg x).run = s.run ∧ (s.setReg x).cmd = s.cmd ∧ (s.setReg x).ntq = s.ntq ∧
    (s.setReg x).rng = s.rng ∧ (s.setReg x).free = s.free ∧ (s.setReg x).pending = s.pending :=
  ⟨rfl, rfl, rfl, rfl, rfl, rfl, rfl, rfl, rfl, rfl, rfl, rfl, rfl, rfl, rfl, rfl, rfl, rfl⟩

@[simp] theorem State.setMrg_fields (s : State) (x : Mrg) :
    (s.setMrg x).held = s.held ∧ (s.setMrg x).pos = s.pos ∧ (s.setMrg x).params = s.params ∧
    (s.setMrg x).sgt = s.sgt ∧ (s.setMrg x).trk = s.trk ∧ (s.setMrg x).ord = s.ord ∧ (s.setMrg x).fpl = s.fpl ∧
    (s.setMrg x).gtc = s.gtc ∧ (s.setMrg x).lan = s.lan ∧ (s.setMrg x).ind = s.ind ∧ (s.setMrg x).reg = s.reg ∧
    (s.setMrg x).mrg = x ∧ (s.setMrg x).run = s.run ∧ (s.setMrg x).cmd = s.cmd ∧ (s.setMrg x).ntq = s.ntq ∧
    (s.setMrg x).rng = s.rng ∧ (s.setMrg x).free = s.free ∧ (s.setMrg x).pending = s.pending :=
  ⟨rfl, rfl, rfl, rfl, rfl, rfl, rfl, rfl, rfl, rfl, rfl, rfl, rfl, rfl, rfl, rfl, rfl, rfl⟩

@[simp] theorem State.setRun_fields (s : State) (x : Run) :
    (s.setRun x).held = s.held ∧ (s.setRun x).pos = s.pos ∧ (s.setRun x).params = s.params ∧
    (s.setRun x).sgt = s.sgt ∧ (s.setRun x).trk = s.trk ∧ (s.setRun x).ord = s.ord ∧ (s.setRun x).fpl = s.fpl ∧
    (s.setRun x).gtc = s.gtc ∧ (s.setRun x).lan = s.lan ∧ (s.setRun x).ind = s.ind ∧ (s.setRun x).reg = s.reg ∧
    (s.setRun x).mrg = s.mrg ∧ (s.setRun x).run = x ∧ (s.setRun x).cmd = s.cmd ∧ (s.setRun x).ntq = s.ntq ∧
    (s.setRun x).rng = s.rng ∧ (s.setRun x).free = s.free ∧ (s.setRun x).pending = s.pending :=
  ⟨rfl, rfl, rfl, rfl, rfl, rfl, rfl, rfl, rfl, rfl, rfl, rfl, rfl, rfl, rfl, rfl, rfl, rfl⟩

@[simp] theorem State.setCmd_fields (s : State) (x : Cmd) :
    (s.setCmd x).held = s.held ∧ (s.setCmd x).pos = s.pos ∧ (s.setCmd x).params = s.params ∧
    (s.setCmd x).sgt = s.sgt ∧ (s.setCmd x).trk = s.trk ∧ (s.setCmd x).ord = s.ord ∧ (s.setCmd x).fpl = s.fpl ∧
    (s.setCmd x).gtc = s.gtc ∧ (s.setCmd x).lan = s.lan ∧ (s.setCmd x).ind = s.ind ∧ (s.setCmd x).reg = s.reg ∧
    (s.setCmd x).mrg = s.mrg ∧ (s.setCmd x).run = s.run ∧ (s.setCmd x).cmd = x ∧ (s.setCmd x).ntq = s.ntq ∧
    (s.setCmd x).rng = s.rng ∧ (s.setCmd x).free = s.free ∧ (s.setCmd x).pending = s.pending :=
  ⟨rfl, rfl, rfl, rfl, rfl, rfl, rfl, rfl, rfl, rfl, rfl, rfl, rfl, rfl, rfl, rfl, rfl, rfl⟩

@[simp] theorem State.setNtq_fields (s : State) (x : Ntq) :
    (s.setNtq x).held = s.held ∧ (s.setNtq x).pos = s.pos ∧ (s.setNtq x).params = s.params ∧
    (s.setNtq x).sgt = s.sgt ∧ (s.setNtq x).trk = s.trk ∧ (s.setNtq x).ord = s.ord ∧ (s.setNtq x).fpl = s.fpl ∧
    (s.setNtq x).gtc = s.gtc ∧ (s.setNtq x).lan = s.lan ∧ (s.setNtq x).ind = s.ind ∧ (s.setNtq x).reg = s.reg ∧
    (s.setNtq x).mrg = s.mrg ∧ (s.setNtq x).run = s.run ∧ (s.setNtq x).cmd = s.cmd ∧ (s.setNtq x).ntq = x ∧
    (s.setNtq x).rng = s.rng ∧ (s.setNtq x).free = s.free ∧ (s.setNtq x).pending = s.pending :=
  ⟨rfl, rfl, rfl, rfl, rfl, rfl, rfl, rfl, rfl, rfl, rfl, rfl, rfl, rfl, rfl, rfl, rfl, rfl⟩

@[simp] theorem State.setRng_fields (s : State) (x : Rng) :
    (s.setRng x).held = s.held ∧ (s.setRng x).pos = s.pos ∧ (s.setRng x).params = s.params ∧
    (s.setRng x).sgt = s.sgt ∧ (s.setRng x).trk = s.trk ∧ (s.setRng x).ord = s.ord ∧ (s.setRng x).fpl = s.fpl ∧
    (s.setRng x).gtc = s.gtc ∧ (s.setRng x).lan = s.lan ∧ (s.setRng x).ind = s.ind ∧ (s.setRng x).reg = s.reg ∧
    (s.setRng x).mrg = s.mrg ∧ (s.setRng x).run = s.run ∧ (s.setRng x).cmd = s.cmd ∧ (s.setRng x).ntq = s.ntq ∧
    (s.setRng x).rng = x ∧ (s.setRng x).free = s.free ∧ (s.setRng x).pending = s.pending :=
  ⟨rfl, rfl, rfl, rfl, rfl, rfl, rfl, rfl, rfl, rfl, rfl, rfl, rfl, rfl, rfl, rfl, rfl, rfl⟩

@[simp] theorem State.setFree_fields (s : State) (x : Nat) :
    (s.setFree x).held = s.held ∧ (s.setFree x).pos = s.pos ∧ (s.setFree x).params = s.params ∧
    (s.setFree x).sgt = s.sgt ∧ (s.setFree x).trk = s.trk ∧ (s.setFree x).ord = s.ord ∧
    (s.setFree x).fpl = s.fpl ∧ (s.setFree x).gtc = s.gtc ∧ (s.setFree x).lan = s.lan ∧
    (s.setFree x).ind = s.ind ∧ (s.setFree x).reg = s.reg ∧ (s.setFree x).mrg = s.mrg ∧
    (s.setFree x).run = s.run ∧ (s.setFree x).cmd = s.cmd ∧ (s.setFree x).ntq = s.ntq ∧
    (s.setFree x).rng = s.rng ∧ (s.setFree x).free = x ∧ (s.setFree x).pending = s.pending :=
  ⟨rfl, rfl, rfl, rfl, rfl, rfl, rfl, rfl, rfl, rfl, rfl, rfl, rfl, rfl, rfl, rfl, rfl, rfl⟩

@[simp] theorem State.setPending_fields (s : State) (x : List Instr) :
    (s.setPending x).held = s.held ∧ (s.setPending x).pos = s.pos ∧ (s.setPending x).params = s.params ∧
    (s.setPending x).sgt = s.sgt ∧ (s.setPending x).trk = s.trk ∧ (s.setPending x).ord = s.ord ∧
    (s.setPending x).fpl = s.fpl ∧ (s.setPending x).gtc = s.gtc ∧ (s.setPending x).lan = s.lan ∧
    (s.setPending x).ind = s.ind ∧ (s.setPending x).reg = s.reg ∧ (s.setPending x).mrg = s.mrg ∧
    (s.setPending x).run = s.run ∧ (s.setPending x).cmd = s.cmd ∧ (s.setPending x).ntq = s.ntq ∧
    (s.setPending x).rng = s.rng ∧ (s.setPending x).free = s.free ∧ (s.setPending x).pending = x :=
  ⟨rfl, rfl, rfl, rfl, rfl, rfl, rfl, rfl, rfl, rfl, rfl, rfl, rfl, rfl, rfl, rfl, rfl, rfl⟩

/-! ## Tables -/

theorem vget_vset_same {α : Type} {n : Nat} (v : Vector α n) (i : Nat) (x d : α) (h : i < n) :
    vget (vset v i x) i d = x := by
  simp [vget, vset, h]

theorem vget_vset_ne {α : Type} {n : Nat} (v : Vector α n) (i j : Nat) (x d : α) (h : i ≠ j) :
    vget (vset v i x) j d = vget v j d := by
  simp only [vget, vset, Vector.toList_mk, List.getD_eq_getElem?_getD]
  rw [List.getElem?_set_ne h]

theorem vget_vset {α : Type} {n : Nat} (v : Vector α n) (i j : Nat) (x d : α) (h : i < n) :
    vget (vset v i x) j d = if i = j then x else vget v j d := by
  split
  next e => subst e; exact vget_vset_same v i x d h
  next e => exact vget_vset_ne v i j x d e

theorem vset_beyond {α : Type} {n : Nat} (v : Vector α n) (i : Nat) (x : α) (h : n ≤ i) : vset v i x = v := by
  apply Vector.toList_inj.mp
  simp only [vset, Vector.toList_mk]
  exact List.set_eq_of_length_le (by simpa using h)

end Sys2Proof.Machine
end

