-- ==== Sys2Proof/Laws/Frames.lean ====
section
/-! SUPPORT. What the shared operations leave alone: one lemma per operation. `core` is what no operation of the blocks
changes; `planCore` is what the planner does not change either (it works on the list, the queues, the gates and the
control queue). -/

namespace Sys2Proof.Machine

/-- The ring port less its control queue and its unmapped count. -/
def Rng.line (x : Rng) :=
  (x.bypass, x.forward, x.replies, x.turn, x.sending, x.crcDrops, x.hopDrops, x.fwdDrops, x.cmdDrops)

/-- What no shared operation of the blocks changes. -/
def State.core (s : State) :=
  (s.held, s.pos, s.params, s.reg, s.cmd, s.free, s.pending, s.rng.line)

/-- What the planner does not change. -/
def State.planCore (s : State) :=
  (s.core, s.sgt, s.ord, s.lan, s.ind, s.mrg, s.run, s.ntq)

theorem foldl_keeps {α β : Type} (π : State → β) (f : State → α → State) (h : ∀ t a, π (f t a) = π t) (l : List α)
    (s : State) : π (l.foldl f s) = π s := by
  induction l generalizing s with
  | nil => rfl
  | cons a l ih => simp [List.foldl_cons, ih, h]

/-! ## Updates -/

@[simp] theorem core_setTrk (s : State) (x : Trk) : (s.setTrk x).core = s.core := rfl
@[simp] theorem core_setSgt (s : State) (x : Sgt) : (s.setSgt x).core = s.core := rfl
@[simp] theorem core_setOrd (s : State) (x : OrdTable) : (s.setOrd x).core = s.core := rfl
@[simp] theorem core_setFpl (s : State) (x : Fpl) : (s.setFpl x).core = s.core := rfl
@[simp] theorem core_setGtc (s : State) (x : Gtc) : (s.setGtc x).core = s.core := rfl
@[simp] theorem core_setLan (s : State) (x : Lan) : (s.setLan x).core = s.core := rfl
@[simp] theorem core_setInd (s : State) (x : Ind) : (s.setInd x).core = s.core := rfl
@[simp] theorem core_setMrg (s : State) (x : Mrg) : (s.setMrg x).core = s.core := rfl
@[simp] theorem core_setRun (s : State) (x : Run) : (s.setRun x).core = s.core := rfl
@[simp] theorem core_setNtq (s : State) (x : Ntq) : (s.setNtq x).core = s.core := rfl

@[simp] theorem planCore_setTrk (s : State) (x : Trk) : (s.setTrk x).planCore = s.planCore := rfl
@[simp] theorem planCore_setFpl (s : State) (x : Fpl) : (s.setFpl x).planCore = s.planCore := rfl
@[simp] theorem planCore_setGtc (s : State) (x : Gtc) : (s.setGtc x).planCore = s.planCore := rfl

theorem core_of_planCore {s t : State} (h : t.planCore = s.planCore) : t.core = s.core :=
  congrArg Prod.fst h

/-! ## Operations of Ops -/

@[simp] theorem core_notify (n : Notice) (s : State) : (notify n s).core = s.core := by
  unfold notify; repeat' split
  all_goals rfl
@[simp] theorem planCore_placeControl (c : Ctl) (s : State) : (placeControl c s).planCore = s.planCore := by
  unfold placeControl; dsimp only; split <;> rfl
@[simp] theorem core_placeControl (c : Ctl) (s : State) : (placeControl c s).core = s.core :=
  core_of_planCore (planCore_placeControl c s)
@[simp] theorem core_placeForKind (k : StationKind) (c : CtlKind) (s : State) : (placeForKind k c s).core = s.core := by
  unfold placeForKind; split <;> simp
@[simp] theorem core_countUnmapped (s : State) : (countUnmapped s).core = s.core := rfl
@[simp] theorem planCore_modRec (id : Nat) (f : Rec → Rec) (s : State) : (modRec id f s).planCore = s.planCore := rfl
@[simp] theorem core_modRec (id : Nat) (f : Rec → Rec) (s : State) : (modRec id f s).core = s.core := rfl
@[simp] theorem core_reseat (id : Nat) (a : Int) (s : State) : (reseat id a s).core = s.core := by
  unfold reseat; split <;> rfl
@[simp] theorem core_putEntry (e : Entry) (s : State) : (putEntry e s).core = s.core := rfl
@[simp] theorem core_removeEntry (t : Nat) (s : State) : (removeEntry t s).core = s.core := rfl
@[simp] theorem core_setEntryState (t : Nat) (x : EntryState) (s : State) : (setEntryState t x s).core = s.core := rfl
@[simp] theorem core_settleEntry (r : Rec) (x : EntryFate) (s : State) : (settleEntry r x s).core = s.core := by
  unfold settleEntry; repeat' split
  all_goals rfl
@[simp] theorem planCore_setQueue (g : Nat) (q : List Fire) (s : State) : (setQueue g q s).planCore = s.planCore := rfl
@[simp] theorem core_setQueue (g : Nat) (q : List Fire) (s : State) : (setQueue g q s).core = s.core := rfl
@[simp] theorem planCore_setGate (g : Nat) (x : Gate) (s : State) : (setGate g x s).planCore = s.planCore := rfl
@[simp] theorem core_setGate (g : Nat) (x : Gate) (s : State) : (setGate g x s).core = s.core := rfl
@[simp] theorem core_modLane (n : Nat) (f : Lane → Lane) (s : State) : (modLane n f s).core = s.core := rfl
@[simp] theorem core_sendLamp (n : Nat) (b : Bool) (s : State) : (sendLamp n b s).core = s.core := by
  unfold sendLamp; split <;> simp
@[simp] theorem core_setEye (i : Nat) (e : Eye) (s : State) : (setEye i e s).core = s.core := rfl

/-! ## Gates and plans -/

@[simp] theorem planCore_driveGate (g : Nat) (b : Bool) (s : State) : (driveGate g b s).planCore = s.planCore := by
  unfold driveGate; split <;> simp
@[simp] theorem planCore_openForFire (g : Nat) (s : State) : (openForFire g s).planCore = s.planCore := by
  unfold openForFire; repeat' split
  all_goals simp
@[simp] theorem planCore_closeIfOpen (g : Nat) (s : State) : (closeIfOpen g s).planCore = s.planCore := by
  unfold closeIfOpen; repeat' split
  all_goals simp
@[simp] theorem planCore_decideGate (g : Nat) (s : State) : (decideGate g s).planCore = s.planCore := by
  unfold decideGate; split <;> simp
@[simp] theorem planCore_decideGates (gs : List Nat) (s : State) : (decideGates gs s).planCore = s.planCore :=
  foldl_keeps State.planCore _ (fun t g => planCore_decideGate g t) gs s
@[simp] theorem planCore_dropFires (g : Nat) (p : Fire → Bool) (s : State) :
    (dropFires g p s).planCore = s.planCore := rfl
@[simp] theorem planCore_leaveFire (g id : Nat) (s : State) : (leaveFire g id s).planCore = s.planCore := rfl
@[simp] theorem planCore_detach (id : Nat) (s : State) : (detach id s).st.planCore = s.planCore := by
  unfold detach; repeat' split
  all_goals simp
@[simp] theorem planCore_gather (ids : List Nat) (s : State) : (gather ids s).st.planCore = s.planCore := by
  unfold gather
  have h : ∀ (l : List Nat) (p : Planned),
      (l.foldl (fun p id => let q := detach id p.st; (⟨q.st, p.left ++ q.left, p.gates ++ q.gates⟩ : Planned)) p).st.planCore
        = p.st.planCore := by
    intro l
    induction l with
    | nil => intro p; rfl
    | cons a l ih => intro p; rw [List.foldl_cons, ih]; simp
  exact h ids _
@[simp] theorem planCore_moveClose (g : Nat) (x : Fire) (s : State) : (moveClose g x s).planCore = s.planCore := by
  unfold moveClose; dsimp only; split
  · rfl
  · split <;> simp
@[simp] theorem planCore_markPlan (s : State) (d : Station) (w : Refused) (ids : List Nat) :
    (markPlan s d w ids).planCore = s.planCore := rfl
@[simp] theorem planCore_planRecord (r : Rec) (g : Nat) (d : Station) (s : State) :
    (planRecord r g d s).st.planCore = s.planCore := by
  unfold planRecord; dsimp only; repeat' split
  all_goals simp
@[simp] theorem planCore_planOne_go (id : Nat) (s : State) (r : Rec) : (planOne.go id s r).st.planCore = s.planCore := by
  unfold planOne.go; dsimp only; repeat' split
  all_goals simp
@[simp] theorem planCore_planOne (id : Nat) (s : State) : (planOne id s).st.planCore = s.planCore := by
  unfold planOne; repeat' split
  all_goals simp
@[simp] theorem planCore_planWork (n : Nat) (ids gs : List Nat) (s : State) :
    (planWork n ids gs s).planCore = s.planCore := by
  induction n generalizing ids gs s with
  | zero => simp [planWork]
  | succ n ih =>
    cases ids with
    | nil => simp [planWork]
    | cons id ids => unfold planWork; dsimp only; split <;> simp [ih]
@[simp] theorem planCore_planReq (id : Nat) (s : State) : (planReq id s).planCore = s.planCore := by
  simp [planReq]
@[simp] theorem planCore_finishDetach (l : List Nat) (p : Planned) (s : State) :
    (finishDetach l p s).planCore = s.planCore := by
  simp [finishDetach]
@[simp] theorem planCore_shadowRecheck (id : Nat) (s : State) : (shadowRecheck id s).planCore = s.planCore := by
  unfold shadowRecheck; dsimp only; repeat' split
  · rfl
  · rfl
  · rw [planCore_planWork]; exact foldl_keeps State.planCore _ (fun t g => planCore_dropFires g _ t) _ s
@[simp] theorem planCore_withdrawLane (g : Nat) (s : State) : (withdrawLane g s).planCore = s.planCore := by
  unfold withdrawLane; dsimp only; split <;> simp
@[simp] theorem planCore_planLane (g : Nat) (s : State) : (planLane g s).planCore = s.planCore := by
  unfold planLane
  refine foldl_keeps State.planCore _ (fun t id => ?_) _ s
  split <;> simp

@[simp] theorem core_driveGate (g : Nat) (b : Bool) (s : State) : (driveGate g b s).core = s.core :=
  core_of_planCore (planCore_driveGate g b s)
@[simp] theorem core_openForFire (g : Nat) (s : State) : (openForFire g s).core = s.core :=
  core_of_planCore (planCore_openForFire g s)
@[simp] theorem core_closeIfOpen (g : Nat) (s : State) : (closeIfOpen g s).core = s.core :=
  core_of_planCore (planCore_closeIfOpen g s)
@[simp] theorem core_decideGates (gs : List Nat) (s : State) : (decideGates gs s).core = s.core :=
  core_of_planCore (planCore_decideGates gs s)
@[simp] theorem core_moveClose (g : Nat) (x : Fire) (s : State) : (moveClose g x s).core = s.core :=
  core_of_planCore (planCore_moveClose g x s)
@[simp] theorem core_planReq (id : Nat) (s : State) : (planReq id s).core = s.core :=
  core_of_planCore (planCore_planReq id s)
@[simp] theorem core_finishDetach (l : List Nat) (p : Planned) (s : State) : (finishDetach l p s).core = s.core :=
  core_of_planCore (planCore_finishDetach l p s)
@[simp] theorem core_shadowRecheck (id : Nat) (s : State) : (shadowRecheck id s).core = s.core :=
  core_of_planCore (planCore_shadowRecheck id s)
@[simp] theorem core_withdrawLane (g : Nat) (s : State) : (withdrawLane g s).core = s.core :=
  core_of_planCore (planCore_withdrawLane g s)
@[simp] theorem core_planLane (g : Nat) (s : State) : (planLane g s).core = s.core :=
  core_of_planCore (planCore_planLane g s)
@[simp] theorem core_detach (id : Nat) (s : State) : (detach id s).st.core = s.core :=
  core_of_planCore (planCore_detach id s)

/-! ## Slots and run control -/

@[simp] theorem core_indLook (s : State) : (indLook s).core = s.core := rfl
@[simp] theorem core_mrgLook (s : State) : (mrgLook s).core = s.core := rfl
@[simp] theorem core_notifySome (n : Option Notice) (s : State) : (notifySome n s).core = s.core := by
  unfold notifySome; split <;> simp
@[simp] theorem core_examineNew (r : Ready) (s : State) : (examineNew r s).core = s.core := by
  simp [examineNew]
@[simp] theorem core_reexamine (s : State) : (reexamine s).core = s.core := by
  unfold reexamine; dsimp only; repeat' split
  all_goals simp
/-- A point taken only when it is due keeps what its action keeps. -/
theorem whenDue_keeps {β : Type} (π : State → β) (p : Option Int) (act : State → State) (s : State)
    (h : ∀ t, π (act t) = π t) : π (whenDue p act s) = π s := by
  unfold whenDue; split
  · exact h s
  · rfl

@[simp] theorem core_forceMerge (s : State) : (forceMerge s).core = s.core := by
  unfold forceMerge; dsimp only; repeat' split
  all_goals simp
@[simp] theorem core_intervalDue (s : State) : (intervalDue s).core = s.core := by
  unfold intervalDue; split
  · exact whenDue_keeps State.core _ _ s fun t => by simp
  · rfl
/-- A repeated action keeps what it keeps once. -/
theorem repeat_keeps {β : Type} (π : State → β) {f : State → State} (h : ∀ t, π (f t) = π t) (n : Nat) (s : State) :
    π (Nat.repeat f n s) = π s := by
  induction n with
  | zero => rfl
  | succ n ih => exact (h _).trans ih
@[simp] theorem core_startAccrual (s : State) : (startAccrual s).core = s.core := by
  unfold startAccrual; split
  · rfl
  · exact (repeat_keeps State.core core_intervalDue _ _).trans (by simp)
@[simp] theorem core_pauseAccrual (s : State) : (pauseAccrual s).core = s.core := by
  unfold pauseAccrual; split <;> simp
@[simp] theorem core_lowerDebt (s : State) : (lowerDebt s).core = s.core := rfl
@[simp] theorem core_withdrawRequest (s : State) : (withdrawRequest s).core = s.core := by
  unfold withdrawRequest; split <;> simp
@[simp] theorem core_runIdle (s : State) : (runIdle s).core = s.core := by
  unfold runIdle; repeat' split
  all_goals rfl
@[simp] theorem core_listChange (s : State) : (listChange s).core = s.core := by simp [listChange]
@[simp] theorem core_enterState (n : RunState) (r : Option Rule) (c : StateCause) (s : State) :
    (enterState n r c s).core = s.core := by simp [enterState]
@[simp] theorem core_reportFault (c : FaultCause) (d : Nat) (s : State) : (reportFault c d s).core = s.core := by
  unfold reportFault; repeat' split
  all_goals simp
@[simp] theorem core_endLap (c : StateCause) (s : State) : (endLap c s).core = s.core := by
  unfold endLap; dsimp only; split <;> simp
@[simp] theorem core_lapCheck (s : State) : (lapCheck s).core = s.core := by
  unfold lapCheck; split <;> simp
@[simp] theorem core_wakeEyes (s : State) : (wakeEyes s).core = s.core := rfl
@[simp] theorem core_sendLamps (s : State) : (sendLamps s).core = s.core :=
  foldl_keeps State.core _ (fun t n => core_sendLamp n _ t) _ s
@[simp] theorem core_broadcastWake (s : State) : (broadcastWake s).core = s.core := by simp [broadcastWake]
@[simp] theorem core_beginWake (c : StateCause) (s : State) : (beginWake c s).core = s.core := by simp [beginWake]
@[simp] theorem core_resumeFrom (c : StateCause) (s : State) : (resumeFrom c s).core = s.core := by
  unfold resumeFrom; repeat' split
  all_goals simp
@[simp] theorem core_runReady (s : State) : (runReady s).core = s.core := by
  unfold runReady; split <;> simp
@[simp] theorem core_enterDark (r : Option Rule) (c : StateCause) (s : State) : (enterDark r c s).core = s.core := by
  simp [enterDark]

/-! ## The tracking list -/

@[simp] theorem core_loadDeadline (id p : Nat) (x : Int) (w : Nat) (s : State) :
    (loadDeadline id p x w s).core = s.core := by
  unfold loadDeadline; split <;> simp
@[simp] theorem core_matchDeadline (id p : Nat) (x : Int) (s : State) : (matchDeadline id p x s).core = s.core := by
  simp [matchDeadline]
@[simp] theorem core_moveRec (id : Nat) (d : Int) (s : State) : (moveRec id d s).core = s.core := by
  unfold moveRec; repeat' split
  all_goals simp
@[simp] theorem core_correct (id : Nat) (d : Int) (s : State) : (correct id d s).core = s.core := by
  unfold correct; split <;> simp
@[simp] theorem core_passOrigin (r : Rec) (s : State) : (passOrigin r s).core = s.core := by simp [passOrigin]
@[simp] theorem core_removeRec (id : Nat) (x : EntryFate) (s : State) : (removeRec id x s).core = s.core := by
  unfold removeRec; dsimp only; split <;> simp
@[simp] theorem core_roleToReturn (id : Nat) (r : Reason) (x : EntryFate) (s : State) :
    (roleToReturn id r x s).core = s.core := by
  unfold roleToReturn; dsimp only; repeat' split
  all_goals simp
@[simp] theorem core_loseRec (id : Nat) (c : LostCause) (s : State) : (loseRec id c s).core = s.core := by
  unfold loseRec; dsimp only; split <;> simp
@[simp] theorem core_markUnsure (s : State) : (markUnsure s).core = s.core := by
  unfold markUnsure
  exact foldl_keeps State.core _ (fun t x => by simp) _ s
@[simp] theorem core_linkNew (q : InsertReq) (r : Rec) (t : Nat) (s : State) : (linkNew q r t s).1.core = s.core := by
  unfold linkNew; dsimp only; repeat' split
  all_goals simp
@[simp] theorem core_settleNew (q : InsertReq) (r : Rec) (s : State) : (settleNew q r s).1.core = s.core := by
  unfold settleNew; repeat' split
  all_goals simp
@[simp] theorem core_insertRec (q : InsertReq) (s : State) : (insertRec q s).1.core = s.core := by
  unfold insertRec; dsimp only; repeat' split
  all_goals simp

/-! ## Lanes and sightings -/

@[simp] theorem core_laneUpdate (n : Nat) (f : Lane → Lane) (s : State) : (laneUpdate n f s).core = s.core := by
  unfold laneUpdate; dsimp only; repeat' split
  all_goals simp
@[simp] theorem core_raiseOccupancy (n : Nat) (s : State) : (raiseOccupancy n s).core = s.core := by
  simp [raiseOccupancy]
@[simp] theorem core_deliver (n id : Nat) (c l : Bool) (s : State) : (deliver n id c l s).core = s.core := by
  unfold deliver; split <;> simp
@[simp] theorem core_deliverUnconfirmed (n : Nat) (e : VerifyEntry) (s : State) :
    (deliverUnconfirmed n e s).core = s.core := by simp [deliverUnconfirmed]
@[simp] theorem core_takeEntry (n : Nat) (s : State) : (takeEntry n s).core = s.core := by
  unfold takeEntry; dsimp only; split <;> simp
@[simp] theorem core_enterVerify (n : Nat) (c : Int) (l : Bool) (s : State) (id : Nat) :
    (enterVerify n c l s id).core = s.core := by
  unfold enterVerify; dsimp only; repeat' split
  all_goals simp
@[simp] theorem core_applyLapLimit (id : Nat) (s : State) : (applyLapLimit id s).core = s.core := by
  unfold applyLapLimit; repeat' split
  all_goals simp
@[simp] theorem core_failedDivert (id : Nat) (s : State) : (failedDivert id s).core = s.core := by
  unfold failedDivert; dsimp only; repeat' split
  all_goals simp
@[simp] theorem core_handOver (id : Nat) (s : State) : (handOver id s).core = s.core := by
  unfold handOver; repeat' split
  all_goals simp
@[simp] theorem core_relocate (id : Nat) (x : Int) (p i : Nat) (s : State) : (relocate id x p i s).core = s.core := by
  unfold relocate; dsimp only; split <;> simp
@[simp] theorem core_gateFault (g : Nat) (c : GateCause) (s : State) : (gateFault g c s).core = s.core := by
  unfold gateFault; dsimp only; split <;> simp
@[simp] theorem core_clearFaulted (n : Nat) (s : State) : (clearFaulted n s).core = s.core := by simp [clearFaulted]
@[simp] theorem core_clearDoubt (id : Nat) (s : State) : (clearDoubt id s).core = s.core := by
  unfold clearDoubt; dsimp only; split <;> simp
@[simp] theorem core_sizeCheck (id : Nat) (s : State) : (sizeCheck id s).core = s.core := by
  unfold sizeCheck; dsimp only; repeat' split
  all_goals simp
@[simp] theorem core_setLength (id : Nat) (l : Option Nat) (s : State) : (setLength id l s).core = s.core := by
  unfold setLength; split <;> simp
@[simp] theorem core_matchRead (id : Nat) (d : Int) (x : Sighting) (s : State) : (matchRead id d x s).core = s.core := by
  simp [matchRead]
@[simp] theorem core_takeDoubt (id : Nat) (x : Sighting) (s : State) : (takeDoubt id x s).core = s.core := by
  unfold takeDoubt; dsimp only; repeat' split
  all_goals simp
@[simp] theorem core_matchNoread (id : Nat) (d : Int) (x : Sighting) (s : State) :
    (matchNoread id d x s).core = s.core := by simp [matchNoread]
@[simp] theorem core_countStray (s : State) : (countStray s).core = s.core := rfl
theorem core_sightInsert (x : Sighting) (r : Role) (w : Reason) (f : State → State) (s : State)
    (hf : ∀ t, (f t).core = t.core) : (sightInsert x r w f s).1.core = s.core := by
  have h := core_insertRec (sightingReq x r w) s
  unfold sightInsert
  split <;> simp_all
@[simp] theorem core_reportPhantom (x : Sighting) (s : State) : (reportPhantom x s).core = s.core := by
  simp [reportPhantom]
@[simp] theorem core_sightNew (x : Sighting) (s : State) : (sightNew x s).1.core = s.core := by
  unfold sightNew
  split
  · rfl
  · split
    · split
      · exact core_sightInsert _ _ _ _ _ fun _ => rfl
      · exact core_sightInsert _ _ _ _ _ fun _ => by simp
    · exact core_sightInsert _ _ _ _ _ fun _ => by simp
@[simp] theorem core_resolve (x : Sighting) (s : State) : (resolve x s).1.core = s.core := by
  unfold resolve; repeat' split
  all_goals simp
@[simp] theorem core_endWindow (i : Nat) (w : ReaderWindow) (s : State) : (endWindow i w s).core = s.core := by
  unfold endWindow; dsimp only; repeat' split
  all_goals simp
@[simp] theorem core_countSighting (x : Sighting) (s : State) : (countSighting x s).core = s.core := by
  unfold countSighting; dsimp only; repeat' split
  all_goals simp
@[simp] theorem core_crowdOne (id : Nat) (s : State) : (crowdOne id s).core = s.core := by
  unfold crowdOne; dsimp only; repeat' split
  all_goals simp
@[simp] theorem core_crowdPair (i g : Nat) (p c : Option Nat) (s : State) : (crowdPair i g p c s).core = s.core := by
  unfold crowdPair; dsimp only
  rw [core_notify]
  exact foldl_keeps State.core _ (fun t id => core_crowdOne id t) _ s
@[simp] theorem core_modEye (i : Nat) (f : Eye → Eye) (s : State) : (modEye i f s).core = s.core := by
  unfold modEye; split <;> simp
@[simp] theorem core_resolvePass (i : Nat) (e : Eye) (r l : Option Nat) (s : State) :
    (resolvePass i e r l s).1.core = s.core := by
  unfold resolvePass; dsimp only; split <;> simp
@[simp] theorem core_openPass (i x : Nat) (s : State) : (openPass i x s).core = s.core := by simp [openPass]
@[simp] theorem core_takeLead (i x : Nat) (s : State) : (takeLead i x s).core = s.core := by
  unfold takeLead; dsimp only; repeat' split
  all_goals simp
@[simp] theorem core_deliverLength (id l : Nat) (s : State) : (deliverLength id l s).core = s.core := by
  unfold deliverLength; repeat' split
  all_goals simp
@[simp] theorem core_takeTrail (i x : Nat) (s : State) : (takeTrail i x s).core = s.core := by
  unfold takeTrail; dsimp only; repeat' split
  all_goals simp
@[simp] theorem core_takeTag (i x : Nat) (r : Option Nat) (s : State) : (takeTag i x r s).core = s.core := by
  unfold takeTag; dsimp only; repeat' split
  all_goals simp
@[simp] theorem core_takeTagLimit (i : Nat) (s : State) : (takeTagLimit i s).core = s.core := by
  unfold takeTagLimit; split <;> simp

end Sys2Proof.Machine
end

