-- ==== Sys2Proof/Laws/Points.lean ====
section
/-! SUPPORT. What the belt points and the timers leave alone. -/

namespace Sys2Proof.Machine

/-- A point that is not due has no effect. -/
theorem whenDue_not_due (p : Option Int) (act : State → State) (s : State) (h : due p s = false) :
    whenDue p act s = s := by simp [whenDue, h]

/-- A point that is due has the effect of its action. -/
theorem whenDue_due (p : Option Int) (act : State → State) (s : State) (h : due p s = true) :
    whenDue p act s = act s := by simp [whenDue, h]

@[simp] theorem core_originPoint (id : Nat) (s : State) : (originPoint id s).core = s.core := by
  unfold originPoint; split
  · exact whenDue_keeps State.core _ _ s fun t => foldl_keeps State.core _ (fun u x => core_passOrigin x u) _ t
  · rfl
@[simp] theorem core_moveDeadlineOn (r : Rec) (s : State) : (moveDeadlineOn r s).core = s.core := by
  simp [moveDeadlineOn]
@[simp] theorem core_deadlinePoint (id : Nat) (s : State) : (deadlinePoint id s).core = s.core := by
  unfold deadlinePoint; split
  · exact whenDue_keeps State.core _ _ s fun t => by split <;> simp
  · rfl
@[simp] theorem core_passBy (r : Rec) (s : State) : (passBy r s).core = s.core := by
  unfold passBy; dsimp only; repeat' split
  all_goals simp
@[simp] theorem core_watchPoint (id : Nat) (s : State) : (watchPoint id s).core = s.core := by
  unfold watchPoint; split
  · exact whenDue_keeps State.core _ _ s fun t => by split <;> simp
  · rfl
@[simp] theorem core_jamDue (i : Nat) (s : State) : (jamDue i s).core = s.core := by
  unfold jamDue; split
  · exact whenDue_keeps State.core _ _ s fun t => by simp
  · rfl
@[simp] theorem core_tagLimitDue (i : Nat) (s : State) : (tagLimitDue i s).core = s.core := by
  unfold tagLimitDue; split
  · exact whenDue_keeps State.core _ _ s fun t => by simp
  · rfl
@[simp] theorem core_openStartPoint (g : Nat) (s : State) : (openStartPoint g s).core = s.core := by
  unfold openStartPoint; split <;> simp
@[simp] theorem core_checkFirePoint (g : Nat) (s : State) : (checkFirePoint g s).core = s.core := by
  unfold checkFirePoint; dsimp only; repeat' split
  all_goals simp
@[simp] theorem core_closeStartPoint (g : Nat) (s : State) : (closeStartPoint g s).core = s.core := by
  unfold closeStartPoint; dsimp only
  split
  · rfl
  · split
    · split <;> simp
    · rw [show ∀ b : Bool, ∀ t u : State, (if b = true then t else u).core = if b = true then t.core else u.core from
        fun b t u => by cases b <;> rfl]
      simp only [core_closeIfOpen, ite_self]
      exact (foldl_keeps State.core _ (fun t id => core_enterVerify _ _ _ t id) _ _).trans (core_setQueue _ _ _)
@[simp] theorem core_endFirePoint (g : Nat) (s : State) : (endFirePoint g s).core = s.core := rfl
@[simp] theorem core_verifyPoint (n : Nat) (s : State) : (verifyPoint n s).core = s.core := by
  unfold verifyPoint; split <;> simp
@[simp] theorem core_releaseDue (s : State) : (releaseDue s).core = s.core := by
  unfold releaseDue
  exact whenDue_keeps State.core _ _ s fun t => by dsimp only; repeat' split
                                                   all_goals simp
@[simp] theorem core_confirmDue (s : State) : (confirmDue s).core = s.core := by
  unfold confirmDue; split
  · exact whenDue_keeps State.core _ _ s fun t => by simp
  · rfl
@[simp] theorem core_holeDue (s : State) : (holeDue s).core = s.core := by
  unfold holeDue; split
  · exact whenDue_keeps State.core _ _ s fun t => by dsimp only; split <;> simp
  · rfl
@[simp] theorem core_mergeGo (b : Bool) (s : State) : (mergeGo b s).core = s.core := by
  unfold mergeGo; dsimp only; split <;> simp
@[simp] theorem core_mergeDue (s : State) : (mergeDue s).core = s.core := by
  unfold mergeDue
  exact whenDue_keeps State.core _ _ s fun t => by split <;> simp
@[simp] theorem core_mergeConfirmDue (s : State) : (mergeConfirmDue s).core = s.core := by
  unfold mergeConfirmDue; split
  · exact whenDue_keeps State.core _ _ s fun t => by simp
  · rfl
@[simp] theorem core_removeHole (s : State) : (removeHole s).core = s.core := by
  unfold removeHole; split <;> simp
@[simp] theorem core_arrivalDue (s : State) : (arrivalDue s).core = s.core := by
  unfold arrivalDue
  exact whenDue_keeps State.core _ _ s fun t => by dsimp only; split <;> simp
@[simp] theorem core_enterResuming (s : State) : (enterResuming s).core = s.core := by
  unfold enterResuming; dsimp only; split <;> simp
@[simp] theorem core_settleDue (s : State) : (settleDue s).core = s.core := by
  unfold settleDue
  exact whenDue_keeps State.core _ _ s fun t => by split <;> simp
@[simp] theorem core_resumeEndDue (s : State) : (resumeEndDue s).core = s.core := by
  unfold resumeEndDue
  refine whenDue_keeps State.core _ _ s fun t => ?_
  dsimp only
  rw [show ∀ (p : Prop) [Decidable p] (t u : State), (if p then t else u).core = if p then t.core else u.core from
    fun p _ t u => by split <;> rfl]
  simp only [core_enterState, ite_self]
  rw [foldl_keeps State.core _ (fun t id => core_loseRec id _ t)]
  rfl

/-- The sample point changes REG too; the queue of commands and the other fields of `core` stand. -/
@[simp] theorem core_setReg (s : State) (x : Reg) :
    (s.setReg x).core = (s.held, s.pos, s.params, x, s.cmd, s.free, s.pending, s.rng.line) := rfl
theorem recomputeGap_core (s : State) : (recomputeGap s).core =
    (s.held, s.pos, s.params, { s.reg with g := gapTarget s.params s.reg.s }, s.cmd, s.free, s.pending, s.rng.line) := by
  unfold recomputeGap; dsimp only; split <;> simp
@[simp] theorem pending_recomputeGap (s : State) : (recomputeGap s).pending = s.pending := by
  have h := recomputeGap_core s
  simp only [State.core, Prod.mk.injEq] at h
  exact h.2.2.2.2.2.2.1
@[simp] theorem pending_sampleDue (s : State) : (sampleDue s).pending = s.pending := by
  unfold sampleDue
  exact whenDue_keeps State.pending _ _ s fun t => by simp

/-- What keeps `core` keeps the queue of commands. -/
theorem pending_of_core {s t : State} (h : t.core = s.core) : t.pending = s.pending := by
  simp only [State.core, Prod.mk.injEq] at h
  exact h.2.2.2.2.2.2.1

/-- A point leaves the queue of commands alone. -/
@[simp] theorem pending_takePoint (p : Instr) (s : State) : (takePoint p s).pending = s.pending := by
  unfold takePoint
  split <;> first | rfl | exact pending_of_core (by simp) | simp

/-- What no belt point changes: `core` but for REG, which the sample point moves. -/
def State.shell (s : State) := (s.held, s.pos, s.params, s.cmd, s.free, s.pending, s.rng.line)

theorem shell_of_core {s t : State} (h : t.core = s.core) : t.shell = s.shell := by
  simp only [State.core, Prod.mk.injEq] at h
  simp [State.shell, h]
@[simp] theorem shell_sampleDue (s : State) : (sampleDue s).shell = s.shell := by
  unfold sampleDue
  refine whenDue_keeps State.shell _ _ s fun t => ?_
  have h := recomputeGap_core (t.setReg { t.reg with
    lastN := toteCount t, lastE := (toteCount t : Int) - (t.params.otarget : Int), next := t.reg.next + t.params.sampleDist
    s := if t.reg.mode = .closed then clampS (t.reg.s + t.params.gain * ((toteCount t : Int) - (t.params.otarget : Int)))
      else t.reg.s })
  simp only [State.core, Prod.mk.injEq] at h
  simp [State.shell, h]

/-- A point leaves the shell alone, the queue of commands in it. -/
@[simp] theorem shell_takePoint (p : Instr) (s : State) : (takePoint p s).shell = s.shell := by
  unfold takePoint
  split <;> first | rfl | exact shell_of_core (by simp) | simp

/-- The points that are reached leave the shell alone, however many of them are taken. -/
@[simp] theorem shell_drain (n : Nat) (s : State) : (drain n s).shell = s.shell := by
  induction n generalizing s with
  | zero => rfl
  | succ n ih => unfold drain; split <;> simp [ih]
@[simp] theorem shell_takeReached (s : State) : (takeReached s).shell = s.shell := by
  unfold takeReached; split <;> simp

theorem pending_of_shell {s t : State} (h : t.shell = s.shell) : t.pending = s.pending := by
  simp only [State.shell, Prod.mk.injEq] at h
  exact h.2.2.2.2.2.1
theorem runs_of_shell {s t : State} (h : t.shell = s.shell) : portRuns t = portRuns s ∧ notHeld t = notHeld s := by
  simp only [State.shell, Prod.mk.injEq, Rng.line] at h
  simp [portRuns, notHeld, h]
@[simp] theorem pending_drain (n : Nat) (s : State) : (drain n s).pending = s.pending := pending_of_shell (shell_drain n s)
@[simp] theorem pending_takeReached (s : State) : (takeReached s).pending = s.pending :=
  pending_of_shell (shell_takeReached s)

/-- Where no point is reached, none is taken. -/
theorem drain_of_none {n : Nat} {s : State} (h : nextDue s = none) : drain n s = s := by
  cases n with
  | zero => rfl
  | succ n => unfold drain; rw [h]
theorem takeReached_of_none {s : State} (h : nextDue s = none) : takeReached s = s := by
  unfold takeReached; rw [drain_of_none h, ite_self]

/-- Which points are reached depends on the odometer, the loop length, the records, the eyes, the fires, the verify lists, IND,
MRG, the next sample point and run control only. -/
theorem nextDue_congr {s t : State} (h1 : t.pos.odo = s.pos.odo) (h2 : t.params.loopLen = s.params.loopLen)
    (h3 : t.trk.list = s.trk.list) (h4 : t.sgt.eyes = s.sgt.eyes) (h5 : t.fpl.queues = s.fpl.queues)
    (h6 : ∀ n, (laneOf t n).verify = (laneOf s n).verify) (h7 : t.ind = s.ind) (h8 : t.mrg = s.mrg)
    (h9 : t.reg.next = s.reg.next) (h10 : t.run = s.run) : nextDue t = nextDue s := by
  have hn : now t = now s := congrArg Int.ofNat h1
  have f1 : opensNow t = opensNow s := by funext x; unfold opensNow; rw [hn]
  have f2 : checksNow t = checksNow s := by funext x; unfold checksNow; rw [hn]
  have f3 : closesNow t = closesNow s := by funext x; unfold closesNow; rw [hn]
  have f4 : endsNow t = endsNow s := by funext x; unfold endsNow; rw [hn]
  have fd : ∀ p, due p t = due p s := fun p => by
    cases p with
    | none => rfl
    | some p => show decide (p ≤ now t) = decide (p ≤ now s); rw [hn]
  have fl : ∀ e : VerifyEntry, decide (e.deadline ≤ now t) = decide (e.deadline ≤ now s) := fun e => by rw [hn]
  have fv : (fun e : VerifyEntry => decide (e.deadline ≤ now t)) = fun e => decide (e.deadline ≤ now s) := funext fl
  have k1 : dueOfRecords t = dueOfRecords s := by unfold dueOfRecords; simp only [fd, h2, h3]
  have k2 : dueOfEyes t = dueOfEyes s := by unfold dueOfEyes eyeOf; simp only [fd, h4]
  have k3 : dueOfFires t = dueOfFires s := by unfold dueOfFires queueOf; simp only [h5, f1, f2, f3, f4]
  have k4 : dueOfLanes t = dueOfLanes s := by unfold dueOfLanes; rw [fv]; simp only [h6]
  have k5 : dueOfUnits t = dueOfUnits s := by unfold dueOfUnits; simp only [fd, h7, h8, h9, h10]
  unfold nextDue; rw [k1, k2, k3, k4, k5]

/-! ## Timers -/

@[simp] theorem core_feedbackExpiry (g : Nat) (s : State) : (feedbackExpiry g s).core = s.core := by
  unfold feedbackExpiry; repeat' split
  all_goals simp
@[simp] theorem core_stallExpiry (s : State) : (stallExpiry s).core = s.core := by
  unfold stallExpiry; split <;> simp
@[simp] theorem core_idleExpiry (s : State) : (idleExpiry s).core = s.core := by
  unfold idleExpiry; split <;> simp
@[simp] theorem core_parkExpiry (s : State) : (parkExpiry s).core = s.core := by
  unfold parkExpiry; dsimp only; repeat' split
  all_goals simp
@[simp] theorem core_wakeExpiry (s : State) : (wakeExpiry s).core = s.core := by
  unfold wakeExpiry; split <;> simp

end Sys2Proof.Machine
end

