-- ==== Sys2Proof/Laws/Invariants.lean ====
section
/-! SUPPORT. The invariant of the block: one lemma per shared operation. -/

namespace Sys2Proof.Machine

/-! ## Tables of fixed size -/

theorem vset_forall {α : Type} {n : Nat} {v : Vector α n} {P : α → Prop} (h : ∀ a ∈ v.toList, P a) {x : α} (hx : P x)
    (i : Nat) : ∀ a ∈ (vset v i x).toList, P a := by
  intro a ha
  have hl : (vset v i x).toList = v.toList.set i x := by simp [vset, Vector.toList]
  rw [hl] at ha
  rcases List.mem_or_eq_of_mem_set ha with h' | h'
  · exact h a h'
  · exact h' ▸ hx

theorem vget_forall {α : Type} {n : Nat} {v : Vector α n} {P : α → Prop} (h : ∀ a ∈ v.toList, P a) {d : α} (hd : P d)
    (i : Nat) : P (vget v i d) := by
  unfold vget
  rw [List.getD_eq_getElem?_getD]
  rcases hi : v.toList[i]? with _ | a
  · simpa using hd
  · simpa using h a (List.mem_of_getElem? hi)

theorem vmap_toList {α β : Type} {n : Nat} (f : α → β) (v : Vector α n) : (vmap f v).toList = v.toList.map f := by
  simp [vmap, Vector.toList]

/-! ## The tracking list -/

theorem TrkOk.perm {x y : Trk} (h : TrkOk x) (hp : y.list.Perm x.list) (hn : x.nextId ≤ y.nextId) : TrkOk y :=
  { size := hp.length_eq ▸ h.size
    hole := (hp.countP_eq _) ▸ h.hole
    totes := (hp.filterMap _).nodup_iff.mpr h.totes
    ids := (hp.map _).nodup_iff.mpr h.ids
    given := fun r hr => Nat.lt_of_lt_of_le (h.given r (hp.mem_iff.mp hr)) hn }

theorem TrkOk.sublist {x y : Trk} (h : TrkOk x) (hp : y.list.Sublist x.list) (hn : y.nextId = x.nextId) : TrkOk y :=
  { size := Nat.le_trans hp.length_le h.size
    hole := Nat.le_trans (hp.countP_le) h.hole
    totes := (hp.filterMap _).nodup h.totes
    ids := (hp.map _).nodup h.ids
    given := fun r hr => hn ▸ h.given r (hp.subset hr) }

/-- A change of records in place that keeps handles and numbers and makes no hole. -/
theorem TrkOk.map {x y : Trk} (h : TrkOk x) {f : Rec → Rec} (hl : y.list = x.list.map f) (hn : y.nextId = x.nextId)
    (hf : ∀ r ∈ x.list, (f r).id = r.id ∧ (f r).tote = r.tote ∧ ((f r).role = .hole → r.role = .hole)) : TrkOk y := by
  have hid : y.list.map (·.id) = x.list.map (·.id) := by
    rw [hl, List.map_map]; exact List.map_congr_left fun r hr => (hf r hr).1
  have htote : y.list.filterMap (·.tote) = x.list.filterMap (·.tote) := by
    rw [hl, List.filterMap_map]; exact List.filterMap_congr fun r hr => (hf r hr).2.1
  refine ⟨by rw [hl, List.length_map]; exact h.size, ?_, htote ▸ h.totes, hid ▸ h.ids, ?_⟩
  · rw [hl, List.countP_map]
    refine Nat.le_trans (List.countP_mono_left fun r hr hr' => ?_) h.hole
    have := (hf r hr).2.2
    simp_all
  · rw [hl, hn]
    intro r hr
    obtain ⟨r', hr', rfl⟩ := List.mem_map.mp hr
    exact (hf r' hr').1 ▸ h.given r' hr'

theorem findRec_mem {s : State} {id : Nat} {r : Rec} (h : findRec s id = some r) : r ∈ s.trk.list ∧ r.id = id := by
  unfold findRec at h
  exact ⟨List.mem_of_find?_eq_some h, by simpa using List.find?_some h⟩

theorem carrier_mem {s : State} {t : Nat} {r : Rec} (h : carrier s t = some r) : r ∈ s.trk.list ∧ r.tote = some t := by
  unfold carrier at h
  exact ⟨List.mem_of_find?_eq_some h, by simpa using List.find?_some h⟩

/-- A handle names one record. -/
theorem TrkOk.unique {x : Trk} (h : TrkOk x) {r r' : Rec} (hr : r ∈ x.list) (hr' : r' ∈ x.list) (hid : r.id = r'.id) :
    r = r' := List.inj_on_of_nodup_map h.ids hr hr' hid

/-- Seating puts the record among the others, each of which stays. -/
theorem seatIn_perm (r : Rec) (l : List Rec) : (seatIn r l).Perm (r :: l.filter fun x => x.id ≠ r.id) := by
  unfold seatIn
  exact List.perm_middle.trans (List.Perm.of_eq (by rw [List.takeWhile_append_dropWhile]))

/-- A record of the list and the others. -/
theorem TrkOk.split {x : Trk} (h : TrkOk x) {r : Rec} (hr : r ∈ x.list) :
    x.list.Perm (r :: x.list.filter fun y => y.id ≠ r.id) := by
  have hp := List.perm_cons_erase hr
  refine hp.trans (List.Perm.cons _ (List.Perm.of_eq ?_))
  have hnd : x.list.Nodup := h.ids.of_map _
  rw [hnd.erase_eq_filter]
  refine List.filter_congr fun y hy => ?_
  by_cases hxy : y = r
  · simp [hxy]
  · have : y.id ≠ r.id := fun e => hxy (h.unique hy hr e)
    simp [hxy, this]

theorem TrkOk.seat {x y : Trk} (h : TrkOk x) {r r' : Rec} (hr : r ∈ x.list)
    (hf : r'.id = r.id ∧ r'.tote = r.tote ∧ (r'.role = .hole → r.role = .hole))
    (hl : y.list = seatIn r' x.list) (hn : y.nextId = x.nextId) : TrkOk y := by
  let f : Rec → Rec := fun z => if z.id = r.id then r' else z
  have h1 : TrkOk { x with list := x.list.map f } := by
    refine h.map (f := f) rfl rfl fun z hz => ?_
    by_cases he : z.id = r.id
    · have : z = r := h.unique hz hr he
      simp only [f, this, if_true]; exact ⟨hf.1, hf.2.1, hf.2.2⟩
    · simp [f, he]
  refine h1.perm ?_ (Nat.le_of_eq hn.symm)
  rw [hl]
  refine (seatIn_perm r' x.list).trans ?_
  have hs := (h.split hr).map f
  refine List.Perm.trans ?_ hs.symm
  simp only [List.map_cons, f, if_true]
  refine List.Perm.cons _ (List.Perm.of_eq ?_)
  rw [hf.1]
  refine (List.map_id _).symm.trans (List.map_congr_left fun z hz => ?_)
  have : z.id ≠ r.id := by simpa using (List.mem_filter.mp hz).2
  simp [this]

/-- A new record under a fresh handle. -/
theorem TrkOk.insert {x y : Trk} (h : TrkOk x) {r : Rec} (hid : r.id = x.nextId) (hsize : x.list.length < Config.maxRecords)
    (htote : ∀ t, r.tote = some t → t ∉ x.list.filterMap (·.tote))
    (hhole : r.role = .hole → x.list.countP (fun z => z.role = .hole) = 0)
    (hl : y.list = seatIn r x.list) (hn : y.nextId = x.nextId + 1) : TrkOk y := by
  have hfresh : ∀ z ∈ x.list, z.id ≠ r.id := fun z hz => by have := h.given z hz; omega
  have hp : y.list.Perm (r :: x.list) := by
    rw [hl]
    refine (seatIn_perm r x.list).trans (List.Perm.of_eq ?_)
    rw [List.filter_eq_self.mpr fun z hz => by simpa using hfresh z hz]
  have h1 : TrkOk { x with list := r :: x.list, nextId := x.nextId + 1 } := by
    refine ⟨by simpa using hsize, ?_, ?_, ?_, ?_⟩
    · by_cases hr : r.role = .hole
      · simp [hr, hhole hr]
      · simpa [List.countP_cons, hr] using h.hole
    · rcases ht : r.tote with _ | t
      · simpa [List.filterMap_cons, ht] using h.totes
      · simpa [List.filterMap_cons, ht] using ⟨by simpa using htote t ht, h.totes⟩
    · simp only [List.map_cons, List.nodup_cons]
      exact ⟨fun hm => by obtain ⟨z, hz, he⟩ := List.mem_map.mp hm; exact hfresh z hz he, h.ids⟩
    · intro z hz
      rcases List.mem_cons.mp hz with rfl | hz
      · simp [hid]
      · exact Nat.lt_succ_of_lt (h.given z hz)
  exact h1.perm hp (by simp [hn])

/-! ## The order table -/

theorem OrdOk.sublist {x y : OrdTable} (h : OrdOk x) (hp : y.entries.Sublist x.entries) : OrdOk y :=
  ⟨Nat.le_trans hp.length_le h.size, h.sorted.sublist (hp.map _)⟩

theorem OrdOk.map {x y : OrdTable} (h : OrdOk x) {f : Entry → Entry} (hl : y.entries = x.entries.map f)
    (hf : ∀ e, (f e).tote = e.tote) : OrdOk y := by
  have : y.entries.map (·.tote) = x.entries.map (·.tote) := by
    rw [hl, List.map_map]; exact List.map_congr_left fun e _ => hf e
  exact ⟨by rw [hl, List.length_map]; exact h.size, this ▸ h.sorted⟩

theorem putEntryIn_mem (e : Entry) (l : List Entry) : ∀ x ∈ putEntryIn e l, x = e ∨ x ∈ l := by
  induction l with
  | nil => simp [putEntryIn]
  | cons y ys ih =>
    intro x hx
    unfold putEntryIn at hx
    split at hx
    · simpa using hx
    · split at hx
      · rcases List.mem_cons.mp hx with h | h
        · exact Or.inl h
        · exact Or.inr (List.mem_cons_of_mem _ h)
      · rcases List.mem_cons.mp hx with h | h
        · exact Or.inr (h ▸ List.mem_cons_self)
        · rcases ih x h with h | h
          · exact Or.inl h
          · exact Or.inr (List.mem_cons_of_mem _ h)

theorem putEntryIn_sorted (e : Entry) (l : List Entry) (h : (l.map (·.tote)).Pairwise (· < ·)) :
    ((putEntryIn e l).map (·.tote)).Pairwise (· < ·) := by
  induction l with
  | nil => simp [putEntryIn]
  | cons y ys ih =>
    rw [List.map_cons, List.pairwise_cons] at h
    unfold putEntryIn
    split
    · rename_i hlt
      simp only [List.map_cons, List.pairwise_cons, List.mem_cons, List.mem_map]
      refine ⟨?_, ⟨fun a ha => h.1 a (List.mem_map.mpr ha), h.2⟩⟩
      rintro a (rfl | ⟨z, hz, rfl⟩)
      · exact hlt
      · exact Nat.lt_trans hlt (h.1 _ (List.mem_map_of_mem hz))
    · split
      · rename_i heq
        rw [List.map_cons, List.pairwise_cons, heq]
        exact h
      · rename_i hlt hne
        rw [List.map_cons, List.pairwise_cons]
        refine ⟨fun a ha => ?_, ih h.2⟩
        obtain ⟨z, hz, rfl⟩ := List.mem_map.mp ha
        rcases putEntryIn_mem e ys z hz with rfl | hz
        · omega
        · exact h.1 _ (List.mem_map_of_mem hz)

theorem putEntryIn_length_le (e : Entry) (l : List Entry) : (putEntryIn e l).length ≤ l.length + 1 := by
  induction l with
  | nil => simp [putEntryIn]
  | cons y ys ih =>
    unfold putEntryIn
    repeat' split
    all_goals simp only [List.length_cons]; omega

theorem putEntryIn_length_of_mem (e : Entry) (l : List Entry) (h : (l.map (·.tote)).Pairwise (· < ·))
    (hm : ∃ x ∈ l, x.tote = e.tote) : (putEntryIn e l).length = l.length := by
  induction l with
  | nil => simp at hm
  | cons y ys ih =>
    rw [List.map_cons, List.pairwise_cons] at h
    obtain ⟨x, hx, hxe⟩ := hm
    unfold putEntryIn
    split
    · rename_i hlt
      rcases List.mem_cons.mp hx with rfl | hx
      · omega
      · have := h.1 _ (List.mem_map_of_mem hx); omega
    · split
      · simp
      · rename_i hne
        rcases List.mem_cons.mp hx with rfl | hx
        · exact absurd hxe.symm hne
        · simp [ih h.2 ⟨x, hx, hxe⟩]

theorem findEntry_mem {s : State} {t : Nat} {e : Entry} (h : findEntry s t = some e) :
    e ∈ s.ord.entries ∧ e.tote = t := by
  unfold findEntry at h
  exact ⟨List.mem_of_find?_eq_some h, by simpa using List.find?_some h⟩

/-! ## What the blocks keep -/

/-- The part of the invariant that the blocks work on. -/
structure BlockInv (s : State) : Prop where
  run     : RunOk s.run
  trk     : TrkOk s.trk
  ord     : OrdOk s.ord
  lanes   : ∀ l ∈ s.lan.lanes.toList, LaneOk l
  fires   : ∀ q ∈ s.fpl.queues.toList, q.length ≤ Config.maxFires
  control : (s.rng.control.map (·.dst)).Nodup
  notices : s.ntq.queue.length ≤ Config.maxNotices

end Sys2Proof.Machine
end

