-- ==== Sys2Proof/Laws/Keeps.lean ====
section
/-! SUPPORT. Every shared operation of the blocks keeps the invariant they work on: one lemma per operation. -/

namespace Sys2Proof.Machine

/-! ## Updates -/

@[simp] theorem inv_setHeld {s : State} {x : Held} (h : BlockInv s) : BlockInv (s.setHeld x) := ⟨h.1, h.2, h.3, h.4, h.5, h.6, h.7⟩
@[simp] theorem inv_setPos {s : State} {x : Pos} (h : BlockInv s) : BlockInv (s.setPos x) := ⟨h.1, h.2, h.3, h.4, h.5, h.6, h.7⟩
@[simp] theorem inv_setParams {s : State} {x : Params} (h : BlockInv s) : BlockInv (s.setParams x) := ⟨h.1, h.2, h.3, h.4, h.5, h.6, h.7⟩
@[simp] theorem inv_setSgt {s : State} {x : Sgt} (h : BlockInv s) : BlockInv (s.setSgt x) := ⟨h.1, h.2, h.3, h.4, h.5, h.6, h.7⟩
@[simp] theorem inv_setGtc {s : State} {x : Gtc} (h : BlockInv s) : BlockInv (s.setGtc x) := ⟨h.1, h.2, h.3, h.4, h.5, h.6, h.7⟩
@[simp] theorem inv_setInd {s : State} {x : Ind} (h : BlockInv s) : BlockInv (s.setInd x) := ⟨h.1, h.2, h.3, h.4, h.5, h.6, h.7⟩
@[simp] theorem inv_setReg {s : State} {x : Reg} (h : BlockInv s) : BlockInv (s.setReg x) := ⟨h.1, h.2, h.3, h.4, h.5, h.6, h.7⟩
@[simp] theorem inv_setMrg {s : State} {x : Mrg} (h : BlockInv s) : BlockInv (s.setMrg x) := ⟨h.1, h.2, h.3, h.4, h.5, h.6, h.7⟩
@[simp] theorem inv_setCmd {s : State} {x : Cmd} (h : BlockInv s) : BlockInv (s.setCmd x) := ⟨h.1, h.2, h.3, h.4, h.5, h.6, h.7⟩
@[simp] theorem inv_setFree {s : State} {x : Nat} (h : BlockInv s) : BlockInv (s.setFree x) := ⟨h.1, h.2, h.3, h.4, h.5, h.6, h.7⟩
@[simp] theorem inv_setPending {s : State} {x : List Instr} (h : BlockInv s) : BlockInv (s.setPending x) := ⟨h.1, h.2, h.3, h.4, h.5, h.6, h.7⟩
theorem inv_setRun {s : State} {x : Run} (h : BlockInv s) (hx : RunOk x) : BlockInv (s.setRun x) := ⟨hx, h.2, h.3, h.4, h.5, h.6, h.7⟩
theorem inv_setTrk {s : State} {x : Trk} (h : BlockInv s) (hx : TrkOk x) : BlockInv (s.setTrk x) := ⟨h.1, hx, h.3, h.4, h.5, h.6, h.7⟩
theorem inv_setOrd {s : State} {x : OrdTable} (h : BlockInv s) (hx : OrdOk x) : BlockInv (s.setOrd x) := ⟨h.1, h.2, hx, h.4, h.5, h.6, h.7⟩
theorem inv_setLan {s : State} {x : Lan} (h : BlockInv s) (hx : ∀ l ∈ x.lanes.toList, LaneOk l) : BlockInv (s.setLan x) := ⟨h.1, h.2, h.3, hx, h.5, h.6, h.7⟩
theorem inv_setFpl {s : State} {x : Fpl} (h : BlockInv s) (hx : ∀ q ∈ x.queues.toList, q.length ≤ Config.maxFires) :
    BlockInv (s.setFpl x) := ⟨h.1, h.2, h.3, h.4, hx, h.6, h.7⟩
theorem inv_setNtq {s : State} {x : Ntq} (h : BlockInv s) (hx : x.queue.length ≤ Config.maxNotices) : BlockInv (s.setNtq x) := ⟨h.1, h.2, h.3, h.4, h.5, h.6, hx⟩
theorem inv_setRng {s : State} {x : Rng} (h : BlockInv s) (hx : (x.control.map (·.dst)).Nodup) : BlockInv (s.setRng x) := ⟨h.1, h.2, h.3, h.4, h.5, hx, h.7⟩

theorem foldl_inv {α : Type} {f : State → α → State} (hf : ∀ t a, BlockInv t → BlockInv (f t a)) (l : List α) {s : State}
    (h : BlockInv s) : BlockInv (l.foldl f s) := by
  induction l generalizing s with
  | nil => exact h
  | cons a l ih => exact ih (hf s a h)

/-! ## Operations of Ops -/

@[simp] theorem inv_notify {n : Notice} {s : State} (h : BlockInv s) : BlockInv (notify n s) := by
  unfold notify; repeat' split
  · rename_i hlt; exact inv_setNtq h (by simpa using hlt)
  · exact inv_setNtq h h.notices
  · exact h
@[simp] theorem inv_placeControl {c : Ctl} {s : State} (h : BlockInv s) : BlockInv (placeControl c s) := by
  unfold placeControl; dsimp only; split
  · refine inv_setRng h ?_
    have : (s.rng.control.map fun x => if x.dst = c.dst then c else x).map (·.dst) = s.rng.control.map (·.dst) := by
      rw [List.map_map]; refine List.map_congr_left fun x _ => ?_
      dsimp only [Function.comp]; split <;> simp_all
    exact this ▸ h.control
  · rename_i hn
    refine inv_setRng h ?_
    have hn' : c.dst ∉ s.rng.control.map (·.dst) := by
      intro hm; obtain ⟨x, hx, he⟩ := List.mem_map.mp hm
      exact hn (List.any_eq_true.mpr ⟨x, hx, by simpa using he⟩)
    rw [List.map_append, List.nodup_append]
    exact ⟨h.control, by simp, by simpa using fun a ha => fun e => hn' (by simpa using ⟨a, ha, e⟩)⟩
@[simp] theorem inv_placeForKind {k : StationKind} {c : CtlKind} {s : State} (h : BlockInv s) : BlockInv (placeForKind k c s) := by
  unfold placeForKind; split <;> simp (maxDischargeDepth := 20) [h]
@[simp] theorem inv_countUnmapped {s : State} (h : BlockInv s) : BlockInv (countUnmapped s) := inv_setRng h h.control
@[simp] theorem inv_countCmdDrop {s : State} (h : BlockInv s) : BlockInv (countCmdDrop s) := inv_setRng h h.control
@[simp] theorem inv_placeReply {r : Reply} {s : State} (h : BlockInv s) : BlockInv (placeReply r s) := inv_setRng h h.control

/-- A change of one record's fields other than its handle and number, which makes no hole. -/
theorem inv_modRec_of {id : Nat} {f : Rec → Rec} {s : State} (h : BlockInv s)
    (hf : ∀ r ∈ s.trk.list, r.id = id → (f r).id = r.id ∧ (f r).tote = r.tote ∧ ((f r).role = .hole → r.role = .hole)) :
    BlockInv (modRec id f s) := by
  refine inv_setTrk h (h.trk.map (f := fun r => if r.id = id then f r else r) rfl rfl fun r hr => ?_)
  split
  · rename_i he; exact hf r hr he
  · simp
theorem inv_modRec {id : Nat} {f : Rec → Rec} {s : State} (h : BlockInv s)
    (hf : ∀ r, (f r).id = r.id ∧ (f r).tote = r.tote ∧ ((f r).role = .hole → r.role = .hole)) :
    BlockInv (modRec id f s) := inv_modRec_of h fun r _ _ => hf r
@[simp] theorem inv_reseat {id : Nat} {a : Int} {s : State} (h : BlockInv s) : BlockInv (reseat id a s) := by
  unfold reseat; split
  · rename_i r hr
    exact inv_setTrk h (h.trk.seat (findRec_mem hr).1 (r' := { r with anchor := a }) ⟨rfl, rfl, fun x => x⟩ rfl rfl)
  · exact h
@[simp] theorem inv_removeEntry {t : Nat} {s : State} (h : BlockInv s) : BlockInv (removeEntry t s) :=
  inv_setOrd h (h.ord.sublist List.filter_sublist)
@[simp] theorem inv_setEntryState {t : Nat} {x : EntryState} {s : State} (h : BlockInv s) : BlockInv (setEntryState t x s) :=
  inv_setOrd h (h.ord.map (f := fun e => if e.tote = t then { e with st := x } else e) rfl fun e => by split <;> rfl)
@[simp] theorem inv_settleEntry {r : Rec} {x : EntryFate} {s : State} (h : BlockInv s) : BlockInv (settleEntry r x s) := by
  unfold settleEntry; repeat' split
  all_goals simp (maxDischargeDepth := 20) [h]
theorem inv_putEntry {e : Entry} {s : State} (h : BlockInv s)
    (hx : s.ord.entries.length < Config.maxEntries ∨ ∃ x ∈ s.ord.entries, x.tote = e.tote) : BlockInv (putEntry e s) := by
  refine inv_setOrd h ⟨?_, putEntryIn_sorted e _ h.ord.sorted⟩
  rcases hx with hx | hx
  · exact Nat.le_trans (putEntryIn_length_le e _) hx
  · exact (putEntryIn_length_of_mem e _ h.ord.sorted hx) ▸ h.ord.size
@[simp] theorem inv_setGate {g : Nat} {x : Gate} {s : State} (h : BlockInv s) : BlockInv (setGate g x s) := inv_setGtc h
theorem inv_setQueue {g : Nat} {q : List Fire} {s : State} (h : BlockInv s) (hq : q.length ≤ Config.maxFires) :
    BlockInv (setQueue g q s) :=
  inv_setFpl h (vset_forall (P := fun q : List Fire => q.length ≤ Config.maxFires) h.fires hq g)
theorem queueOf_length {s : State} (h : BlockInv s) (g : Nat) : (queueOf s g).length ≤ Config.maxFires :=
  vget_forall (P := fun q : List Fire => q.length ≤ Config.maxFires) h.fires (by simp) g
theorem laneOk_default : LaneOk (Lane.reset LaneRec.default) := ⟨by decide, by decide, by decide, by decide⟩
theorem laneOf_ok {s : State} (h : BlockInv s) (n : Nat) : LaneOk (laneOf s n) := vget_forall h.lanes laneOk_default n
theorem inv_modLane {n : Nat} {f : Lane → Lane} {s : State} (h : BlockInv s) (hf : LaneOk (f (laneOf s n))) :
    BlockInv (modLane n f s) := inv_setLan h (vset_forall h.lanes hf n)
@[simp] theorem inv_setEye {i : Nat} {e : Eye} {s : State} (h : BlockInv s) : BlockInv (setEye i e s) := inv_setSgt h
theorem sendLamp_lan (n : Nat) (b : Bool) (s : State) :
    (sendLamp n b s).lan = s.lan ∨ (sendLamp n b s).lan = (modLane n (fun l => { l with lampOn := b }) s).lan := by
  unfold sendLamp; split
  · right; unfold placeControl; dsimp only; split <;> rfl
  · left; rfl
@[simp] theorem inv_sendLamp {n : Nat} {b : Bool} {s : State} (h : BlockInv s) : BlockInv (sendLamp n b s) := by
  unfold sendLamp; split
  · rename_i d _
    refine inv_modLane (inv_placeControl h) ?_
    have hl := laneOf_ok (inv_placeControl (c := ⟨d.sec, if b then .lampOn else .lampOff⟩) h) n
    exact ⟨hl.1, hl.2, hl.3, hl.4⟩
  · exact h

/-! ## Gates and plans -/

@[simp] theorem inv_driveGate {g : Nat} {b : Bool} {s : State} (h : BlockInv s) : BlockInv (driveGate g b s) := by
  unfold driveGate; split <;> simp (maxDischargeDepth := 20) [h]
@[simp] theorem inv_openForFire {g : Nat} {s : State} (h : BlockInv s) : BlockInv (openForFire g s) := by
  unfold openForFire; repeat' split
  all_goals simp (maxDischargeDepth := 20) [h]
@[simp] theorem inv_closeIfOpen {g : Nat} {s : State} (h : BlockInv s) : BlockInv (closeIfOpen g s) := by
  unfold closeIfOpen; repeat' split
  all_goals simp (maxDischargeDepth := 20) [h]
@[simp] theorem inv_decideGates {gs : List Nat} {s : State} (h : BlockInv s) : BlockInv (decideGates gs s) :=
  foldl_inv (fun t g ht => by unfold decideGate; split <;> simp (maxDischargeDepth := 20) [ht]) gs h
@[simp] theorem inv_dropFires {g : Nat} {p : Fire → Bool} {s : State} (h : BlockInv s) : BlockInv (dropFires g p s) :=
  inv_setQueue h (Nat.le_trans (List.length_filter_le _ _) (queueOf_length h g))
@[simp] theorem inv_leaveFire {g id : Nat} {s : State} (h : BlockInv s) : BlockInv (leaveFire g id s) :=
  inv_setQueue h (by simpa using queueOf_length h g)
@[simp] theorem inv_detach {id : Nat} {s : State} (h : BlockInv s) : BlockInv (detach id s).st := by
  unfold detach; repeat' split
  all_goals simp (maxDischargeDepth := 20) [h]
@[simp] theorem inv_gather {ids : List Nat} {s : State} (h : BlockInv s) : BlockInv (gather ids s).st := by
  unfold gather
  have : ∀ (l : List Nat) (p : Planned), BlockInv p.st →
      BlockInv (l.foldl (fun p id => let q := detach id p.st; (⟨q.st, p.left ++ q.left, p.gates ++ q.gates⟩ : Planned)) p).st := by
    intro l
    induction l with
    | nil => exact fun p hp => hp
    | cons a l ih => exact fun p hp => ih _ (inv_detach hp)
  exact this ids _ h
@[simp] theorem inv_moveClose {g : Nat} {x : Fire} {s : State} (h : BlockInv s) : BlockInv (moveClose g x s) := by
  unfold moveClose; dsimp only; repeat' split
  all_goals first | exact h | exact inv_setQueue h (by simpa using queueOf_length h g)
@[simp] theorem inv_markPlan {s : State} {d : Station} {w : Refused} {ids : List Nat} (h : BlockInv s) :
    BlockInv (markPlan s d w ids) :=
  inv_setTrk h (h.trk.map
    (f := fun r => if ids.contains r.id then { r with refusal := w, watch := some (nextPassage s r d.pos) } else r) rfl rfl
    fun r _ => by split <;> simp)
theorem insertFire_length (x : Fire) (q : List Fire) : (insertFire x q).length = q.length + 1 := by
  induction q with
  | nil => rfl
  | cons y ys ih => unfold insertFire; split <;> simp [ih]
theorem laterChecks_room {s : State} {d : Station} {g : Nat} {group : List (Rec × Int)}
    (h : laterChecks s d g group = Option.none) : (queueOf s g).length < Config.maxFires := by
  unfold laterChecks at h; repeat' split at h
  all_goals simp_all
@[simp] theorem inv_planRecord {r : Rec} {g : Nat} {d : Station} {s : State} (h : BlockInv s) :
    BlockInv (planRecord r g d s).st := by
  unfold planRecord; dsimp only; split
  · simp (maxDischargeDepth := 20) [h]
  · split
    · simp (maxDischargeDepth := 20) [h]
    · rename_i hc
      exact inv_markPlan (inv_setQueue (inv_gather h) (by rw [insertFire_length]; exact laterChecks_room hc))
@[simp] theorem inv_planOne_go {id : Nat} {s : State} {r : Rec} (h : BlockInv s) : BlockInv (planOne.go id s r).st := by
  unfold planOne.go; dsimp only; repeat' split
  all_goals simp (maxDischargeDepth := 20) [h]
@[simp] theorem inv_planOne {id : Nat} {s : State} (h : BlockInv s) : BlockInv (planOne id s).st := by
  unfold planOne; repeat' split
  all_goals simp (maxDischargeDepth := 20) [h]
@[simp] theorem inv_planWork {n : Nat} {ids gs : List Nat} {s : State} (h : BlockInv s) : BlockInv (planWork n ids gs s) := by
  induction n generalizing ids gs s with
  | zero => simp (maxDischargeDepth := 20) [planWork, h]
  | succ n ih =>
    cases ids with
    | nil => simp (maxDischargeDepth := 20) [planWork, h]
    | cons id ids => unfold planWork; dsimp only; split <;> simp (maxDischargeDepth := 20) [ih, h]
@[simp] theorem inv_planReq {id : Nat} {s : State} (h : BlockInv s) : BlockInv (planReq id s) := by simp (maxDischargeDepth := 20) [planReq, h]
@[simp] theorem inv_finishDetach {l : List Nat} {p : Planned} {s : State} (h : BlockInv s) : BlockInv (finishDetach l p s) := by
  simp (maxDischargeDepth := 20) [finishDetach, h]
@[simp] theorem inv_shadowRecheck {id : Nat} {s : State} (h : BlockInv s) : BlockInv (shadowRecheck id s) := by
  unfold shadowRecheck; dsimp only; repeat' split
  · exact h
  · exact h
  · exact inv_planWork (foldl_inv (fun t g ht => inv_dropFires ht) _ h)
@[simp] theorem inv_withdrawLane {g : Nat} {s : State} (h : BlockInv s) : BlockInv (withdrawLane g s) := by
  unfold withdrawLane; dsimp only; split <;> simp (maxDischargeDepth := 20) [h]
@[simp] theorem inv_planLane {g : Nat} {s : State} (h : BlockInv s) : BlockInv (planLane g s) := by
  unfold planLane
  refine foldl_inv (fun t id ht => ?_) _ h
  split <;> simp (maxDischargeDepth := 20) [ht]

/-! ## Slots and run control -/

@[simp] theorem inv_indLook {s : State} (h : BlockInv s) : BlockInv (indLook s) := inv_setInd h
@[simp] theorem inv_mrgLook {s : State} (h : BlockInv s) : BlockInv (mrgLook s) := inv_setMrg h
@[simp] theorem inv_notifySome {n : Option Notice} {s : State} (h : BlockInv s) : BlockInv (notifySome n s) := by
  unfold notifySome; split <;> simp (maxDischargeDepth := 20) [h]
@[simp] theorem inv_examineNew {r : Ready} {s : State} (h : BlockInv s) : BlockInv (examineNew r s) := by
  simp (maxDischargeDepth := 20) [examineNew, h]
@[simp] theorem inv_reexamine {s : State} (h : BlockInv s) : BlockInv (reexamine s) := by
  unfold reexamine; dsimp only; repeat' split
  all_goals simp (maxDischargeDepth := 20) [h]
theorem inv_whenDue {p : Option Int} {f : State → State} {s : State} (h : BlockInv s) (hf : BlockInv (f s)) :
    BlockInv (whenDue p f s) := by
  unfold whenDue; split
  · exact hf
  · exact h
@[simp] theorem inv_forceMerge {s : State} (h : BlockInv s) : BlockInv (forceMerge s) := by
  unfold forceMerge; dsimp only; repeat' split
  all_goals simp (maxDischargeDepth := 20) [h]
@[simp] theorem inv_intervalDue {s : State} (h : BlockInv s) : BlockInv (intervalDue s) := by
  unfold intervalDue; split
  · exact inv_whenDue h (by simp [h])
  · exact h
/-- A repeated action keeps the invariant if it keeps it once. -/
theorem inv_repeat {f : State → State} (hf : ∀ t, BlockInv t → BlockInv (f t)) (n : Nat) {s : State} (h : BlockInv s) :
    BlockInv (Nat.repeat f n s) := by
  induction n with
  | zero => exact h
  | succ n ih => exact hf _ ih
@[simp] theorem inv_startAccrual {s : State} (h : BlockInv s) : BlockInv (startAccrual s) := by
  unfold startAccrual; split
  · exact h
  · exact inv_repeat (fun _ ht => inv_intervalDue ht) _ (inv_setMrg h)
@[simp] theorem inv_pauseAccrual {s : State} (h : BlockInv s) : BlockInv (pauseAccrual s) := by
  unfold pauseAccrual; split <;> simp (maxDischargeDepth := 20) [h]
@[simp] theorem inv_lowerDebt {s : State} (h : BlockInv s) : BlockInv (lowerDebt s) := inv_setMrg h
@[simp] theorem inv_withdrawRequest {s : State} (h : BlockInv s) : BlockInv (withdrawRequest s) := by
  unfold withdrawRequest; split <;> simp (maxDischargeDepth := 20) [h]
theorem idleHolds_running {s : State} (h : idleHolds s = true) : s.run.st = .running := by
  simp only [idleHolds, Bool.and_eq_true, decide_eq_true_eq] at h
  exact h.1.1.1.1.1.1

/-- Run control, the idle timer apart: what a change of state sets before the idle timer is looked at. -/
structure RunMid (r : Run) : Prop where
  belt   : r.belt = r.st.beltOn
  stall  : r.stall.isSome = r.belt
  settle : r.settle.isSome ↔ r.st = .starting
  rule   : r.rule.isSome ↔ r.st = .parked ∨ r.st = .dark
  lap    : r.endPoint.isSome ↔ r.stage = .lap
  cause  : r.cause ≠ .none ↔ r.st = .fault
  park   : r.park.isSome → r.st = .parked
  wake   : r.wake.isSome → r.st = .parked ∨ r.st = .dark

theorem RunOk.mid {r : Run} (h : RunOk r) : RunMid r := ⟨h.1, h.2, h.3, h.4, h.5, h.6, h.8, h.9⟩

/-- The invariant, the idle timer apart. -/
structure MidInv (s : State) : Prop where
  run     : RunMid s.run
  trk     : TrkOk s.trk
  ord     : OrdOk s.ord
  lanes   : ∀ l ∈ s.lan.lanes.toList, LaneOk l
  fires   : ∀ q ∈ s.fpl.queues.toList, q.length ≤ Config.maxFires
  control : (s.rng.control.map (·.dst)).Nodup
  notices : s.ntq.queue.length ≤ Config.maxNotices

theorem BlockInv.mid {s : State} (h : BlockInv s) : MidInv s := ⟨h.1.mid, h.2, h.3, h.4, h.5, h.6, h.7⟩

theorem mid_runIdle {s : State} (h : MidInv s) : BlockInv (runIdle s) := by
  have hm := h.run
  unfold runIdle; repeat' split
  · rename_i hi hs
    exact ⟨⟨hm.1, hm.2, hm.3, hm.4, hm.5, hm.6, fun _ => idleHolds_running hi, hm.7, hm.8⟩, h.2, h.3, h.4, h.5, h.6, h.7⟩
  · rename_i hi hs
    exact ⟨⟨hm.1, hm.2, hm.3, hm.4, hm.5, hm.6, fun _ => idleHolds_running hi, hm.7, hm.8⟩, h.2, h.3, h.4, h.5, h.6, h.7⟩
  · exact ⟨⟨hm.1, hm.2, hm.3, hm.4, hm.5, hm.6, by simp, hm.7, hm.8⟩, h.2, h.3, h.4, h.5, h.6, h.7⟩
theorem mid_notify {n : Notice} {s : State} (h : MidInv s) : MidInv (notify n s) := by
  unfold notify; repeat' split
  · rename_i hlt; exact ⟨h.1, h.2, h.3, h.4, h.5, h.6, by simpa using hlt⟩
  · exact ⟨h.1, h.2, h.3, h.4, h.5, h.6, h.7⟩
  · exact h
@[simp] theorem inv_runIdle {s : State} (h : BlockInv s) : BlockInv (runIdle s) := mid_runIdle h.mid
@[simp] theorem inv_listChange {s : State} (h : BlockInv s) : BlockInv (listChange s) := by simp (maxDischargeDepth := 20) [listChange, h]

/-- Entering a state keeps the invariant: the state from which the stall timer goes on is consistent, the rule goes with
the new state, and so do the causes and the wake. -/
theorem inv_enterState {new : RunState} {rule : Option Rule} {c : StateCause} {s : State} (h : BlockInv s)
    (hrule : rule.isSome ↔ new = .parked ∨ new = .dark) (hcause : s.run.cause ≠ .none ↔ new = .fault)
    (hwake : s.run.wake.isSome → new = .parked ∨ new = .dark) : BlockInv (enterState new rule c s) := by
  refine mid_runIdle ?_
  have hm : MidInv (notify (.state s.run.st new c) (s.setRun { s.run with
      st := new, belt := new.beltOn, rule := rule,
      settle := if new = .starting then some (now s + s.params.settleDist) else Option.none,
      stall := if new.beltOn then (if s.run.st.beltOn then s.run.stall else some s.params.stallTime) else Option.none,
      park := if new = .parked ∧ s.params.parkLimit ≠ 0 then some (1000 * s.params.parkLimit) else Option.none })) := by
    refine mid_notify ⟨⟨rfl, ?_, ?_, hrule, h.run.lap, hcause, ?_, hwake⟩, h.2, h.3, h.4, h.5, h.6, h.7⟩
    · have h1 := h.run.stall
      have h2 := h.run.belt
      cases new <;> cases hs : s.run.st <;> simp_all [RunState.beltOn]
    · simp only [State.setRun_fields]; split <;> simp_all
    · simp only [State.setRun_fields]; split <;> simp_all
  exact ⟨hm.1, hm.2, hm.3, hm.4, hm.5, hm.6, hm.7⟩

theorem inv_reportFault {c : FaultCause} {d : Nat} {s : State} (hc : c ≠ .none) (h : BlockInv s) :
    BlockInv (reportFault c d s) := by
  have hr := h.run
  have hset : ∀ x : Run, x.belt = s.run.belt → x.st = s.run.st → x.stall = s.run.stall → x.settle = s.run.settle →
      x.rule = s.run.rule → x.endPoint = s.run.endPoint → x.stage = s.run.stage → x.cause = s.run.cause →
      x.idle = s.run.idle → x.park = s.run.park → x.wake = s.run.wake → BlockInv (s.setRun x) := by
    intro x h1 h2 h3 h4 h5 h6 h7 h8 h9 h10 h11
    refine inv_setRun h ⟨?_, ?_, ?_, ?_, ?_, ?_, ?_, ?_, ?_⟩ <;> simp only [h1, h2, h3, h4, h5, h6, h7, h8, h9, h10, h11]
    · exact hr.1
    · exact hr.2
    · exact hr.3
    · exact hr.4
    · exact hr.5
    · exact hr.6
    · exact hr.7
    · exact hr.8
    · exact hr.9
  unfold reportFault; split
  · simp (maxDischargeDepth := 20) [h]
  · split
    · exact h
    · exact inv_notify (hset _ rfl rfl rfl rfl rfl rfl rfl rfl rfl rfl rfl)
  · refine mid_runIdle ?_
    refine (?_ : MidInv (notify _ (State.setRun _ _))) |> fun hm => ⟨hm.1, hm.2, hm.3, hm.4, hm.5, hm.6, hm.7⟩
    refine mid_notify ⟨⟨rfl, rfl, ?_, ?_, hr.lap, ?_, ?_, ?_⟩, h.2, h.3, h.4, h.5, h.6, h.7⟩
    · simp
    · simp
    · simpa using hc
    · simp
    · simp

/-- The resume lap ends. -/
theorem inv_noStage {s : State} (h : BlockInv s) : BlockInv (s.setRun { s.run with endPoint := Option.none, stage := .none }) := by
  have hr := h.run
  exact inv_setRun h ⟨hr.1, hr.2, hr.3, hr.4, by simp, hr.6, hr.7, hr.8, hr.9⟩
theorem inv_endLap {c : StateCause} {s : State} (h : BlockInv s) : BlockInv (endLap c s) := by
  have hr := h.run
  unfold endLap; dsimp only; split
  · rename_i hst
    refine inv_enterState (inv_noStage h) (by simp) ?_ ?_
    · have := hr.cause; simp_all
    · have := hr.wake; simp_all
  · exact inv_noStage h
@[simp] theorem inv_lapCheck {s : State} (h : BlockInv s) : BlockInv (lapCheck s) := by
  unfold lapCheck; split
  · exact inv_endLap h
  · exact h
@[simp] theorem inv_wakeEyes {s : State} (h : BlockInv s) : BlockInv (wakeEyes s) := inv_setSgt h
@[simp] theorem inv_sendLamps {s : State} (h : BlockInv s) : BlockInv (sendLamps s) :=
  foldl_inv (fun _ _ ht => inv_sendLamp ht) _ h
@[simp] theorem inv_broadcastWake {s : State} (h : BlockInv s) : BlockInv (broadcastWake s) := by
  have hr := h.run
  exact inv_placeControl (inv_setRun h ⟨hr.1, hr.2, hr.3, hr.4, hr.5, hr.6, hr.7, hr.8, hr.9⟩)
theorem inv_beginWake {c : StateCause} {s : State} (h : BlockInv s) (hst : s.run.st = .parked ∨ s.run.st = .dark) :
    BlockInv (beginWake c s) := by
  have hb := inv_broadcastWake h
  have hr := hb.run
  have hst' : (broadcastWake s).run.st = s.run.st := by
    unfold broadcastWake placeControl; dsimp only; split <;> rfl
  refine inv_sendLamps (inv_wakeEyes (inv_setRun hb ⟨hr.1, hr.2, hr.3, hr.4, by simp, hr.6, hr.7, hr.8, ?_⟩))
  intro _; exact hst' ▸ hst
theorem inv_resumeFrom {c : StateCause} {s : State} (h : BlockInv s) (hw : s.run.wake = Option.none) :
    BlockInv (resumeFrom c s) := by
  unfold resumeFrom; split
  · rename_i hst
    split
    · exact inv_beginWake h (Or.inl hst)
    · refine inv_enterState h (by simp) ?_ (by simp [hw])
      have := h.run.cause; simp_all
  · rename_i hst; exact inv_beginWake h (Or.inr hst)
  · exact h
@[simp] theorem inv_runReady {s : State} (h : BlockInv s) : BlockInv (runReady s) := by
  unfold runReady; split
  · rename_i hc
    exact inv_resumeFrom h (by simp_all)
  · exact h
theorem inv_enterDark {r : Option Rule} {c : StateCause} {s : State} (h : BlockInv s) (hr : r.isSome)
    (hst : s.run.st = .parked) : BlockInv (enterDark r c s) := by
  unfold enterDark; dsimp only
  have h1 := inv_placeControl (c := ⟨broadcast, .sleep⟩) h
  have hrun : (placeControl ⟨broadcast, .sleep⟩ s).run = s.run := by
    unfold placeControl; dsimp only; split <;> rfl
  have h2 := h1.run
  refine inv_enterState (inv_setRun h1 ⟨h2.1, h2.2, h2.3, h2.4, h2.5, h2.6, h2.7, h2.8, h2.9⟩) (by simp [hr]) ?_ (by simp)
  have := h.run.cause; simp_all

/-! ## The tracking list -/

@[simp] theorem inv_loadDeadline {id p : Nat} {x : Int} {w : Nat} {s : State} (h : BlockInv s) :
    BlockInv (loadDeadline id p x w s) := by
  unfold loadDeadline; split
  · exact inv_modRec h fun _ => ⟨rfl, rfl, fun x => x⟩
  · exact inv_modRec h fun _ => ⟨rfl, rfl, fun x => x⟩
@[simp] theorem inv_matchDeadline {id p : Nat} {x : Int} {s : State} (h : BlockInv s) : BlockInv (matchDeadline id p x s) :=
  inv_lapCheck (inv_loadDeadline (inv_modRec h fun _ => ⟨rfl, rfl, fun x => x⟩))
@[simp] theorem inv_moveRec {id : Nat} {d : Int} {s : State} (h : BlockInv s) : BlockInv (moveRec id d s) := by
  unfold moveRec; repeat' split
  all_goals simp [h]
@[simp] theorem inv_correct {id : Nat} {d : Int} {s : State} (h : BlockInv s) : BlockInv (correct id d s) := by
  unfold correct; split <;> simp (maxDischargeDepth := 20) [h]
@[simp] theorem inv_passOrigin {r : Rec} {s : State} (h : BlockInv s) : BlockInv (passOrigin r s) := by simp (maxDischargeDepth := 20) [passOrigin, h]
@[simp] theorem inv_removeRec {id : Nat} {x : EntryFate} {s : State} (h : BlockInv s) : BlockInv (removeRec id x s) := by
  unfold removeRec; dsimp only; split
  · exact h
  · have h1 := inv_settleEntry (r := by assumption) (x := x) (inv_detach (id := id) h)
    exact inv_finishDetach (inv_lapCheck (inv_listChange (inv_setTrk h1 (h1.trk.sublist List.filter_sublist rfl))))
@[simp] theorem inv_roleToReturn {id : Nat} {r : Reason} {x : EntryFate} {s : State} (h : BlockInv s) :
    BlockInv (roleToReturn id r x s) := by
  unfold roleToReturn; dsimp only; repeat' split
  · exact h
  · exact h
  · exact inv_modRec h fun _ => ⟨rfl, rfl, fun x => x⟩
  · exact inv_finishDetach (inv_detach (inv_modRec (inv_settleEntry h) fun r => ⟨rfl, rfl, by simp⟩))
@[simp] theorem inv_loseRec {id : Nat} {c : LostCause} {s : State} (h : BlockInv s) : BlockInv (loseRec id c s) := by
  unfold loseRec; dsimp only; split
  · exact h
  · exact inv_removeRec (inv_notify (inv_setTrk h ⟨h.trk.1, h.trk.2, h.trk.3, h.trk.4, h.trk.5⟩))
@[simp] theorem inv_markUnsure {s : State} (h : BlockInv s) : BlockInv (markUnsure s) := by
  unfold markUnsure
  refine foldl_inv (fun t x ht => ?_) _ h
  exact inv_loadDeadline (inv_modRec ht fun _ => ⟨rfl, rfl, fun x => x⟩)
theorem carrier_none {s : State} {t : Nat} (h : carrier s t = Option.none) : t ∉ s.trk.list.filterMap (·.tote) := by
  intro hm
  obtain ⟨r, hr, he⟩ := List.mem_filterMap.mp hm
  have := List.find?_eq_none.mp h r hr
  simp_all
theorem linkNew_spec (q : InsertReq) (r : Rec) (t : Nat) (s : State) (h : BlockInv s) :
    BlockInv (linkNew q r t s).1 ∧ (linkNew q r t s).1.trk = s.trk ∧ (linkNew q r t s).2.1.id = r.id ∧
      (linkNew q r t s).2.1.tote = r.tote ∧ ((linkNew q r t s).2.1.role = .hole → r.role = .hole) := by
  have htrk : ∀ (n : Notice) (u : State), (notify n u).trk = u.trk := by
    intro n u; unfold notify; repeat' split
    all_goals rfl
  unfold linkNew; dsimp only; repeat' split
  all_goals simp [h, htrk]
  all_goals rfl
theorem settleNew_spec (q : InsertReq) (r : Rec) (s : State) (h : BlockInv s) (hr : r.tote = q.tote) (hrole : r.role = q.role) :
    BlockInv (settleNew q r s).1 ∧ (settleNew q r s).1.trk = s.trk ∧ (settleNew q r s).2.1.id = r.id ∧
      (∀ t, (settleNew q r s).2.1.tote = some t → t ∉ s.trk.list.filterMap (·.tote)) ∧
      ((settleNew q r s).2.1.role = .hole → q.role = .hole) := by
  unfold settleNew; split
  · rename_i hq; exact ⟨h, rfl, rfl, by simp [hr, hq], by simp [hrole]⟩
  · rename_i t hq
    split
    · refine ⟨h, rfl, rfl, by simp, ?_⟩
      dsimp only; split <;> simp
    · rename_i hc
      have hc' : carrier s t = Option.none := by simpa using hc
      split
      · have hl := linkNew_spec q r t s h
        refine ⟨hl.1, hl.2.1, hl.2.2.1, ?_, fun x => hrole ▸ hl.2.2.2.2 x⟩
        intro u hu
        rw [hl.2.2.2.1, hr, hq] at hu
        obtain rfl := Option.some.inj hu
        exact carrier_none hc'
      · refine ⟨h, rfl, rfl, ?_, fun x => hrole ▸ x⟩
        intro u hu
        rw [hr, hq] at hu
        obtain rfl := Option.some.inj hu
        exact carrier_none hc'
@[simp] theorem inv_insertRec {q : InsertReq} {s : State} (h : BlockInv s) : BlockInv (insertRec q s).1 := by
  unfold insertRec; dsimp only; split
  · exact h
  · rename_i hsize
    split
    · exact h
    · rename_i hhole
      have hs := settleNew_spec q (q.record s.trk.nextId (normAnchor s (q.stamp - q.point))) s h rfl rfl
      have h2 : BlockInv ((settleNew q (q.record s.trk.nextId (normAnchor s (q.stamp - q.point))) s).1.setTrk
          { (settleNew q (q.record s.trk.nextId (normAnchor s (q.stamp - q.point))) s).1.trk with
            list := seatIn (settleNew q (q.record s.trk.nextId (normAnchor s (q.stamp - q.point))) s).2.1
              (settleNew q (q.record s.trk.nextId (normAnchor s (q.stamp - q.point))) s).1.trk.list,
            nextId := s.trk.nextId + 1 }) := by
        refine inv_setTrk hs.1 (h.trk.insert
          (r := (settleNew q (q.record s.trk.nextId (normAnchor s (q.stamp - q.point))) s).2.1)
          ?_ (by omega) hs.2.2.2.1 ?_ ?_ ?_)
        · exact hs.2.2.1
        · intro hr
          have hq := hs.2.2.2.2 hr
          rw [List.countP_eq_zero]
          intro z hz hz'
          exact hhole ⟨hq, List.any_eq_true.mpr ⟨z, hz, by simpa using hz'⟩⟩
        · rw [hs.2.1]
        · rfl
      split
      · exact inv_listChange h2
      · exact inv_shadowRecheck (inv_planReq (inv_listChange (inv_loadDeadline h2)))

end Sys2Proof.Machine
end

