-- ==== Sys2Proof/Laws/LaneLaws.lean ====
section
/-! SUPPORT. What a lane update leaves in the lane table; the operations of lanes, sightings and frames keep the invariant. -/

namespace Sys2Proof.Machine

/-! ## The lane table -/

@[simp] theorem lan_notify (n : Notice) (s : State) : (notify n s).lan = s.lan := by
  unfold notify; repeat' split
  all_goals rfl
@[simp] theorem lan_placeControl (c : Ctl) (s : State) : (placeControl c s).lan = s.lan := by
  unfold placeControl; dsimp only; split <;> rfl
@[simp] theorem lan_settleEntry (r : Rec) (x : EntryFate) (s : State) : (settleEntry r x s).lan = s.lan := by
  unfold settleEntry; repeat' split
  all_goals rfl
theorem lan_of_planCore {s t : State} (h : t.planCore = s.planCore) : t.lan = s.lan := by
  simp only [State.planCore, Prod.mk.injEq] at h
  exact h.2.2.2.1
@[simp] theorem lan_withdrawLane (g : Nat) (s : State) : (withdrawLane g s).lan = s.lan := lan_of_planCore (planCore_withdrawLane g s)
@[simp] theorem lan_planLane (g : Nat) (s : State) : (planLane g s).lan = s.lan := lan_of_planCore (planCore_planLane g s)
@[simp] theorem lan_detach (id : Nat) (s : State) : (detach id s).st.lan = s.lan := lan_of_planCore (planCore_detach id s)
@[simp] theorem lan_finishDetach (l : List Nat) (p : Planned) (s : State) : (finishDetach l p s).lan = s.lan :=
  lan_of_planCore (planCore_finishDetach l p s)
@[simp] theorem lan_notifySome (n : Option Notice) (s : State) : (notifySome n s).lan = s.lan := by
  unfold notifySome; split <;> simp
@[simp] theorem lan_indLook (s : State) : (indLook s).lan = s.lan := rfl
@[simp] theorem lan_mrgLook (s : State) : (mrgLook s).lan = s.lan := rfl
@[simp] theorem lan_runIdle (s : State) : (runIdle s).lan = s.lan := by
  unfold runIdle; repeat' split
  all_goals rfl
@[simp] theorem lan_reexamine (s : State) : (reexamine s).lan = s.lan := by
  unfold reexamine; dsimp only; repeat' split
  all_goals simp
@[simp] theorem lan_listChange (s : State) : (listChange s).lan = s.lan := by simp [listChange]
@[simp] theorem lan_enterState (n : RunState) (r : Option Rule) (c : StateCause) (s : State) :
    (enterState n r c s).lan = s.lan := by simp [enterState]
@[simp] theorem lan_lapCheck (s : State) : (lapCheck s).lan = s.lan := by
  unfold lapCheck endLap; dsimp only; repeat' split
  all_goals simp
@[simp] theorem lan_removeRec (id : Nat) (x : EntryFate) (s : State) : (removeRec id x s).lan = s.lan := by
  unfold removeRec; dsimp only; split <;> simp

theorem laneOf_of_lan {s t : State} (h : t.lan = s.lan) (n : Nat) : laneOf t n = laneOf s n := by unfold laneOf; rw [h]

/-- A lane after a change of its fields. -/
theorem laneOf_modLane_same (n : Nat) (f : Lane → Lane) (s : State) (hn : n < Config.lanes) :
    laneOf (modLane n f s) n = f (laneOf s n) := by
  unfold laneOf modLane; exact vget_vset_same _ _ _ _ hn

theorem laneOf_modLane_ne (n m : Nat) (f : Lane → Lane) (s : State) (hm : m ≠ n) :
    laneOf (modLane n f s) m = laneOf s m := by
  unfold laneOf modLane; exact vget_vset_ne _ _ _ _ _ hm.symm

theorem laneOf_modLane_beyond (n m : Nat) (f : Lane → Lane) (s : State) (hn : Config.lanes ≤ n) :
    laneOf (modLane n f s) m = laneOf s m := by
  unfold laneOf modLane
  simp only [State.setLan_fields]
  rw [vset_beyond _ _ _ hn]

/-- The lamp command last sent after a lane has changed (R118, R125). -/
def lampAfter (s : State) (n : Nat) (new : Lane) : Bool :=
  if (laneOf s n).full ≠ new.full ∧ (gateRec s n).isSome then new.full else new.lampOn

theorem vset_vset {α : Type} {n : Nat} (v : Vector α n) (i : Nat) (x y : α) : vset (vset v i x) i y = vset v i y := by
  apply Vector.toList_inj.mp
  simp [vset, Vector.toList]

theorem lan_sendLamp (n : Nat) (b : Bool) (s : State) : (sendLamp n b s).lan =
    if (gateRec s n).isSome then (modLane n (fun l => { l with lampOn := b }) s).lan else s.lan := by
  unfold sendLamp; split
  · rename_i d hd
    simp only [hd, Option.isSome_some, if_true]
    unfold modLane laneOf
    simp
  · rename_i hd; simp [hd]

/-- What a lane update leaves in the lane table: the new lane, its reported state computed, its lamp following FULL. -/
theorem lan_laneUpdate (n : Nat) (f : Lane → Lane) (s : State) :
    (laneUpdate n f s).lan =
      (modLane n (fun l => { f l with reported := (f l).computed, lampOn := lampAfter s n (f l) }) s).lan := by
  have hg : ∀ g, gateRec (modLane n g s) n = gateRec s n := fun _ => rfl
  unfold laneUpdate lampAfter
  simp only [apply_ite State.lan, lan_withdrawLane, lan_notify, lan_planLane, ite_self, lan_sendLamp, hg]
  by_cases hf : (laneOf s n).full = (f (laneOf s n)).full
  · simp [hf, modLane]
  · by_cases hd : (gateRec s n).isSome
    · by_cases hn : n < Config.lanes
      · have := laneOf_modLane_same n (fun _ => { f (laneOf s n) with reported := (f (laneOf s n)).computed }) s hn
        simp only [hf, hd, if_true, if_false]
        unfold modLane at this ⊢
        simp only [State.setLan_fields, vset_vset, this]
        simp [hf]
      · simp only [hf, hd, if_true, if_false, ne_eq]
        unfold modLane
        simp only [State.setLan_fields]
        rw [vset_beyond _ _ _ (Nat.le_of_not_lt hn), vset_beyond _ _ _ (Nat.le_of_not_lt hn)]
        rw [vset_beyond _ _ _ (Nat.le_of_not_lt hn)]
    · simp [hf, hd, modLane]

/-- A lane after a lane update. -/
theorem laneOf_laneUpdate (n : Nat) (f : Lane → Lane) (s : State) (hn : n < Config.lanes) :
    laneOf (laneUpdate n f s) n =
      { f (laneOf s n) with reported := (f (laneOf s n)).computed, lampOn := lampAfter s n (f (laneOf s n)) } := by
  rw [laneOf_of_lan (lan_laneUpdate n f s), laneOf_modLane_same _ _ _ hn]

/-- The other lanes after a lane update. -/
theorem laneOf_laneUpdate_ne (n m : Nat) (f : Lane → Lane) (s : State) (hm : m ≠ n) :
    laneOf (laneUpdate n f s) m = laneOf s m := by
  rw [laneOf_of_lan (lan_laneUpdate n f s), laneOf_modLane_ne _ _ _ _ hm]

/-! ## The invariant -/

theorem inv_lan {s t : State} (h : BlockInv s) (hl : t.lan = s.lan) : ∀ l ∈ t.lan.lanes.toList, LaneOk l := hl ▸ h.lanes

@[simp] theorem computed_same (l : Lane) (b : Bool) (r : LaneState) :
    ({ l with reported := r, lampOn := b } : Lane).computed = l.computed := rfl

/-- A lane update keeps the invariant when the new lane is in its ranges. -/
theorem inv_laneUpdate {n : Nat} {f : Lane → Lane} {s : State} (h : BlockInv s) (hocc : (f (laneOf s n)).occ ≤ 15)
    (hstreak : (f (laneOf s n)).streak ≤ 2) (hverify : (f (laneOf s n)).verify.length ≤ Config.maxVerify) :
    BlockInv (laneUpdate n f s) := by
  have h1 : BlockInv (modLane n (fun _ => { f (laneOf s n) with reported := (f (laneOf s n)).computed }) s) :=
    inv_modLane h ⟨hocc, hstreak, hverify, rfl⟩
  unfold laneUpdate; dsimp only; repeat' split
  all_goals simp (maxDischargeDepth := 20) [h1]

theorem satInc_le {cap x : Nat} : satInc cap x ≤ cap := by unfold satInc; split <;> omega

@[simp] theorem inv_raiseOccupancy {n : Nat} {s : State} (h : BlockInv s) : BlockInv (raiseOccupancy n s) :=
  inv_laneUpdate h satInc_le (laneOf_ok h n).streak (laneOf_ok h n).verify

theorem verify_laneUpdate (n m : Nat) (f : Lane → Lane) (s : State) (hf : (f (laneOf s n)).verify = (laneOf s n).verify) :
    (laneOf (laneUpdate n f s) m).verify = (laneOf s m).verify := by
  by_cases hm : m = n
  · subst hm
    by_cases hn : m < Config.lanes
    · rw [laneOf_laneUpdate _ _ _ hn]; exact hf
    · rw [laneOf_of_lan (lan_laneUpdate m f s), laneOf_modLane_beyond _ _ _ _ (Nat.le_of_not_lt hn)]
  · rw [laneOf_laneUpdate_ne _ _ _ _ hm]

@[simp] theorem inv_deliver {n id : Nat} {c l : Bool} {s : State} (h : BlockInv s) : BlockInv (deliver n id c l s) := by
  unfold deliver; split
  · exact h
  · rename_i r _
    have h1 := inv_removeRec (id := id) (x := deliveryFate n r) h
    have h2 := laneOf_ok h1 n
    exact inv_notify (inv_modLane h1 ⟨h2.1, h2.2, h2.3, h2.4⟩)

@[simp] theorem verify_deliver (n id m : Nat) (c l : Bool) (s : State) :
    (laneOf (deliver n id c l s) m).verify = (laneOf s m).verify := by
  unfold deliver; split
  · rfl
  · rw [laneOf_of_lan (lan_notify _ _)]
    by_cases hm : m = n
    · subst hm
      by_cases hn : m < Config.lanes
      · rw [laneOf_modLane_same _ _ _ hn, laneOf_of_lan (lan_removeRec _ _ _)]
      · rw [laneOf_modLane_beyond _ _ _ _ (Nat.le_of_not_lt hn), laneOf_of_lan (lan_removeRec _ _ _)]
    · rw [laneOf_modLane_ne _ _ _ _ hm, laneOf_of_lan (lan_removeRec _ _ _)]

theorem deliverUnconfirmed_spec {n : Nat} {e : VerifyEntry} {s : State} (h : BlockInv s) :
    BlockInv (deliverUnconfirmed n e s) ∧ (n < Config.lanes →
      (laneOf (deliverUnconfirmed n e s) n).verify = (laneOf s n).verify.filter fun x => x.who ≠ e.who) := by
  have h2 := laneOf_ok h n
  have h1 : BlockInv (modLane n (fun l => { l with verify := l.verify.filter fun x => x.who ≠ e.who }) s) :=
    inv_modLane h ⟨h2.1, h2.2, Nat.le_trans (List.length_filter_le _ _) h2.3, h2.4⟩
  refine ⟨inv_deliver (inv_raiseOccupancy h1), fun hn => ?_⟩
  unfold deliverUnconfirmed raiseOccupancy
  rw [verify_deliver, verify_laneUpdate _ _ _ _ rfl, laneOf_modLane_same _ _ _ hn]

@[simp] theorem inv_deliverUnconfirmed {n : Nat} {e : VerifyEntry} {s : State} (h : BlockInv s) :
    BlockInv (deliverUnconfirmed n e s) := (deliverUnconfirmed_spec h).1

@[simp] theorem inv_takeEntry {n : Nat} {s : State} (h : BlockInv s) : BlockInv (takeEntry n s) := by
  have h1 := inv_raiseOccupancy (n := n) h
  have h2 := laneOf_ok h1 n
  unfold takeEntry; dsimp only; split
  · rename_i e es he
    refine inv_deliver (inv_modLane h1 ⟨h2.1, by simp, ?_, h2.4⟩)
    have := h2.3; rw [he] at this; simp at this ⊢; omega
  · exact inv_notify (inv_modLane h1 ⟨h2.1, h2.2, h2.3, h2.4⟩)

@[simp] theorem inv_enterVerify {n : Nat} {c : Int} {l : Bool} {s : State} {id : Nat} (h : BlockInv s) :
    BlockInv (enterVerify n c l s id) := by
  have h2 := laneOf_ok h n
  have key : ∀ s1 : State, BlockInv s1 → (n < Config.lanes → (laneOf s1 n).verify.length < Config.maxVerify) →
      BlockInv (match findRec s1 id with
        | Option.none => s1
        | some r =>
            if r.st = .unsure ∨ r.st = .verifying then s1
            else
              modLane n (fun l' => { l' with verify := l'.verify ++ [⟨id, c + l'.cfg.ev, l⟩] }) (modRec id
                (fun x => { x with st := .verifying, deadline := Option.none, expected := Option.none, dest := some n }) s1)) := by
    intro s1 h1 hv
    split
    · exact h1
    · split
      · exact h1
      · have h3 := inv_modRec (id := id) (f := fun x : Rec =>
            { x with st := .verifying, deadline := Option.none, expected := Option.none, dest := some n }) h1
            fun _ => ⟨rfl, rfl, fun x => x⟩
        have h4 := laneOf_ok h3 n
        by_cases hn : n < Config.lanes
        · refine inv_modLane h3 ⟨h4.1, h4.2, ?_, h4.4⟩
          simp only [List.length_append, List.length_singleton]
          exact hv hn
        · refine inv_setLan h3 ?_
          rw [vset_beyond _ _ _ (Nat.le_of_not_lt hn)]; exact h3.lanes
  unfold enterVerify; dsimp only
  refine key _ ?_ ?_
  · repeat' split
    all_goals simp [h]
  · intro hn
    split
    · rename_i e es he
      have := h2.3; rw [he] at this
      simp only [List.length_cons] at this
      split
      · rw [(deliverUnconfirmed_spec h).2 hn, he]
        refine Nat.lt_of_le_of_lt (m := es.length) ?_ this
        simp only [ne_eq, not_true_eq_false, decide_false, Bool.false_eq_true, not_false_eq_true,
          List.filter_cons_of_neg]
        exact List.length_filter_le _ _
      · rw [he]; simp only [List.length_cons]; omega
    · rename_i he; rw [he]; decide

@[simp] theorem inv_applyLapLimit {id : Nat} {s : State} (h : BlockInv s) : BlockInv (applyLapLimit id s) := by
  unfold applyLapLimit; repeat' split
  all_goals simp (maxDischargeDepth := 20) [h]

@[simp] theorem inv_failedDivert {id : Nat} {s : State} (h : BlockInv s) : BlockInv (failedDivert id s) := by
  unfold failedDivert; dsimp only; split
  · rename_i n e r hv hr
    have h2 := laneOf_ok h n
    have h1 : BlockInv (modLane n (fun l => { l with verify := l.verify.filter fun x => x.who ≠ id }) s) :=
      inv_modLane h ⟨h2.1, h2.2, Nat.le_trans (List.length_filter_le _ _) h2.3, h2.4⟩
    have h3 := inv_modRec (id := id) (f := fun x : Rec =>
      { x with st := .riding, laps := satInc 15 x.laps, dest := some (destAfterFail s r) }) h1 fun _ => ⟨rfl, rfl, fun x => x⟩
    have h4 := laneOf_ok h3 n
    refine inv_applyLapLimit ?_
    have h5 := inv_laneUpdate (n := n) (f := fun l =>
        { l with failed := satInc counterMax l.failed, streak := satInc 2 l.streak
                 faulted := if satInc 2 l.streak = 2 ∧ l.faulted.isNone then some .divert else l.faulted })
        h3 h4.1 satInc_le h4.3
    split
    · exact inv_notify h5
    · exact h5
  · exact h

@[simp] theorem inv_handOver {id : Nat} {s : State} (h : BlockInv s) : BlockInv (handOver id s) := by
  unfold handOver; repeat' split
  all_goals simp (maxDischargeDepth := 20) [h]

@[simp] theorem inv_relocate {id : Nat} {x : Int} {p i : Nat} {s : State} (h : BlockInv s) : BlockInv (relocate id x p i s) := by
  unfold relocate; dsimp only; split
  · exact h
  · have h3 := inv_matchDeadline (id := id) (p := p) (x := x) (inv_detach (id := id)
      (inv_reseat (id := id) (a := normAnchor (handOver id s) (x - p)) (inv_handOver (id := id) h)))
    exact inv_shadowRecheck (inv_finishDetach (inv_listChange (inv_notify
      (inv_setTrk h3 ⟨h3.trk.1, h3.trk.2, h3.trk.3, h3.trk.4, h3.trk.5⟩))))

@[simp] theorem inv_gateFault {g : Nat} {c : GateCause} {s : State} (h : BlockInv s) : BlockInv (gateFault g c s) := by
  unfold gateFault; dsimp only; split
  · exact h
  · rename_i x _
    have h1 := inv_setGate (g := g) (x := { x with st := .fault, timer := Option.none, cause := c, recovery := false }) h
    have h2 := laneOf_ok h1 g
    exact inv_reportFault (by simp) (inv_notify (inv_laneUpdate h1 h2.1 h2.2 h2.3))
@[simp] theorem inv_clearFaulted {n : Nat} {s : State} (h : BlockInv s) : BlockInv (clearFaulted n s) := by
  have h2 := laneOf_ok h n
  exact inv_laneUpdate h h2.1 h2.2 h2.3

end Sys2Proof.Machine
end

