-- ==== Sys2Proof/Laws/RowLaws.lean ====
section
/-! SUPPORT. The sightings, the points, the timers and the station frames keep the invariant of the blocks. -/

namespace Sys2Proof.Machine

/-! ## Sightings -/

@[simp] theorem inv_clearDoubt {id : Nat} {s : State} (h : BlockInv s) : BlockInv (clearDoubt id s) := by
  unfold clearDoubt; dsimp only; split
  · exact h
  · exact inv_modRec h fun _ => ⟨rfl, rfl, fun x => x⟩
@[simp] theorem inv_sizeCheck {id : Nat} {s : State} (h : BlockInv s) : BlockInv (sizeCheck id s) := by
  unfold sizeCheck; dsimp only; repeat' split
  all_goals simp (maxDischargeDepth := 20) [h]
@[simp] theorem inv_setLength {id : Nat} {l : Option Nat} {s : State} (h : BlockInv s) : BlockInv (setLength id l s) := by
  unfold setLength; split
  · exact inv_sizeCheck (inv_modRec h fun _ => ⟨rfl, rfl, fun x => x⟩)
  · exact h
@[simp] theorem inv_matchRead {id : Nat} {d : Int} {x : Sighting} {s : State} (h : BlockInv s) :
    BlockInv (matchRead id d x s) := by simp (maxDischargeDepth := 20) [matchRead, h]
@[simp] theorem inv_takeDoubt {id : Nat} {x : Sighting} {s : State} (h : BlockInv s) : BlockInv (takeDoubt id x s) := by
  unfold takeDoubt; dsimp only; repeat' split
  all_goals first
    | exact h
    | exact inv_notify (inv_modRec h fun _ => ⟨rfl, rfl, fun x => x⟩)
    | exact inv_modRec h fun _ => ⟨rfl, rfl, fun x => x⟩
@[simp] theorem inv_matchNoread {id : Nat} {d : Int} {x : Sighting} {s : State} (h : BlockInv s) :
    BlockInv (matchNoread id d x s) := by simp (maxDischargeDepth := 20) [matchNoread, h]
@[simp] theorem inv_countStray {s : State} (h : BlockInv s) : BlockInv (countStray s) := inv_setSgt h
@[simp] theorem inv_reportPhantom {x : Sighting} {s : State} (h : BlockInv s) : BlockInv (reportPhantom x s) :=
  inv_notify (inv_setSgt h)
theorem inv_sightInsert {x : Sighting} {r : Role} {w : Reason} {f : State → State} {s : State} (h : BlockInv s)
    (hf : ∀ t, BlockInv t → BlockInv (f t)) : BlockInv (sightInsert x r w f s).1 := by
  have h1 := inv_insertRec (q := sightingReq x r w) h
  unfold sightInsert
  split
  · rename_i he; rw [he] at h1; exact inv_notify h1
  · rename_i he; rw [he] at h1; exact hf _ h1
@[simp] theorem inv_sightNew {x : Sighting} {s : State} (h : BlockInv s) : BlockInv (sightNew x s).1 := by
  unfold sightNew
  split
  · exact h
  · split
    · split
      · exact inv_sightInsert h fun _ ht => ht
      · exact inv_sightInsert h fun _ ht => inv_notify (inv_countStray ht)
    · exact inv_sightInsert h fun _ ht => inv_reportPhantom ht

/-- A record with no number takes a number that no record carries (R18, R52). -/
theorem inv_takeNumber {r : Rec} {t : Nat} {s : State} (h : BlockInv s) (hr : r ∈ s.trk.list) (hn : r.tote = Option.none)
    (hc : carrier s t = Option.none) : BlockInv (modRec r.id (fun y => { y with tote := some t }) s) := by
  have ht := h.trk
  let f : Rec → Rec := fun z => if z.id = r.id then { z with tote := some t } else z
  have hp := ht.split hr
  have hrest : (s.trk.list.filter fun y => y.id ≠ r.id).map f = s.trk.list.filter fun y => y.id ≠ r.id := by
    refine (List.map_congr_left fun z hz => ?_).trans (List.map_id _)
    have : z.id ≠ r.id := by simpa using (List.mem_filter.mp hz).2
    simp [f, this]
  have hid : (s.trk.list.map f).map (·.id) = s.trk.list.map (·.id) := by
    rw [List.map_map]; refine List.map_congr_left fun z _ => ?_
    simp only [Function.comp, f]; split <;> rfl
  refine inv_setTrk h ⟨by simpa using ht.size, ?_, ?_, hid ▸ ht.ids, ?_⟩
  · show List.countP _ (s.trk.list.map f) ≤ 1
    rw [List.countP_map]
    refine Nat.le_trans (Nat.le_of_eq (List.countP_congr fun z _ => ?_)) ht.hole
    simp only [Function.comp, f]; split <;> rfl
  · show ((s.trk.list.map f).filterMap (·.tote)).Nodup
    have h1 := (hp.map f).filterMap (·.tote)
    rw [List.map_cons, hrest] at h1
    rw [h1.nodup_iff, List.filterMap_cons]
    have h2 := (hp.filterMap (·.tote)).nodup_iff.mp ht.totes
    rw [List.filterMap_cons, hn] at h2
    simp only [f, if_true, List.nodup_cons]
    refine ⟨fun hm => carrier_none hc ?_, h2⟩
    exact (List.filter_sublist.filterMap _).subset hm
  · intro z hz
    obtain ⟨y, hy, rfl⟩ := List.mem_map.mp hz
    have := ht.given y hy
    split <;> exact this

theorem nearest_spec {s : State} {x : Sighting} {p : Rec → Bool} {r : Rec} (h : nearest s x p = some r) :
    r ∈ s.trk.list ∧ r.isTote = true ∧ p r = true ∧ within s x s.params.window r = true := by
  have key : ∀ (l : List Rec) (b : Option Rec) (r : Rec),
      l.foldl (fun best r => match best with
        | some b => if (diffAt s x r).natAbs < (diffAt s x b).natAbs then some r else best
        | Option.none => some r) b = some r → r ∈ l ∨ b = some r := by
    intro l
    induction l with
    | nil => intro b r hb; exact Or.inr hb
    | cons a l ih =>
      intro b r hb
      rw [List.foldl_cons] at hb
      rcases ih _ r hb with h1 | h1
      · exact Or.inl (List.mem_cons_of_mem _ h1)
      · split at h1
        · split at h1
          · exact Or.inl (Option.some.inj h1 ▸ List.mem_cons_self)
          · exact Or.inr h1
        · exact Or.inl (Option.some.inj h1 ▸ List.mem_cons_self)
  rcases key _ _ _ h with h1 | h1
  · rw [List.mem_filter] at h1
    simp only [Bool.and_eq_true] at h1
    exact ⟨h1.1, h1.2.1.1, h1.2.1.2, h1.2.2⟩
  · simp at h1

@[simp] theorem inv_resolve {x : Sighting} {s : State} (h : BlockInv s) : BlockInv (resolve x s).1 := by
  unfold resolve; repeat' split
  · simp (maxDischargeDepth := 20) [h]
  · simp (maxDischargeDepth := 20) [h]
  · rename_i hc _ r hr
    have hs := nearest_spec hr
    exact inv_matchRead (inv_takeNumber h hs.1 (by simpa using hs.2.2.1) hc)
  · simp [h]
  · simp [h]
  · simp [h]
@[simp] theorem inv_endWindow {i : Nat} {w : ReaderWindow} {s : State} (h : BlockInv s) : BlockInv (endWindow i w s) := by
  unfold endWindow; dsimp only; repeat' split
  all_goals simp [h]
@[simp] theorem inv_countSighting {x : Sighting} {s : State} (h : BlockInv s) : BlockInv (countSighting x s) := by
  unfold countSighting; dsimp only; repeat' split
  all_goals simp [h]
@[simp] theorem inv_crowdOne {id : Nat} {s : State} (h : BlockInv s) : BlockInv (crowdOne id s) := by
  have h1 : BlockInv (modRec id (fun x => { x with crowded := true }) s) := inv_modRec h fun _ => ⟨rfl, rfl, fun x => x⟩
  unfold crowdOne; dsimp only; repeat' split
  · exact h
  · exact h
  · exact h1
  · exact inv_roleToReturn h1
@[simp] theorem inv_crowdPair {i g : Nat} {p c : Option Nat} {s : State} (h : BlockInv s) : BlockInv (crowdPair i g p c s) :=
  inv_notify (foldl_inv (fun _ _ ht => inv_crowdOne ht) _ h)
@[simp] theorem inv_modEye {i : Nat} {f : Eye → Eye} {s : State} (h : BlockInv s) : BlockInv (modEye i f s) := by
  unfold modEye; split <;> simp [h]
@[simp] theorem inv_resolvePass {i : Nat} {e : Eye} {r l : Option Nat} {s : State} (h : BlockInv s) :
    BlockInv (resolvePass i e r l s).1 := by
  unfold resolvePass; dsimp only; split <;> simp (maxDischargeDepth := 20) [h]
@[simp] theorem inv_openPass {i x : Nat} {s : State} (h : BlockInv s) : BlockInv (openPass i x s) := by simp [openPass, h]
@[simp] theorem inv_takeLead {i x : Nat} {s : State} (h : BlockInv s) : BlockInv (takeLead i x s) := by
  unfold takeLead; dsimp only; repeat' split
  all_goals simp (maxDischargeDepth := 20) [h]
@[simp] theorem inv_deliverLength {id l : Nat} {s : State} (h : BlockInv s) : BlockInv (deliverLength id l s) := by
  unfold deliverLength; repeat' split
  all_goals simp (maxDischargeDepth := 20) [h]
@[simp] theorem inv_takeTrail {i x : Nat} {s : State} (h : BlockInv s) : BlockInv (takeTrail i x s) := by
  unfold takeTrail; dsimp only; repeat' split
  all_goals simp (maxDischargeDepth := 20) [h]
@[simp] theorem inv_takeTag {i x : Nat} {r : Option Nat} {s : State} (h : BlockInv s) : BlockInv (takeTag i x r s) := by
  unfold takeTag; dsimp only; repeat' split
  all_goals simp (maxDischargeDepth := 20) [h]
@[simp] theorem inv_takeTagLimit {i : Nat} {s : State} (h : BlockInv s) : BlockInv (takeTagLimit i s) := by
  unfold takeTagLimit; split <;> simp (maxDischargeDepth := 20) [h]

/-! ## Points -/

@[simp] theorem inv_originPoint {id : Nat} {s : State} (h : BlockInv s) : BlockInv (originPoint id s) := by
  unfold originPoint; split
  · exact inv_whenDue h (foldl_inv (fun _ _ ht => inv_passOrigin ht) _ h)
  · exact h
@[simp] theorem inv_moveDeadlineOn {r : Rec} {s : State} (h : BlockInv s) : BlockInv (moveDeadlineOn r s) :=
  inv_modRec h fun _ => ⟨rfl, rfl, fun x => x⟩
@[simp] theorem inv_deadlinePoint {id : Nat} {s : State} (h : BlockInv s) : BlockInv (deadlinePoint id s) := by
  unfold deadlinePoint; split
  · refine inv_whenDue h ?_
    split
    · simp [h]
    · exact inv_loseRec (inv_modRec h fun _ => ⟨rfl, rfl, fun x => x⟩)
  · exact h
theorem inv_passBy {r : Rec} {s : State} (h : BlockInv s) (hr : r ∈ s.trk.list) : BlockInv (passBy r s) := by
  unfold passBy; dsimp only
  have h1 : BlockInv (modRec r.id (fun _ => { r with laps := satInc 15 r.laps, watch := Option.none }) s) :=
    inv_modRec_of h fun z hz he => by
      have := h.trk.unique hz hr he
      subst this; exact ⟨rfl, rfl, fun x => x⟩
  have h2 := inv_setFpl (x := ⟨s.fpl.queues, vset s.fpl.misses (r.dest.getD 0)
      (satInc counterMax (vget s.fpl.misses (r.dest.getD 0) 0))⟩) h1 h1.fires
  repeat' split
  · exact inv_applyLapLimit (inv_notify h2)
  · exact inv_planReq (inv_notify h2)
  · exact inv_planReq (inv_notify h2)
@[simp] theorem inv_watchPoint {id : Nat} {s : State} (h : BlockInv s) : BlockInv (watchPoint id s) := by
  unfold watchPoint; split
  · rename_i r hr
    refine inv_whenDue h ?_
    split
    · exact inv_modRec h fun _ => ⟨rfl, rfl, fun x => x⟩
    · exact inv_passBy h (findRec_mem hr).1
  · exact h
@[simp] theorem inv_jamDue {i : Nat} {s : State} (h : BlockInv s) : BlockInv (jamDue i s) := by
  unfold jamDue; split
  · exact inv_whenDue h (inv_reportFault (by simp) (inv_setEye h))
  · exact h
@[simp] theorem inv_tagLimitDue {i : Nat} {s : State} (h : BlockInv s) : BlockInv (tagLimitDue i s) := by
  unfold tagLimitDue; split
  · exact inv_whenDue h (inv_takeTagLimit h)
  · exact h
theorem modFirst_length (p : Fire → Bool) (f : Fire → Fire) (l : List Fire) : (modFirst p f l).length = l.length := by
  induction l with
  | nil => rfl
  | cons x xs ih => unfold modFirst; split <;> simp [ih]
theorem dropFirst_length (p : Fire → Bool) (l : List Fire) : (dropFirst p l).length ≤ l.length := by
  induction l with
  | nil => simp [dropFirst]
  | cons x xs ih => unfold dropFirst; split <;> simp [ih]
@[simp] theorem inv_openStartPoint {g : Nat} {s : State} (h : BlockInv s) : BlockInv (openStartPoint g s) := by
  unfold openStartPoint; split
  · exact inv_openForFire (inv_setQueue h (by rw [modFirst_length]; exact queueOf_length h g))
  · exact h
@[simp] theorem inv_checkFirePoint {g : Nat} {s : State} (h : BlockInv s) : BlockInv (checkFirePoint g s) := by
  unfold checkFirePoint; dsimp only; split
  · have h1 := inv_setQueue (g := g) (q := modFirst (checksNow s)
      (fun y => { y with checked := true, lateGate := y.lateGate || !decide ((by assumption : Gate).st = .opened) }) (queueOf s g)) h
      (by rw [modFirst_length]; exact queueOf_length h g)
    split
    · exact h1
    · exact inv_notify h1
  · exact h
@[simp] theorem inv_closeStartPoint {g : Nat} {s : State} (h : BlockInv s) : BlockInv (closeStartPoint g s) := by
  unfold closeStartPoint; dsimp only; split
  · exact h
  · rename_i x _
    have h1 := inv_setQueue (g := g) (q := dropFirst (closesNow s) (queueOf s g)) h
      (Nat.le_trans (dropFirst_length _ _) (queueOf_length h g))
    have h2 := inv_setQueue (g := g) (q := modFirst (closesNow s) (fun y => { y with st := .closing }) (queueOf s g)) h
      (by rw [modFirst_length]; exact queueOf_length h g)
    have h3 : BlockInv ((inBeltOrder s x.members).foldl (enterVerify g x.c x.lateGate)
        (setQueue g (modFirst (closesNow s) (fun y => { y with st := .closing }) (queueOf s g)) s)) :=
      foldl_inv (fun _ _ ht => inv_enterVerify ht) _ h2
    repeat' split
    all_goals simp [h1, h3]
@[simp] theorem inv_endFirePoint {g : Nat} {s : State} (h : BlockInv s) : BlockInv (endFirePoint g s) :=
  inv_setQueue h (Nat.le_trans (dropFirst_length _ _) (queueOf_length h g))
@[simp] theorem inv_verifyPoint {n : Nat} {s : State} (h : BlockInv s) : BlockInv (verifyPoint n s) := by
  unfold verifyPoint; split <;> simp [h]
@[simp] theorem inv_releaseDue {s : State} (h : BlockInv s) : BlockInv (releaseDue s) := by
  unfold releaseDue; refine inv_whenDue h ?_
  dsimp only; repeat' split
  all_goals simp (maxDischargeDepth := 20) [h]
@[simp] theorem inv_confirmDue {s : State} (h : BlockInv s) : BlockInv (confirmDue s) := by
  unfold confirmDue; split
  · exact inv_whenDue h (by simp (maxDischargeDepth := 20) [h])
  · exact h
@[simp] theorem inv_holeDue {s : State} (h : BlockInv s) : BlockInv (holeDue s) := by
  unfold holeDue; split
  · refine inv_whenDue h ?_
    dsimp only; split <;> simp (maxDischargeDepth := 20) [h]
  · exact h
@[simp] theorem inv_mergeGo {b : Bool} {s : State} (h : BlockInv s) : BlockInv (mergeGo b s) := by
  unfold mergeGo; dsimp only; split <;> simp (maxDischargeDepth := 20) [h]
@[simp] theorem inv_mergeDue {s : State} (h : BlockInv s) : BlockInv (mergeDue s) := by
  unfold mergeDue; refine inv_whenDue h ?_
  split <;> simp [h]
@[simp] theorem inv_mergeConfirmDue {s : State} (h : BlockInv s) : BlockInv (mergeConfirmDue s) := by
  unfold mergeConfirmDue; split
  · exact inv_whenDue h (by simp (maxDischargeDepth := 20) [h])
  · exact h
@[simp] theorem inv_removeHole {s : State} (h : BlockInv s) : BlockInv (removeHole s) := by
  unfold removeHole; split <;> simp [h]
@[simp] theorem inv_arrivalDue {s : State} (h : BlockInv s) : BlockInv (arrivalDue s) := by
  unfold arrivalDue; refine inv_whenDue h ?_
  dsimp only; split <;> simp (maxDischargeDepth := 20) [h]
@[simp] theorem inv_recomputeGap {s : State} (h : BlockInv s) : BlockInv (recomputeGap s) := by
  unfold recomputeGap; dsimp only; split <;> simp (maxDischargeDepth := 20) [h]
@[simp] theorem inv_sampleDue {s : State} (h : BlockInv s) : BlockInv (sampleDue s) :=
  inv_whenDue h (by simp [h])

theorem run_of_planCore {s t : State} (h : t.planCore = s.planCore) : t.run = s.run := by
  simp only [State.planCore, Prod.mk.injEq] at h
  exact h.2.2.2.2.2.2.1
@[simp] theorem run_notify (n : Notice) (s : State) : (notify n s).run = s.run := by
  unfold notify; repeat' split
  all_goals rfl
theorem run_runIdle (s : State) : ∃ x, (runIdle s).run = { s.run with idle := x } := by
  unfold runIdle; repeat' split
  all_goals exact ⟨_, rfl⟩
/-- What a change of run state leaves in run control. -/
theorem run_enterState (new : RunState) (rule : Option Rule) (c : StateCause) (s : State) :
    (enterState new rule c s).run.st = new ∧ (enterState new rule c s).run.belt = new.beltOn ∧
      (enterState new rule c s).run.rule = rule ∧ (enterState new rule c s).run.stage = s.run.stage ∧
      (enterState new rule c s).run.endPoint = s.run.endPoint ∧ (enterState new rule c s).run.cause = s.run.cause ∧
      (enterState new rule c s).run.wake = s.run.wake ∧ (enterState new rule c s).run.asleep = s.run.asleep := by
  unfold enterState
  dsimp only
  obtain ⟨x, hx⟩ := run_runIdle (mrgLook (indLook (notify (.state s.run.st new c) (s.setRun { s.run with
      st := new, belt := new.beltOn, rule := rule,
      settle := if new = .starting then some (now s + s.params.settleDist) else Option.none,
      stall := if new.beltOn then (if s.run.st.beltOn then s.run.stall else some s.params.stallTime) else Option.none,
      park := if new = .parked ∧ s.params.parkLimit ≠ 0 then some (1000 * s.params.parkLimit) else Option.none }))))
  rw [hx]
  have : ∀ u : State, (mrgLook (indLook u)).run = u.run := fun _ => rfl
  rw [this, run_notify]
  exact ⟨rfl, rfl, rfl, rfl, rfl, rfl, rfl, rfl⟩

/-- Entering RUNNING or RESUMING from a state with the belt on. -/
theorem inv_enterMoving {new : RunState} {c : StateCause} {s : State} (h : BlockInv s) (hst : s.run.st = .starting ∨ s.run.st = .resuming)
    (hnew : new = .running ∨ new = .resuming) : BlockInv (enterState new Option.none c s) := by
  have hc := h.run.cause
  have hw := h.run.wake
  refine inv_enterState h ?_ ?_ ?_
  · rcases hnew with rfl | rfl <;> simp
  · rcases hst with hs | hs <;> rcases hnew with rfl | rfl <;> simp_all
  · rcases hst with hs | hs <;> simp_all
@[simp] theorem inv_settleDue {s : State} (h : BlockInv s) : BlockInv (settleDue s) := by
  unfold settleDue whenDue; split
  · rename_i hd
    have hst : s.run.st = .starting := h.run.settle.mp (by unfold due at hd; split at hd <;> simp_all)
    dsimp only
    split
    · exact inv_enterMoving h (Or.inl hst) (Or.inl rfl)
    · have h1 : BlockInv (enterState .resuming Option.none .settled s) := inv_enterMoving h (Or.inl hst) (Or.inr rfl)
      unfold enterResuming; dsimp only; split
      · have h2 := inv_markUnsure h1
        have h3 := h2.run
        exact inv_lapCheck (inv_setRun h2 ⟨h3.1, h3.2, h3.3, h3.4, by simp, h3.6, h3.7, h3.8, h3.9⟩)
      · exact h1
  · exact h
@[simp] theorem inv_resumeEndDue {s : State} (h : BlockInv s) : BlockInv (resumeEndDue s) := by
  unfold resumeEndDue; refine inv_whenDue h ?_
  dsimp only
  have h1 := inv_noStage h
  have h2 : BlockInv ((((s.setRun { s.run with endPoint := Option.none, stage := .none }).trk.list.filter fun r =>
      r.st = .unsure).map (·.id)).foldl (fun u id => loseRec id .resume u)
        (s.setRun { s.run with endPoint := Option.none, stage := .none })) :=
    foldl_inv (fun _ _ ht => inv_loseRec ht) _ h1
  split
  · rename_i hst; exact inv_enterMoving h2 (Or.inr hst) (Or.inl rfl)
  · exact h2

/-- A point keeps the invariant of the blocks. -/
@[simp] theorem inv_takePoint {p : Instr} {s : State} (h : BlockInv s) : BlockInv (takePoint p s) := by
  unfold takePoint; split <;> simp [h]
@[simp] theorem inv_drain {n : Nat} {s : State} (h : BlockInv s) : BlockInv (drain n s) := by
  induction n generalizing s with
  | zero => exact h
  | succ n ih => unfold drain; split <;> simp [ih, h]
@[simp] theorem inv_takeReached {s : State} (h : BlockInv s) : BlockInv (takeReached s) := by
  unfold takeReached; split <;> simp [h]

/-! ## Timers -/

@[simp] theorem inv_feedbackExpiry {g : Nat} {s : State} (h : BlockInv s) : BlockInv (feedbackExpiry g s) := by
  unfold feedbackExpiry; repeat' split
  all_goals simp [h]
@[simp] theorem inv_stallExpiry {s : State} (h : BlockInv s) : BlockInv (stallExpiry s) := by
  unfold stallExpiry; split
  · exact inv_reportFault (by simp) h
  · exact h
@[simp] theorem inv_idleExpiry {s : State} (h : BlockInv s) : BlockInv (idleExpiry s) := by
  unfold idleExpiry; split
  · rename_i hi
    have hst := h.run.idle hi
    have hc := h.run.cause
    exact inv_enterState h (by simp) (by simp_all) (by simp)
  · exact h
@[simp] theorem inv_parkExpiry {s : State} (h : BlockInv s) : BlockInv (parkExpiry s) := by
  unfold parkExpiry; split
  · rename_i hp
    have hst := h.run.park hp
    have hr := h.run
    split
    · exact inv_enterDark h (hr.rule.mpr (Or.inl hst)) hst
    · exact inv_notify (inv_setRun h ⟨hr.1, hr.2, hr.3, hr.4, hr.5, hr.6, hr.7, fun _ => hst, hr.9⟩)
  · exact h
@[simp] theorem inv_wakeExpiry {s : State} (h : BlockInv s) : BlockInv (wakeExpiry s) := by
  unfold wakeExpiry; split
  · rename_i hw
    have hst := h.run.wake hw
    have hr := h.run
    refine inv_enterState (inv_setRun h ⟨hr.1, hr.2, hr.3, hr.4, hr.5, hr.6, hr.7, hr.8, by simp⟩) (by simp) ?_ (by simp)
    have hc := hr.cause
    rcases hst with hst | hst <;> simp_all
  · exact h
@[simp] theorem inv_linkExpiry {s : State} (h : BlockInv s) : BlockInv (linkExpiry s) := by
  unfold linkExpiry; split
  · exact inv_notify (inv_indLook (inv_setCmd h))
  · exact h

/-! ## Station frames -/

@[simp] theorem inv_takeRemoval {n : Nat} {s : State} (h : BlockInv s) : BlockInv (takeRemoval n s) := by
  have hl := laneOf_ok h n
  unfold takeRemoval; split
  · exact inv_modLane h ⟨hl.1, hl.2, hl.3, hl.4⟩
  · exact inv_laneUpdate h (Nat.le_trans (Nat.sub_le _ _) hl.1) hl.2 hl.3
@[simp] theorem inv_setHalted {b : Bool} {n : Nat} {s : State} (h : BlockInv s) : BlockInv (setHalted b n s) :=
  inv_laneUpdate h (laneOf_ok h n).1 (laneOf_ok h n).2 (laneOf_ok h n).3
@[simp] theorem inv_spuriousFeedback {g : Nat} {b : Bool} {x : GateState} {s : State} (h : BlockInv s) :
    BlockInv (spuriousFeedback g b x s) := inv_notify (inv_setGtc h)
@[simp] theorem inv_takeAtOpen {g : Nat} {s : State} (h : BlockInv s) : BlockInv (takeAtOpen g s) := by
  unfold takeAtOpen; repeat' split
  all_goals simp [h]
@[simp] theorem inv_takeAtClosed {g : Nat} {s : State} (h : BlockInv s) : BlockInv (takeAtClosed g s) := by
  unfold takeAtClosed; dsimp only; repeat' split
  all_goals simp [h]
@[simp] theorem inv_takeDriveFault {g : Nat} {s : State} (h : BlockInv s) : BlockInv (takeDriveFault g s) := by
  unfold takeDriveFault; repeat' split
  all_goals simp [h]
@[simp] theorem inv_takeReady {t l : Nat} {s : State} (h : BlockInv s) : BlockInv (takeReady t l s) := by
  simp (maxDischargeDepth := 20) [takeReady, h]
@[simp] theorem inv_takeEmpty {s : State} (h : BlockInv s) : BlockInv (takeEmpty s) := by
  unfold takeEmpty; split <;> simp (maxDischargeDepth := 20) [h]
@[simp] theorem inv_confirmAnswer {o : Release} {a : Answer} {s : State} (h : BlockInv s) : BlockInv (confirmAnswer o a s) := by
  unfold confirmAnswer; split <;> simp [h]
@[simp] theorem inv_takeReleased {x : Nat} {s : State} (h : BlockInv s) : BlockInv (takeReleased x s) := by
  unfold takeReleased; dsimp only; repeat' split
  all_goals simp (maxDischargeDepth := 20) [h]
@[simp] theorem inv_takeSpurReady {t l : Nat} {s : State} (h : BlockInv s) : BlockInv (takeSpurReady t l s) := by
  unfold takeSpurReady; dsimp only; split <;> simp (maxDischargeDepth := 20) [h]
@[simp] theorem inv_insertMerged {t : Option Nat} {l x : Nat} {s : State} (h : BlockInv s) :
    BlockInv (insertMerged t l x s) := by
  unfold insertMerged; dsimp only; split <;> simp (maxDischargeDepth := 20) [h]
@[simp] theorem inv_takeMerged {x : Nat} {s : State} (h : BlockInv s) : BlockInv (takeMerged x s) := by
  unfold takeMerged; dsimp only; repeat' split
  all_goals simp (maxDischargeDepth := 20) [h]
@[simp] theorem inv_takeSpurEmpty {s : State} (h : BlockInv s) : BlockInv (takeSpurEmpty s) := by
  simp (maxDischargeDepth := 20) [takeSpurEmpty, h]

/-- A station frame keeps what its action keeps. -/
theorem inv_stationFrame {src : Nat} {f : FrameKind} {act : Station → Nat → Nat → State → State} {s : State} (h : BlockInv s)
    (ha : ∀ x i p, BlockInv (act x i p s)) : BlockInv (stationFrame src f act s) := by
  unfold stationFrame; repeat' split
  all_goals first | exact ha _ _ _ | simp [h]

end Sys2Proof.Machine
end

