-- ==== Sys2Proof/Laws/Commands.lean ====
section
/-! SUPPORT. The commands: what taking one does, and that each body keeps the queue of commands, the position ranges and
the invariant of the blocks. -/

namespace Sys2Proof.Machine

/-! ## The command exchange -/

/-- A command that is taken is executed, the points it has set at the odometer are taken, and its reply is placed. -/
theorem answer_takes {s : State} {tag : Byte} (h : Takes s tag) (op : Nat) (resets : Bool) (body : State → Executed) :
    answer op tag resets body s =
      placeReply ⟨op, tag, (body s).2.1, (body s).2.2, resets⟩ (takeReached (body s).1) := by
  unfold answer
  have hroom : ¬(Config.maxReplies ≤ s.rng.replies.length ∨ s.cmd.resetWaiting = true) := by
    have := h.room; have := h.waiting; simp_all
  simp [h.runs, hroom, h.tag]

/-- A command that sets no point at the odometer. -/
theorem answer_takes_quiet {s : State} {tag : Byte} (h : Takes s tag) (op : Nat) (resets : Bool) (body : State → Executed)
    (hq : nextDue (body s).1 = none) :
    answer op tag resets body s = placeReply ⟨op, tag, (body s).2.1, (body s).2.2, resets⟩ (body s).1 := by
  rw [answer_takes h, takeReached_of_none hq]

/-- What a command's answer keeps, if its body keeps it. -/
theorem answer_keeps {β : Type} (π : State → β) (op : Nat) (tag : Byte) (resets : Bool) (body : State → Executed) (s : State)
    (hr : ∀ r t, π (placeReply r t) = π t) (hd : ∀ t, π (countCmdDrop t) = π t) (ht : ∀ t, π (takeReached t) = π t)
    (hb : π (body s).1 = π s) : π (answer op tag resets body s) = π s := by
  unfold answer; repeat' split
  · exact hd s
  · exact hr _ s
  · rename_i he; rw [he] at hb; exact (hr _ _).trans ((ht _).trans hb)
  · rfl

/-- What holds before a command and after its body holds after its answer. -/
theorem answer_holds {P : State → Prop} {op : Nat} {tag : Byte} {resets : Bool} {body : State → Executed} {s : State}
    (hr : ∀ r t, P t → P (placeReply r t)) (hd : ∀ t, P t → P (countCmdDrop t)) (ht : ∀ t, P t → P (takeReached t))
    (h : P s) (hb : P (body s).1) : P (answer op tag resets body s) := by
  unfold answer; repeat' split
  · exact hd s h
  · exact hr _ s h
  · rename_i he; rw [he] at hb; exact hr _ _ (ht _ hb)
  · exact h

/-! ## The queue of commands, the odometer and the waiting frames -/

/-- The queue of commands, the odometer, the tally, the speed, the forward queue and the reply queue. -/
def State.gauge (s : State) := (s.pending, s.pos.odo, s.pos.tally, s.pos.v, s.rng.forward, s.rng.replies)

/-- The points that are taken leave the gauge alone. -/
@[simp] theorem gauge_takeReached (s : State) : (takeReached s).gauge = s.gauge := by
  have h := shell_takeReached s
  simp only [State.shell, Rng.line, Prod.mk.injEq] at h
  simp only [State.gauge, h]
theorem gauge_of_core {s t : State} (h : t.core = s.core) : t.gauge = s.gauge := by
  simp only [State.core, Rng.line, Prod.mk.injEq] at h
  obtain ⟨_, h1, _, _, _, _, h2, _, h3, h4, _⟩ := h
  simp only [State.gauge, h1, h2, h3, h4]

/-- What a command's body may do to the gauge: lower the tally to 0, and nothing else. -/
def GaugeOk (s t : State) : Prop :=
  t.pending = s.pending ∧ t.pos.odo = s.pos.odo ∧ (t.pos.tally = s.pos.tally ∨ t.pos.tally = 0) ∧
    t.pos.v = s.pos.v ∧ t.rng.forward = s.rng.forward ∧ t.rng.replies = s.rng.replies

theorem GaugeOk.refl (s : State) : GaugeOk s s := ⟨rfl, rfl, Or.inl rfl, rfl, rfl, rfl⟩
theorem GaugeOk.trans {s t u : State} (h : GaugeOk s t) (g : GaugeOk t u) : GaugeOk s u :=
  ⟨g.1.trans h.1, g.2.1.trans h.2.1,
    by rcases g.2.2.1 with e | e
       · rw [e]; exact h.2.2.1
       · exact Or.inr e,
    g.2.2.2.1.trans h.2.2.2.1, g.2.2.2.2.1.trans h.2.2.2.2.1, g.2.2.2.2.2.trans h.2.2.2.2.2⟩
theorem GaugeOk.of {s t : State} (h : t.gauge = s.gauge) : GaugeOk s t := by
  simp only [State.gauge, Prod.mk.injEq] at h
  exact ⟨h.1, h.2.1, Or.inl h.2.2.1, h.2.2.2.1, h.2.2.2.2.1, h.2.2.2.2.2⟩

@[simp] theorem gauge_countCmdDrop (s : State) : (countCmdDrop s).gauge = s.gauge := rfl
@[simp] theorem gauge_laneUpdate (n : Nat) (f : Lane → Lane) (s : State) : (laneUpdate n f s).gauge = s.gauge := gauge_of_core (by simp)
@[simp] theorem gauge_recomputeGap (s : State) : (recomputeGap s).gauge = s.gauge := by
  have h := recomputeGap_core s
  simp only [State.core, Rng.line, Prod.mk.injEq] at h
  obtain ⟨_, h1, _, _, _, _, h2, _, h3, h4, _⟩ := h
  simp only [State.gauge, h1, h2, h3, h4]
@[simp] theorem gauge_runIdle (s : State) : (runIdle s).gauge = s.gauge := gauge_of_core (by simp)

/-! ### Loading -/

/-- What each parameter that acts at once does to a state that holds its value, in the words of the statements. -/
theorem recomputeGap_eq (s : State) : recomputeGap s =
    (if min (s.params.gmin + s.reg.s / 4) s.params.gmax = s.reg.g then s
     else mrgLook (indLook { s with reg := { s.reg with g := min (s.params.gmin + s.reg.s / 4) s.params.gmax } })) := by
  unfold recomputeGap gapTarget; dsimp only; split
  · rename_i h; rw [h]; rfl
  · rfl
theorem moveInterval_eq (s : State) : moveInterval s = { s with mrg := { s.mrg with
    interval := s.mrg.interval.map fun _ => s.mrg.since + s.params.mergeInterval - s.mrg.count } } := by
  obtain ⟨held, pos, params, sgt, trk, ord, fpl, gtc, lan, ind, reg, ⟨_, _, _, _, _, _, _, interval, _, _⟩, _⟩ := s
  cases interval <;> rfl
theorem runIdle_of (s : State) : runIdle s =
    (if s.params.idleTime ≠ 0 ∧ s.run.st = .running ∧ s.trk.list = [] ∧ s.ind.ready = none ∧ s.mrg.ready = none ∧
        s.ind.outstanding = none ∧ s.mrg.grant = none then
      { s with run := { s.run with idle := if s.run.idle.isSome then s.run.idle else some (1000 * s.params.idleTime) } }
     else { s with run := { s.run with idle := none } }) := by
  have h : idleHolds s = true ↔ s.params.idleTime ≠ 0 ∧ s.run.st = .running ∧ s.trk.list = [] ∧ s.ind.ready = none ∧
      s.mrg.ready = none ∧ s.ind.outstanding = none ∧ s.mrg.grant = none := by
    simp only [idleHolds, Bool.and_eq_true, decide_eq_true_eq, List.isEmpty_iff, Option.isNone_iff_eq_none]
    tauto
  unfold runIdle
  by_cases hi : idleHolds s = true
  · rw [if_pos hi, if_pos (h.mp hi)]; split <;> rfl
  · rw [if_neg hi, if_neg (fun x => hi (h.mpr x))]; rfl
theorem loadParkLimit_eq (v : Nat) (s : State) : loadParkLimit v s = { s with run := { s.run with
    park := if v = 0 then none else if s.run.st = .parked ∧ s.run.park = none then some (1000 * v) else s.run.park } } := by
  unfold loadParkLimit; simp only [Option.isNone_iff_eq_none]; repeat' split
  all_goals rfl

/-- What a parameter that is written does, in the words of the statements (R204, R205). -/
theorem paramEffect_eq (i v : Nat) (s : State) : paramEffect i v (s.setParams (s.params.put i v)) = s.withParam i v := by
  unfold paramEffect State.withParam
  split
  · rfl
  · rfl
  · exact recomputeGap_eq _
  · exact recomputeGap_eq _
  · exact moveInterval_eq _
  · exact runIdle_of _
  · exact loadParkLimit_eq _ _
  · rfl
  · first | rfl | (split <;> first | rfl | (exfalso; simp_all))

/-- What a parameter that is written leaves for the record after it. -/
theorem withParam_rest (s : State) (i v : Nat) : (s.withParam i v).params = s.params.put i v ∧
    (s.withParam i v).cmd.table = s.cmd.table ∧ (s.withParam i v).run.st = s.run.st ∧ (s.withParam i v).rng = s.rng := by
  unfold State.withParam; dsimp only; repeat' split
  all_goals exact ⟨rfl, rfl, rfl, rfl⟩

/-- One parameter that is loaded (R204, R205). -/
theorem loadRecord_param {bs : List Byte} {s : State} (ht : s.cmd.table = .params)
    (hc : configOnly s.cmd.index = false ∨ s.run.st = .config) (hp : paramOk s.params s.cmd.index (wordAt bs 0) = true) :
    loadRecord bs s = (Option.none, (s.withParam s.cmd.index (wordAt bs 0)).pointed (s.cmd.index + 1)) := by
  have hn : (configOnly s.cmd.index && decide (s.run.st ≠ .config)) = false := by rcases hc with h | h <;> simp [h]
  simp only [loadRecord, ht, loadParam, hn, hp, paramEffect_eq]; rfl

theorem gauge_paramEffect (i v : Nat) (s : State) : (paramEffect i v s).gauge = s.gauge := by
  unfold paramEffect loadParkLimit moveInterval; repeat' split
  all_goals first | rfl | simp
theorem gauge_loadRecord (bs : List Byte) (s : State) : (loadRecord bs s).2.gauge = s.gauge := by
  have hst : ∀ i, (loadStation i bs s).2.gauge = s.gauge := by
    intro i; unfold loadStation; repeat' split
    all_goals rfl
  have hla : ∀ i, (loadLane i bs s).2.gauge = s.gauge := by
    intro i; unfold loadLane; repeat' split
    all_goals simp
  have hpa : ∀ i, (loadParam i bs s).2.gauge = s.gauge := by
    intro i; unfold loadParam; dsimp only; repeat' split
    · rfl
    · exact gauge_paramEffect _ _ _
    · rfl
  unfold loadRecord; dsimp only
  split
  · have : ∀ t : State, ∀ c, (t.setCmd c).gauge = t.gauge := fun _ _ => rfl
    rw [this]
    split
    · exact hst _
    · exact hla _
    · exact hpa _
  · rfl
theorem gauge_loadRecords (rs : List (List Byte)) (n : Nat) (s : State) : (loadRecords rs n s).2.2.gauge = s.gauge := by
  induction rs generalizing n s with
  | nil => rfl
  | cons r rs ih =>
    have h := gauge_loadRecord r s
    unfold loadRecords; split
    · rename_i he; rw [he] at h; exact (ih _ _).trans h
    · rename_i he; rw [he] at h; exact h
@[simp] theorem gauge_cmdPutRecords (bs : List Byte) (s : State) : (cmdPutRecords bs s).1.gauge = s.gauge := by
  unfold cmdPutRecords; dsimp only; repeat' split
  all_goals first | rfl | exact gauge_loadRecords _ _ _

/-! ### Control -/

theorem foldl_gauge {α : Type} {f : State → α → State} (h : ∀ t a, (f t a).gauge = t.gauge) (l : List α) (s : State) :
    (l.foldl f s).gauge = s.gauge := foldl_keeps State.gauge f h l s

@[simp] theorem gauge_indLook (s : State) : (indLook s).gauge = s.gauge := rfl
@[simp] theorem gauge_mrgLook (s : State) : (mrgLook s).gauge = s.gauge := rfl
@[simp] theorem gauge_setRun (s : State) (x : Run) : (s.setRun x).gauge = s.gauge := rfl
@[simp] theorem gauge_setInd (s : State) (x : Ind) : (s.setInd x).gauge = s.gauge := rfl
@[simp] theorem gauge_setMrg (s : State) (x : Mrg) : (s.setMrg x).gauge = s.gauge := rfl
@[simp] theorem gauge_setGtc (s : State) (x : Gtc) : (s.setGtc x).gauge = s.gauge := rfl
@[simp] theorem gauge_setSgt (s : State) (x : Sgt) : (s.setSgt x).gauge = s.gauge := rfl
@[simp] theorem gauge_setOrd (s : State) (x : OrdTable) : (s.setOrd x).gauge = s.gauge := rfl
@[simp] theorem gauge_setTrk (s : State) (x : Trk) : (s.setTrk x).gauge = s.gauge := rfl
@[simp] theorem gauge_setFpl (s : State) (x : Fpl) : (s.setFpl x).gauge = s.gauge := rfl
@[simp] theorem gauge_setLan (s : State) (x : Lan) : (s.setLan x).gauge = s.gauge := rfl
@[simp] theorem gauge_setCmd (s : State) (x : Cmd) : (s.setCmd x).gauge = s.gauge := rfl
@[simp] theorem gauge_setNtq (s : State) (x : Ntq) : (s.setNtq x).gauge = s.gauge := rfl
@[simp] theorem gauge_setReg (s : State) (x : Reg) : (s.setReg x).gauge = s.gauge := rfl
@[simp] theorem gauge_setGate (g : Nat) (x : Gate) (s : State) : (setGate g x s).gauge = s.gauge := rfl
@[simp] theorem gauge_notify (n : Notice) (s : State) : (notify n s).gauge = s.gauge := gauge_of_core (by simp)
@[simp] theorem gauge_notifySome (n : Option Notice) (s : State) : (notifySome n s).gauge = s.gauge := gauge_of_core (by simp)
@[simp] theorem gauge_placeControl (c : Ctl) (s : State) : (placeControl c s).gauge = s.gauge := gauge_of_core (by simp)
@[simp] theorem gauge_placeForKind (k : StationKind) (c : CtlKind) (s : State) : (placeForKind k c s).gauge = s.gauge :=
  gauge_of_core (by simp)
@[simp] theorem gauge_driveGate (g : Nat) (b : Bool) (s : State) : (driveGate g b s).gauge = s.gauge := gauge_of_core (by simp)
@[simp] theorem gauge_settleEntry (r : Rec) (x : EntryFate) (s : State) : (settleEntry r x s).gauge = s.gauge :=
  gauge_of_core (by simp)
@[simp] theorem gauge_sendLamps (s : State) : (sendLamps s).gauge = s.gauge := gauge_of_core (by simp)
@[simp] theorem gauge_wakeEyes (s : State) : (wakeEyes s).gauge = s.gauge := rfl
@[simp] theorem gauge_broadcastWake (s : State) : (broadcastWake s).gauge = s.gauge := gauge_of_core (by simp)
@[simp] theorem gauge_startAccrual (s : State) : (startAccrual s).gauge = s.gauge := gauge_of_core (by simp)
@[simp] theorem gauge_listChange (s : State) : (listChange s).gauge = s.gauge := gauge_of_core (by simp)
@[simp] theorem gauge_reexamine (s : State) : (reexamine s).gauge = s.gauge := gauge_of_core (by simp)
@[simp] theorem gauge_removeRec (id : Nat) (x : EntryFate) (s : State) : (removeRec id x s).gauge = s.gauge :=
  gauge_of_core (by simp)
@[simp] theorem gauge_roleToReturn (id : Nat) (r : Reason) (x : EntryFate) (s : State) :
    (roleToReturn id r x s).gauge = s.gauge := gauge_of_core (by simp)
@[simp] theorem gauge_planReq (id : Nat) (s : State) : (planReq id s).gauge = s.gauge := gauge_of_core (by simp)
@[simp] theorem gauge_modRec (id : Nat) (f : Rec → Rec) (s : State) : (modRec id f s).gauge = s.gauge := rfl
@[simp] theorem gauge_putEntry (e : Entry) (s : State) : (putEntry e s).gauge = s.gauge := rfl
@[simp] theorem gauge_removeEntry (t : Nat) (s : State) : (removeEntry t s).gauge = s.gauge := rfl
@[simp] theorem gauge_modLane (n : Nat) (f : Lane → Lane) (s : State) : (modLane n f s).gauge = s.gauge := rfl
@[simp] theorem gauge_enterState (n : RunState) (r : Option Rule) (c : StateCause) (s : State) :
    (enterState n r c s).gauge = s.gauge := gauge_of_core (by simp)
@[simp] theorem gauge_enterDark (r : Option Rule) (c : StateCause) (s : State) : (enterDark r c s).gauge = s.gauge :=
  gauge_of_core (by simp)
@[simp] theorem gauge_resumeFrom (c : StateCause) (s : State) : (resumeFrom c s).gauge = s.gauge := gauge_of_core (by simp)

@[simp] theorem gauge_pruneControl (s : State) : (pruneControl s).gauge = s.gauge := by
  unfold pruneControl; dsimp only; split <;> rfl
@[simp] theorem gauge_dropEntries (s : State) : (dropEntries s).gauge = s.gauge := by
  unfold dropEntries; dsimp only; rw [foldl_gauge fun t e => gauge_notify _ t]; simp
@[simp] theorem gauge_startGates (s : State) : (startGates s).gauge = s.gauge :=
  foldl_gauge (fun t g => by unfold startGate; split <;> simp) _ s
@[simp] theorem gauge_startLanes (s : State) : (startLanes s).gauge = s.gauge := by
  unfold startLanes; rw [gauge_sendLamps]
  exact foldl_gauge (fun t n => gauge_laneUpdate n _ t) _ s
@[simp] theorem gauge_initEyes (s : State) : (initEyes s).gauge = s.gauge := by
  unfold initEyes; split <;> simp
@[simp] theorem gauge_startEyes (s : State) : (startEyes s).gauge = s.gauge := by
  unfold startEyes; dsimp only; split <;> simp
@[simp] theorem gauge_accrueIfReady (s : State) : (accrueIfReady s).gauge = s.gauge := by
  unfold accrueIfReady; split <;> simp
@[simp] theorem gauge_startBlocks (s : State) : (startBlocks s).gauge = s.gauge := by
  unfold startBlocks
  simp only [gauge_sendLamps, gauge_wakeEyes, gauge_broadcastWake, gauge_accrueIfReady, gauge_startEyes, gauge_startLanes,
    gauge_startGates, emptyQueues, gauge_setFpl, gauge_dropEntries, gauge_pruneControl]
  rfl
@[simp] theorem gauge_cmdStart (s : State) : (cmdStart s).1.gauge = s.gauge := by
  unfold cmdStart refuse; dsimp only; repeat' split
  all_goals simp
@[simp] theorem gauge_cmdPark (s : State) : (cmdPark s).1.gauge = s.gauge := by
  unfold cmdPark refuse; dsimp only; repeat' split
  all_goals simp
@[simp] theorem gauge_cmdResume (s : State) : (cmdResume s).1.gauge = s.gauge := by
  unfold cmdResume refuse; dsimp only; repeat' split
  all_goals simp
@[simp] theorem gauge_cmdDark (s : State) : (cmdDark s).1.gauge = s.gauge := by
  unfold cmdDark refuse; dsimp only; repeat' split
  all_goals simp
@[simp] theorem gauge_leaveFault (c : StateCause) (s : State) : (leaveFault c s).gauge = s.gauge := by simp [leaveFault]
theorem gauge_zeroTally (s : State) : GaugeOk s (zeroTally s) := ⟨rfl, rfl, Or.inr rfl, rfl, rfl, rfl⟩
theorem gauge_cmdClearFault (s : State) : GaugeOk s (cmdClearFault s).1 := by
  unfold cmdClearFault refuse; dsimp only; split
  · exact GaugeOk.refl s
  · exact (gauge_zeroTally s).trans (GaugeOk.of (gauge_leaveFault _ _))
@[simp] theorem gauge_configInd (s : State) : (configInd s).gauge = s.gauge := by simp [configInd]
@[simp] theorem gauge_removeHole (s : State) : (removeHole s).gauge = s.gauge := gauge_of_core (by simp)
@[simp] theorem gauge_configMrg (s : State) : (configMrg s).gauge = s.gauge := by
  unfold configMrg; dsimp only; split <;> simp
@[simp] theorem gauge_wakeForConfig (s : State) : (wakeForConfig s).gauge = s.gauge := by
  unfold wakeForConfig; split <;> simp
@[simp] theorem gauge_cmdToConfig (s : State) : (cmdToConfig s).1.gauge = s.gauge := by
  unfold cmdToConfig refuse; dsimp only; repeat' split
  all_goals simp
@[simp] theorem gauge_trackTrk (s : State) : (trackTrk s).gauge = s.gauge := by
  unfold trackTrk; dsimp only; rw [gauge_setTrk]
  exact foldl_gauge (fun t r => gauge_settleEntry r _ t) _ s
@[simp] theorem gauge_trackGates (s : State) : (trackGates s).gauge = s.gauge :=
  foldl_gauge (fun t g => by unfold trackGate; repeat' split
                             all_goals simp) _ s
@[simp] theorem gauge_trackSlots (s : State) : (trackSlots s).gauge = s.gauge := by
  unfold trackSlots; dsimp only; split <;> simp
@[simp] theorem gauge_trackRun (s : State) : (trackRun s).gauge = s.gauge := by
  unfold trackRun; dsimp only; split <;> simp
theorem gauge_trackReset (s : State) : GaugeOk s (trackReset s) := by
  have h1 : ∀ t : State, GaugeOk t (trackRun (trackReg (zeroTally t))) := fun t =>
    (gauge_zeroTally t).trans (GaugeOk.of (by simp [trackReg]))
  have h2 : (listChange (trackSlots (trackEyes (trackLanes (trackGates (emptyQueues (trackTrk s))))))).gauge = s.gauge := by
    simp [trackEyes, trackLanes, emptyQueues]
  exact (GaugeOk.of h2).trans (h1 _)
theorem gauge_cmdResetTrack (s : State) : GaugeOk s (cmdResetTrack s).1 := by
  unfold cmdResetTrack refuse; dsimp only; repeat' split
  all_goals first | exact GaugeOk.refl s | exact gauge_trackReset s

/-! ### Orders, lanes, regulator, induction -/

@[simp] theorem gauge_tellInd (t : Nat) (s : State) : (tellInd t s).gauge = s.gauge := by
  unfold tellInd; repeat' split
  all_goals simp
@[simp] theorem gauge_amend (r : Rec) (old e : Entry) (s : State) : (amend r old e s).1.gauge = s.gauge := by
  unfold amend; dsimp only; split <;> simp
@[simp] theorem gauge_cmdOrderPut (t : Nat) (ref : Ref) (l p k h : Nat) (s : State) :
    (cmdOrderPut t ref l p k h s).1.gauge = s.gauge := by
  unfold cmdOrderPut refuse; dsimp only; repeat' split
  all_goals simp
@[simp] theorem gauge_cmdOrderCancel (t : Nat) (s : State) : (cmdOrderCancel t s).1.gauge = s.gauge := by
  unfold cmdOrderCancel refuse; dsimp only; repeat' split
  all_goals simp
@[simp] theorem gauge_cmdLaneOpen (n : Nat) (s : State) : (cmdLaneOpen n s).1.gauge = s.gauge := by
  unfold cmdLaneOpen refuse recoverGate; dsimp only; repeat' split
  all_goals simp
@[simp] theorem gauge_cmdLaneClose (n : Nat) (s : State) : (cmdLaneClose n s).1.gauge = s.gauge := by
  unfold cmdLaneClose refuse; dsimp only; split <;> simp
@[simp] theorem gauge_cmdLaneClear (n : Nat) (s : State) : (cmdLaneClear n s).1.gauge = s.gauge := by
  unfold cmdLaneClear refuse; dsimp only; split <;> simp
@[simp] theorem gauge_cmdRegulate (m v : Nat) (s : State) : (cmdRegulate m v s).1.gauge = s.gauge := by
  unfold cmdRegulate refuse; dsimp only; repeat' split
  all_goals simp
@[simp] theorem gauge_cmdInductSkip (s : State) : (cmdInductSkip s).1.gauge = s.gauge := by
  unfold cmdInductSkip refuse; dsimp only; repeat' split
  all_goals simp
@[simp] theorem gauge_clearCounters (g i : Nat) (s : State) : (clearCounters g i s).gauge = s.gauge := by
  unfold clearCounters; split <;> rfl

/-- What any command's body does to the gauge. -/
theorem gauge_executeOp (op : Nat) (a : List Byte) (s : State) : GaugeOk s (executeOp op a s).1 := by
  unfold executeOp refuse cmdHeartbeat cmdSetPointer cmdResetDevice cmdOrderQuery cmdNoticeMask cmdQueryStatus cmdQueryLane
    cmdQueryTote cmdQueryCounters keepPage refuse
  repeat' split
  all_goals first
    | exact gauge_cmdClearFault s
    | exact gauge_cmdResetTrack s
    | exact GaugeOk.of (by simp)

end Sys2Proof.Machine
end

