-- ==== Sys2Proof/Laws/CommandKeeps.lean ====
section
/-! SUPPORT. The bodies of the commands keep the invariant of the blocks. -/

namespace Sys2Proof.Machine

/-! ## Loading -/

theorem inv_paramEffect {i v : Nat} {s : State} (h : BlockInv s) : BlockInv (paramEffect i v s) := by
  have hr := h.run
  unfold paramEffect; split
  · exact inv_setPos h
  · exact inv_setPos h
  · simp [h]
  · simp [h]
  · unfold moveInterval; split <;> simp [h]
  · simp [h]
  · unfold loadParkLimit; repeat' split
    · exact inv_setRun h ⟨hr.1, hr.2, hr.3, hr.4, hr.5, hr.6, hr.7, by simp, hr.9⟩
    · rename_i hp
      exact inv_setRun h ⟨hr.1, hr.2, hr.3, hr.4, hr.5, hr.6, hr.7, fun _ => hp.1, hr.9⟩
    · exact h
  · simp [h]
  · exact h
theorem inv_loadRecord {bs : List Byte} {s : State} (h : BlockInv s) : BlockInv (loadRecord bs s).2 := by
  have hst : ∀ i, BlockInv (loadStation i bs s).2 := by
    intro i; unfold loadStation; repeat' split
    all_goals simp [h]
  have hla : ∀ i, BlockInv (loadLane i bs s).2 := by
    intro i; unfold loadLane; repeat' split
    · dsimp only
      refine inv_laneUpdate h ?_ ?_ ?_
      · exact (laneOf_ok h i).1
      · exact (laneOf_ok h i).2
      · exact (laneOf_ok h i).3
    · exact h
    · exact h
  have hpa : ∀ i, BlockInv (loadParam i bs s).2 := by
    intro i; unfold loadParam; dsimp only; repeat' split
    · exact h
    · exact inv_paramEffect (inv_setParams h)
    · exact h
  unfold loadRecord; dsimp only
  split
  · refine inv_setCmd ?_
    split
    · exact hst _
    · exact hla _
    · exact hpa _
  · exact h
theorem inv_loadRecords {rs : List (List Byte)} {n : Nat} {s : State} (h : BlockInv s) : BlockInv (loadRecords rs n s).2.2 := by
  induction rs generalizing n s with
  | nil => exact h
  | cons r rs ih =>
    have h1 := inv_loadRecord (bs := r) h
    unfold loadRecords; split
    · rename_i he; rw [he] at h1; exact ih h1
    · rename_i he; rw [he] at h1; exact h1
@[simp] theorem inv_cmdPutRecords {bs : List Byte} {s : State} (h : BlockInv s) : BlockInv (cmdPutRecords bs s).1 := by
  unfold cmdPutRecords refuse; dsimp only; repeat' split
  all_goals first | exact h | exact inv_loadRecords h

/-! ## Control -/

@[simp] theorem inv_pruneControl {s : State} (h : BlockInv s) : BlockInv (pruneControl s) := by
  have h1 : ∀ p : Ctl → Bool, BlockInv (s.setRng { s.rng with control := s.rng.control.filter p }) := fun p =>
    inv_setRng h ((List.filter_sublist.map _).nodup h.control)
  unfold pruneControl; dsimp only; split
  · exact inv_indLook (inv_setInd (h1 _))
  · exact h1 _
@[simp] theorem inv_dropEntries {s : State} (h : BlockInv s) : BlockInv (dropEntries s) :=
  foldl_inv (fun _ _ ht => inv_notify ht) _ (inv_setOrd h (h.ord.sublist List.filter_sublist))
theorem inv_emptyQueues {s : State} (h : BlockInv s) : BlockInv (emptyQueues s) := by
  refine inv_setFpl h fun q hq => ?_
  have : q = [] := by
    rw [Vector.toList_replicate] at hq
    exact List.eq_of_mem_replicate hq
  simp [this]
theorem inv_startGate {g : Nat} {s : State} (h : BlockInv s) : BlockInv (startGate g s) := by
  unfold startGate; split <;> simp [h]
@[simp] theorem inv_startGates {s : State} (h : BlockInv s) : BlockInv (startGates s) :=
  foldl_inv (fun _ _ ht => inv_startGate ht) _ h
@[simp] theorem inv_startLanes {s : State} (h : BlockInv s) : BlockInv (startLanes s) :=
  inv_sendLamps (foldl_inv (fun _ n ht => inv_laneUpdate ht (laneOf_ok ht n).1 (by simp) (laneOf_ok ht n).3) _ h)
@[simp] theorem inv_initEyes {s : State} (h : BlockInv s) : BlockInv (initEyes s) := by
  unfold initEyes; split <;> simp [h]
@[simp] theorem inv_startEyes {s : State} (h : BlockInv s) : BlockInv (startEyes s) := by
  unfold startEyes; dsimp only; split <;> simp [h]
@[simp] theorem inv_accrueIfReady {s : State} (h : BlockInv s) : BlockInv (accrueIfReady s) := by
  unfold accrueIfReady; split <;> simp [h]
@[simp] theorem inv_startBlocks {s : State} (h : BlockInv s) : BlockInv (startBlocks s) := by
  unfold startBlocks; dsimp only
  exact inv_sendLamps (inv_wakeEyes (inv_broadcastWake (inv_accrueIfReady (inv_startEyes (inv_startLanes (inv_startGates
    (inv_emptyQueues (inv_dropEntries (inv_pruneControl (inv_setPos h))))))))))

theorem run_placeControl (c : Ctl) (s : State) : (placeControl c s).run = s.run := by
  unfold placeControl; dsimp only; split <;> rfl
theorem run_sendLamp (n : Nat) (b : Bool) (s : State) : (sendLamp n b s).run = s.run := by
  unfold sendLamp; split
  · exact run_placeControl _ _
  · rfl
theorem run_sendLamps (s : State) : (sendLamps s).run = s.run :=
  foldl_keeps State.run _ (fun t n => run_sendLamp n _ t) _ s
theorem run_laneUpdate (n : Nat) (f : Lane → Lane) (s : State) : (laneUpdate n f s).run = s.run := by
  have h1 : ∀ g (t : State), (withdrawLane g t).run = t.run := fun g t => run_of_planCore (planCore_withdrawLane g t)
  have h2 : ∀ g (t : State), (planLane g t).run = t.run := fun g t => run_of_planCore (planCore_planLane g t)
  unfold laneUpdate
  simp only [apply_ite State.run, h1, h2, run_notify, run_sendLamp, ite_self]
  rfl
theorem run_pruneControl (s : State) : (pruneControl s).run = s.run := by
  unfold pruneControl; dsimp only; split <;> rfl
theorem run_dropEntries (s : State) : (dropEntries s).run = s.run := by
  unfold dropEntries; dsimp only; exact foldl_keeps State.run _ (fun t e => run_notify _ t) _ _
theorem run_startGates (s : State) : (startGates s).run = s.run :=
  foldl_keeps State.run _ (fun t g => by unfold startGate; split
                                         · exact run_placeControl _ _
                                         · rfl) _ s
theorem run_startLanes (s : State) : (startLanes s).run = s.run := by
  unfold startLanes; rw [run_sendLamps]
  exact foldl_keeps State.run _ (fun t n => run_laneUpdate n _ t) _ s
theorem run_startEyes (s : State) : (startEyes s).run = s.run := by
  unfold startEyes initEyes; dsimp only; repeat' split
  all_goals rfl
theorem run_accrueIfReady (s : State) : (accrueIfReady s).run = s.run := by
  have h : ∀ t : State, (intervalDue t).run = t.run := fun t => by
    unfold intervalDue; split
    · exact whenDue_keeps State.run _ _ t fun u => by
        unfold forceMerge; dsimp only; repeat' split
        all_goals first | rfl | exact run_notify _ _
    · rfl
  unfold accrueIfReady startAccrual; repeat' split
  all_goals first | rfl | exact (repeat_keeps State.run h _ _).trans rfl
theorem run_broadcastWake (s : State) : (broadcastWake s).run = { s.run with asleep := false } := run_placeControl _ _
/-- The blocks' start actions change run control in one field: the stations are awake. -/
theorem run_startBlocks (s : State) : (startBlocks s).run = { s.run with asleep := false } := by
  have hw : ∀ t : State, (wakeEyes t).run = t.run := fun _ => rfl
  have he : ∀ t : State, (emptyQueues t).run = t.run := fun _ => rfl
  unfold startBlocks
  rw [run_sendLamps, hw, run_broadcastWake, run_accrueIfReady, run_startEyes, run_startLanes, run_startGates, he,
    run_dropEntries, run_pruneControl]
  rfl

/-- RUN sets its resume stage to none. -/
theorem inv_dropStage {t : State} (h : BlockInv t) :
    BlockInv (t.setRun { t.run with stage := .none, endPoint := Option.none }) := by
  have hr := h.run
  exact inv_setRun h ⟨hr.1, hr.2, hr.3, hr.4, by simp, hr.6, hr.7, hr.8, hr.9⟩
/-- RUN leaves CONFIG for STARTING. -/
theorem inv_enterStarting {c : StateCause} {t : State} (h : BlockInv t) (hst : t.run.st = .config) :
    BlockInv (enterState .starting Option.none c (t.setRun { t.run with stage := .none, endPoint := Option.none })) := by
  have hc := h.run.cause
  have hw := h.run.wake
  refine inv_enterState (inv_dropStage h) (by simp) ?_ ?_
  · exact ⟨fun hx => absurd (hc.mp hx) (by simp [hst]), fun hx => by simp at hx⟩
  · intro hx; simpa [hst] using hw hx
@[simp] theorem inv_cmdStart {s : State} (h : BlockInv s) : BlockInv (cmdStart s).1 := by
  unfold cmdStart refuse; dsimp only; repeat' split
  · exact h
  · exact h
  · exact h
  · rename_i hst _ _ _ _
    have hst : s.run.st = .config := by simpa using hst
    refine inv_enterStarting (inv_startBlocks h) ?_
    rw [run_startBlocks]; exact hst
theorem inv_setRule {s : State} (h : BlockInv s) (hst : s.run.st = .parked ∨ s.run.st = .dark) :
    BlockInv (s.setRun { s.run with rule := some .host }) := by
  have hr := h.run
  exact inv_setRun h ⟨hr.1, hr.2, hr.3, by simp [hst], hr.5, hr.6, hr.7, hr.8, hr.9⟩
/-- PARKED is entered from a state with no fault. -/
theorem inv_enterParked {r : Rule} {c : StateCause} {s : State} (h : BlockInv s) (hst : s.run.st ≠ .fault) :
    BlockInv (enterState .parked (some r) c s) := by
  have hc := h.run.cause
  exact inv_enterState h (by simp) (by simp_all) (by simp)
@[simp] theorem inv_cmdPark {s : State} (h : BlockInv s) : BlockInv (cmdPark s).1 := by
  unfold cmdPark refuse; dsimp only; repeat' split
  · rename_i hst; exact inv_enterParked h (by simp [hst])
  · rename_i hst; exact inv_enterParked h (by simp [hst])
  · rename_i hst; exact inv_enterParked h (by simp [hst])
  · exact h
  · rename_i hst _; exact inv_setRule h (Or.inl hst)
  · exact h
@[simp] theorem inv_cmdResume {s : State} (h : BlockInv s) : BlockInv (cmdResume s).1 := by
  unfold cmdResume refuse; dsimp only; split
  · dsimp only; split
    · exact h
    · rename_i hw; exact inv_resumeFrom h (by simpa using hw)
  · exact h
@[simp] theorem inv_cmdDark {s : State} (h : BlockInv s) : BlockInv (cmdDark s).1 := by
  unfold cmdDark refuse; dsimp only; repeat' split
  · exact h
  · exact h
  · rename_i hst _ _; exact inv_enterDark h rfl hst
  · rename_i hst; exact inv_setRule h (Or.inr hst)
  · exact h
theorem inv_leaveFault {c : StateCause} {s : State} (h : BlockInv s) : BlockInv (leaveFault c s) := by
  refine mid_runIdle ?_
  have hr := h.run
  refine (?_ : MidInv (notify _ (State.setRun _ _))) |> fun hm => ⟨hm.1, hm.2, hm.3, hm.4, hm.5, hm.6, hm.7⟩
  refine mid_notify ⟨⟨rfl, rfl, by simp, by simp, hr.lap, by simp, ?_, by simp⟩, h.2, h.3, h.4, h.5, h.6, h.7⟩
  simp only [State.setRun_fields]; split <;> simp
@[simp] theorem inv_cmdClearFault {s : State} (h : BlockInv s) : BlockInv (cmdClearFault s).1 := by
  unfold cmdClearFault refuse; dsimp only; split
  · exact h
  · exact inv_leaveFault (inv_setPos h)
@[simp] theorem inv_configInd {s : State} (h : BlockInv s) : BlockInv (configInd s) := by
  simp (maxDischargeDepth := 20) [configInd, h]
@[simp] theorem inv_configMrg {s : State} (h : BlockInv s) : BlockInv (configMrg s) := by
  unfold configMrg; dsimp only; split <;> simp (maxDischargeDepth := 20) [h]
theorem run_wakeForConfig (s : State) : ∃ b, (wakeForConfig s).run = { s.run with asleep := b } := by
  unfold wakeForConfig; split
  · exact ⟨false, by rw [run_sendLamps, run_broadcastWake]⟩
  · exact ⟨_, rfl⟩
@[simp] theorem inv_wakeForConfig {s : State} (h : BlockInv s) : BlockInv (wakeForConfig s) := by
  unfold wakeForConfig; split <;> simp [h]
@[simp] theorem inv_cmdToConfig {s : State} (h : BlockInv s) : BlockInv (cmdToConfig s).1 := by
  unfold cmdToConfig refuse; dsimp only; repeat' split
  · exact h
  · exact h
  · rename_i hn _
    have hst : s.run.st = .parked := by simp_all
    have hw : s.run.wake = Option.none := by simp_all
    have h1 := inv_wakeForConfig h
    have hr := h1.run
    obtain ⟨b, hb⟩ := run_wakeForConfig s
    have hc := h.run.cause
    refine inv_configMrg (inv_configInd (inv_initEyes (inv_enterState
      (inv_setRun h1 ⟨hr.1, hr.2, hr.3, hr.4, by simp, hr.6, hr.7, hr.8, hr.9⟩) (by simp) ?_ ?_)))
    · simp only [State.setRun_fields, hb]; simp_all
    · simp only [State.setRun_fields, hb]; simp_all

/-! ## Resets -/

@[simp] theorem inv_trackTrk {s : State} (h : BlockInv s) : BlockInv (trackTrk s) := by
  have h1 : BlockInv (s.trk.list.foldl (fun t r => settleEntry r .waiting t) s) :=
    foldl_inv (fun _ _ ht => inv_settleEntry ht) _ h
  exact inv_setTrk h1 ⟨by simp, by simp, by simp, by simp, by simp⟩
theorem inv_trackGate {g : Nat} {s : State} (h : BlockInv s) : BlockInv (trackGate g s) := by
  unfold trackGate; repeat' split
  all_goals simp [h]
@[simp] theorem inv_trackGates {s : State} (h : BlockInv s) : BlockInv (trackGates s) :=
  foldl_inv (fun _ _ ht => inv_trackGate ht) _ h
@[simp] theorem inv_trackLanes {s : State} (h : BlockInv s) : BlockInv (trackLanes s) := by
  refine inv_setLan h fun l hl => ?_
  rw [vmap_toList] at hl
  obtain ⟨l', hl', rfl⟩ := List.mem_map.mp hl
  have := h.lanes l' hl'
  exact ⟨this.1, this.2, by simp, this.4⟩
@[simp] theorem inv_trackSlots {s : State} (h : BlockInv s) : BlockInv (trackSlots s) := by
  unfold trackSlots; dsimp only; split <;> simp (maxDischargeDepth := 20) [h]
@[simp] theorem inv_trackRun {s : State} (h : BlockInv s) : BlockInv (trackRun s) := by
  unfold trackRun; dsimp only
  have hr := h.run
  have h1 : BlockInv (s.setRun { s.run with stage := .none, endPoint := Option.none }) :=
    inv_setRun h ⟨hr.1, hr.2, hr.3, hr.4, by simp, hr.6, hr.7, hr.8, hr.9⟩
  split
  · exact inv_leaveFault h1
  · exact h1
@[simp] theorem inv_trackReset {s : State} (h : BlockInv s) : BlockInv (trackReset s) := by
  unfold trackReset; dsimp only
  refine inv_trackRun (inv_recomputeGap (inv_setReg (inv_setPos (inv_listChange (inv_trackSlots (inv_setSgt
    (inv_trackLanes (inv_trackGates (inv_emptyQueues (inv_trackTrk h))))))))))
@[simp] theorem inv_cmdResetTrack {s : State} (h : BlockInv s) : BlockInv (cmdResetTrack s).1 := by
  unfold cmdResetTrack refuse; dsimp only; repeat' split
  all_goals simp [h]

/-! ## Orders, lanes, regulator, induction -/

@[simp] theorem inv_tellInd {t : Nat} {s : State} (h : BlockInv s) : BlockInv (tellInd t s) := by
  unfold tellInd; repeat' split
  all_goals simp [h]
@[simp] theorem inv_cmdOrderPut {t : Nat} {ref : Ref} {l p k hd : Nat} {s : State} (h : BlockInv s) :
    BlockInv (cmdOrderPut t ref l p k hd s).1 := by
  unfold cmdOrderPut refuse; dsimp only; split
  · exact h
  · split
    · split
      · exact h
      · rename_i hlt; exact inv_tellInd (inv_putEntry h (Or.inl (by omega)))
    · rename_i e he
      have hm := findEntry_mem he
      have hx : ∀ st, ∃ x ∈ s.ord.entries, x.tote = (⟨t, ref, l, decide (p = 2), k, decide (hd = 1), st⟩ : Entry).tote :=
        fun _ => ⟨e, hm.1, hm.2⟩
      repeat' split
      all_goals first
        | exact inv_tellInd (inv_putEntry h (Or.inr (hx _)))
        | exact h
        | skip
      all_goals
        unfold amend; dsimp only
        have h1 := inv_putEntry h (Or.inr (hx .riding))
        split
        · exact inv_roleToReturn h1
        · exact inv_planReq (inv_modRec h1 fun _ => ⟨rfl, rfl, fun x => x⟩)
@[simp] theorem inv_cmdOrderCancel {t : Nat} {s : State} (h : BlockInv s) : BlockInv (cmdOrderCancel t s).1 := by
  unfold cmdOrderCancel refuse; dsimp only; repeat' split
  all_goals simp [h]
@[simp] theorem inv_recoverGate {g : Nat} {x : Gate} {s : State} (h : BlockInv s) : BlockInv (recoverGate g x s) := by
  simp [recoverGate, h]
@[simp] theorem inv_cmdLaneOpen {n : Nat} {s : State} (h : BlockInv s) : BlockInv (cmdLaneOpen n s).1 := by
  have h1 : ∀ g : Lane → Option LaneCause, BlockInv (laneUpdate n (fun l =>
      { l with closed := false, streak := 0, faulted := g l }) s) :=
    fun _ => inv_laneUpdate h (laneOf_ok h n).1 (by simp) (laneOf_ok h n).3
  unfold cmdLaneOpen refuse; dsimp only; split
  · exact h
  · dsimp only
    repeat' split
    all_goals first | exact h1 _ | exact inv_recoverGate (h1 _)
@[simp] theorem inv_cmdLaneClose {n : Nat} {s : State} (h : BlockInv s) : BlockInv (cmdLaneClose n s).1 := by
  unfold cmdLaneClose refuse; dsimp only; split
  · exact h
  · dsimp only; exact inv_laneUpdate h (laneOf_ok h n).1 (laneOf_ok h n).2 (laneOf_ok h n).3
@[simp] theorem inv_cmdLaneClear {n : Nat} {s : State} (h : BlockInv s) : BlockInv (cmdLaneClear n s).1 := by
  unfold cmdLaneClear refuse; dsimp only; split
  · exact h
  · dsimp only; exact inv_laneUpdate h (Nat.zero_le _) (laneOf_ok h n).2 (laneOf_ok h n).3
@[simp] theorem inv_cmdRegulate {m v : Nat} {s : State} (h : BlockInv s) : BlockInv (cmdRegulate m v s).1 := by
  unfold cmdRegulate refuse; dsimp only; repeat' split
  all_goals simp [h]
@[simp] theorem inv_cmdInductSkip {s : State} (h : BlockInv s) : BlockInv (cmdInductSkip s).1 := by
  unfold cmdInductSkip refuse; dsimp only; repeat' split
  all_goals simp (maxDischargeDepth := 20) [h]
@[simp] theorem inv_cmdNoticeMask {m : Byte} {s : State} (h : BlockInv s) : BlockInv (cmdNoticeMask m s).1 :=
  inv_setNtq h h.notices
@[simp] theorem inv_clearCounters {g i : Nat} {s : State} (h : BlockInv s) : BlockInv (clearCounters g i s) := by
  unfold clearCounters; split
  · have h1 : BlockInv (s.setTrk { s.trk with lost := 0, jumps := 0 }) :=
      inv_setTrk h ⟨h.trk.1, h.trk.2, h.trk.3, h.trk.4, h.trk.5⟩
    have h2 := inv_setSgt (x := { s.sgt with strays := 0, phantoms := 0 }) h1
    exact inv_setRng h2 h2.control
  · have hl := laneOf_ok h i
    have h1 : BlockInv (modLane i (fun l => { l with deliveries := 0, failed := 0, stray := 0, underflows := 0 }) s) :=
      inv_modLane h ⟨hl.1, hl.2, hl.3, hl.4⟩
    exact inv_setFpl h1 h1.fires
  · exact inv_setSgt h
  · exact inv_setGtc h
  · exact h
@[simp] theorem inv_cmdQueryCounters {g i c : Nat} {s : State} (h : BlockInv s) : BlockInv (cmdQueryCounters g i c s).1 := by
  unfold cmdQueryCounters refuse; repeat' split
  all_goals simp [h]

/-- Any command's body keeps the invariant of the blocks. -/
theorem inv_executeOp {op : Nat} {a : List Byte} {s : State} (h : BlockInv s) : BlockInv (executeOp op a s).1 := by
  unfold executeOp cmdHeartbeat cmdSetPointer cmdResetDevice cmdOrderQuery cmdQueryStatus cmdQueryLane cmdQueryTote keepPage
    refuse
  repeat' split
  all_goals first | exact h | exact inv_setCmd h | simp [h]

end Sys2Proof.Machine
end

