-- ==== Sys2Proof/Laws/Quiet.lean ====
section
/-! SUPPORT. What entering a run state does in which no release and no merge is made, what queueing a notice changes, and when
no point is reached. -/

namespace Sys2Proof.Machine
/-- The notice queue after a notice is queued at an odometer. -/
def Ntq.after (n : Notice) (odo : Nat) (q : Ntq) : Ntq :=
  if q.enabled n.cls then
    if q.queue.length < Config.maxNotices then { q with queue := q.queue ++ [⟨odo, n⟩] }
    else { q with overflow := satInc 255 q.overflow }
  else q

/-- Queueing a notice changes the notice queue only. -/
theorem notify_eq (n : Notice) (s : State) : notify n s = { s with ntq := s.ntq.after n s.pos.odo } := by
  unfold notify Ntq.after; split
  · split <;> rfl
  · rfl

/-- Outside RUNNING no release and no hole is placed. -/
theorem indLook_quiet (s : State) (h : s.run.st ≠ .running) :
    indLook s = { s with ind := { s.ind with releasePoint := none, holePoint := none } } := by
  have h1 : releaseAllowed s = false := by simp [releaseAllowed, h]
  have h2 : holeAllowed s = false := by simp [holeAllowed, h]
  unfold indLook
  rw [h1, h2]
  rcases s.ind.ready with _ | _ <;> rcases s.ind.holeWait with _ | _ <;> rfl

/-- Outside RUNNING no merge is made. -/
theorem mrgLook_quiet (s : State) (h : s.run.st ≠ .running) :
    mrgLook s = { s with mrg := { s.mrg with mergePoint := none } } := by
  have h1 : mergeAllowed s = false := by simp [mergeAllowed, h]
  unfold mrgLook
  rw [h1]
  rcases s.mrg.ready with _ | _ <;> rfl

/-- Outside RUNNING the idle timer is stopped. -/
theorem runIdle_quiet (s : State) (h : s.run.st ≠ .running) : runIdle s = { s with run := { s.run with idle := none } } := by
  have h1 : idleHolds s = false := by simp [idleHolds, h]
  unfold runIdle
  rw [h1]; rfl

/-- Entering a state other than RUNNING, all at once. -/
theorem enterState_quiet (n : RunState) (rl : Option Rule) (c : StateCause) (s : State) (hn : n ≠ .running) :
    enterState n rl c s = s.entered { s.run with
      st := n, belt := n.beltOn, rule := rl
      settle := if n = .starting then some (s.pos.odo + s.params.settleDist) else none
      stall := if n.beltOn then (if s.run.st.beltOn then s.run.stall else some s.params.stallTime) else none
      park := if n = .parked then parkTimer s.params else none, idle := none } c := by
  have hp : (if n = .parked ∧ s.params.parkLimit ≠ 0 then some (1000 * s.params.parkLimit) else none) =
    (if n = .parked then parkTimer s.params else none) := by
      unfold parkTimer; split <;> split <;> simp_all
  unfold enterState State.entered
  dsimp only
  rw [hp, notify_eq, notify_eq, indLook_quiet _ hn, mrgLook_quiet _ hn, runIdle_quiet _ hn]
  rfl

/-! ## No point is reached -/

/-- No point is reached where none of a group's is. -/
theorem nextDue_none_iff (s : State) : nextDue s = none ↔
    dueOfRecords s = [] ∧ dueOfEyes s = [] ∧ dueOfFires s = [] ∧ dueOfLanes s = [] ∧ dueOfUnits s = [] := by
  unfold nextDue
  rw [List.head?_eq_none_iff]
  simp only [List.append_eq_nil_iff, and_assoc]

/-- No point of the single units is reached. -/
theorem dueOfUnits_nil_iff (s : State) : dueOfUnits s = [] ↔
    due s.mrg.interval s = false ∧ (s.ind.holeWait.isSome && due s.ind.holePoint s) = false ∧
    due s.ind.releasePoint s = false ∧ due (s.ind.outstanding.map (·.confirm)) s = false ∧ due s.mrg.arrival s = false ∧
    due s.mrg.mergePoint s = false ∧ due (s.mrg.grant.map (·.confirm)) s = false ∧ due (some s.reg.next) s = false ∧
    due s.run.settle s = false ∧ due s.run.endPoint s = false := by
  have h : ∀ (b : Bool) (i : Instr), (if b = true then [i] else []) = [] ↔ b = false := fun b i => by cases b <;> simp
  unfold dueOfUnits
  simp only [List.append_eq_nil_iff, h, and_assoc]

/-- Entering a run state reaches no point, where its settle point lies ahead and its resume end point stands as it did. -/
theorem nextDue_entered {s : State} {r : Run} {c : StateCause} (h : nextDue s = none) (hset : due r.settle s = false)
    (hend : r.endPoint = s.run.endPoint) : nextDue (s.entered r c) = none := by
  rw [nextDue_none_iff] at h ⊢
  obtain ⟨h1, h2, h3, h4, h5⟩ := h
  rw [dueOfUnits_nil_iff] at h5
  obtain ⟨u1, u2, u3, u4, u5, u6, u7, u8, u9, u10⟩ := h5
  have e : s.entered r c = { s with
      run := r
      ind := { s.ind with releasePoint := none, holePoint := none }
      mrg := { s.mrg with mergePoint := none }
      ntq := s.ntq.after (.state s.run.st r.st c) s.pos.odo } := by
    unfold State.entered; rw [notify_eq]
  rw [e, dueOfUnits_nil_iff]
  refine ⟨h1, h2, h3, h4, u1, ?_, rfl, u4, u5, rfl, u7, u8, hset, ?_⟩
  · simp [due]
  · show due r.endPoint s = false
    rw [hend]; exact u10

end Sys2Proof.Machine
end

