-- ==== Sys2Proof/Laws/Examine.lean ====
section
/-! SUPPORT. What one examination of the pending READY, one fault report and one counted sighting do, in the words of the
statements: one lemma per operation, for the provers to cite instead of unfolding it. -/

namespace Sys2Proof.Machine

/-! ## Notices -/

/-- A notice whose class is enabled joins a queue that has room. -/
theorem told_notify (n : Notice) (s : State) : Told n s (notify n s) := by
  intro he hr
  have h : s.ntq.queue.length < Config.maxNotices := by have := hr; simp only [Config.maxNotices] at this ⊢; omega
  exact ⟨[⟨s.pos.odo, n⟩], by simp [notify_eq, Ntq.after, he, h], by simp⟩

/-- What a step has told stays told from a state with the same notice queue and odometer. -/
theorem Told.of_eq {n : Notice} {s s' t t' : State} (h : Told n s t) (hs : s'.ntq = s.ntq) (ho : s'.pos.odo = s.pos.odo)
    (ht : t'.ntq = t.ntq) : Told n s' t' := by
  unfold Told at *; rw [hs, ho, ht]; exact h

/-- A notice queued after a step that has queued none and has not moved the odometer. -/
theorem told_notify_of (n : Notice) {s u : State} (hn : u.ntq = s.ntq) (ho : u.pos.odo = s.pos.odo) : Told n s (notify n u) :=
  (told_notify n u).of_eq hn.symm ho.symm rfl

/-! ## The pending READY -/

/-- The standing that IND computes is the one of R138. -/
theorem hasStanding_standingOf (s : State) (r : Ready) : HasStanding s r (standingOf s r) := by
  constructor
  · intro h; simp [standingOf, h]
  · intro n h hc; rcases ho : s.ind.outstanding with _ | o <;> simp_all [standingOf]
  · intro n h hc hne he; rcases ho : s.ind.outstanding with _ | o <;> simp_all [standingOf]
  · intro n e h hc hne he hr; rcases ho : s.ind.outstanding with _ | o <;> simp_all [standingOf]

/-- A standing depends on the list, the order table and the outstanding release alone. -/
theorem HasStanding.of_eq {s t : State} {r : Ready} {st : Standing} (h : HasStanding s r st) (ht : t.trk = s.trk)
    (ho : t.ord = s.ord) (hi : t.ind.outstanding = s.ind.outstanding) : HasStanding t r st := by
  have hc : ∀ n, carrier t n = carrier s n := fun n => by unfold carrier; rw [ht]
  have he : ∀ n, findEntry t n = findEntry s n := fun n => by unfold findEntry; rw [ho]
  constructor
  · exact h.noread
  · intro n; rw [hc, hi]; exact h.carried n
  · intro n; rw [hc, hi, he]; exact h.unknown n
  · intro n e; rw [hc, hi, he]; exact h.known n e

/-- The look of IND holds the release point of R140 and R142. -/
theorem pointHeld_indLook (s : State) : PointHeld (indLook s) := by
  constructor
  · intro p hp h1 h2 h3 h4 h5 h6 h7
    have hp' : s.ind.ready = some p := hp
    have ha : releaseAllowed s = true := by
      unfold releaseAllowed; rw [hp']
      have e2 : s.run.st = .running := h2
      have e3 : s.cmd.hostless = false := h3
      have e4 : s.trk.list.length < 96 := h4
      have e5 : s.ind.holeWait = none := h5
      have e6 : s.ind.outstanding = none := h6
      have e7 : s.ind.reject = false := h7
      simp [h1, e2, e3, e4, e5, e6, e7, Config.maxRecords]
    show (match s.ind.ready with
      | some q => if releaseAllowed s then originSlot s q.ready.len else none
      | none => none) = _
    rw [hp']; dsimp only; rw [if_pos ha]; rfl
  · intro h
    show (match s.ind.ready with
      | some q => if releaseAllowed s then originSlot s q.ready.len else none
      | none => none) = none
    rcases hp : s.ind.ready with _ | p
    · rfl
    · dsimp only; rw [if_neg]
      have h' : p.standing ≠ .candidate ∨ s.run.st ≠ .running ∨ s.cmd.hostless = true ∨ 96 ≤ s.trk.list.length ∨
          s.ind.holeWait.isSome ∨ s.ind.outstanding.isSome ∨ s.ind.reject = true := by
        rcases h with h | h
        · exact Or.inl (h p hp)
        · exact Or.inr h
      unfold releaseAllowed; rw [hp]
      intro ha
      simp only [Config.maxRecords, Bool.and_eq_true, decide_eq_true_eq, Bool.not_eq_true'] at ha
      obtain ⟨⟨⟨⟨⟨⟨a1, a2⟩, a3⟩, a4⟩, a5⟩, a6⟩, a7⟩ := ha
      rcases h' with h | h | h | h | h | h | h
      · exact h a1
      · exact h a2
      · simp [a3] at h
      · omega
      · simp_all
      · simp_all
      · simp [a7] at h

/-- The hold notice that goes with a standing is the one of R138. -/
theorem tellsHold_notifySome (r : Ready) (st : Standing) (s : State) : TellsHold r st s (notifySome (holdNotice r st) s) := by
  constructor <;> intro h <;> subst h <;> exact told_notify _ _

/-- One examination of the pending READY (R139). -/
theorem readyExamined_reexamine (s : State) : ReadyExamined s (reexamine s) := by
  unfold reexamine
  constructor
  · intro h; rw [h]; exact h
  · intro p hp
    rw [hp]; dsimp only
    have h := hasStanding_standingOf s p.ready
    split
    · rename_i he
      exact ⟨⟨p.standing, hp, (he ▸ h).of_eq rfl rfl rfl, fun h => absurd rfl h⟩, pointHeld_indLook s⟩
    · refine ⟨⟨standingOf s p.ready, ?_, h.of_eq ?_ ?_ ?_, fun _ => ?_⟩, pointHeld_indLook _⟩
      · rcases standingOf s p.ready <;> simp [holdNotice, notifySome, notify_eq, indLook, State.setInd]
      · rcases standingOf s p.ready <;> simp [holdNotice, notifySome, notify_eq, indLook, State.setInd]
      · rcases standingOf s p.ready <;> simp [holdNotice, notifySome, notify_eq, indLook, State.setInd]
      · rcases standingOf s p.ready <;> simp [holdNotice, notifySome, notify_eq, indLook, State.setInd]
      · have h := tellsHold_notifySome p.ready (standingOf s p.ready)
          (s.setInd { s.ind with ready := some ⟨p.ready, standingOf s p.ready⟩ })
        exact ⟨fun e => (h.1 e).of_eq rfl rfl rfl, fun e => (h.2 e).of_eq rfl rfl rfl, fun e => (h.3 e).of_eq rfl rfl rfl⟩

/-- An examination changes the standing, IND's points and the notice queue, and nothing else. -/
theorem reexamine_rest (s : State) : ∃ ready release hole ntq, reexamine s =
    { s with ind := { s.ind with ready := ready, releasePoint := release, holePoint := hole }, ntq := ntq } := by
  unfold reexamine; rcases h : s.ind.ready with _ | p
  · exact ⟨s.ind.ready, _, _, s.ntq, rfl⟩
  · dsimp only; split
    · exact ⟨s.ind.ready, _, _, s.ntq, rfl⟩
    · rcases hn : holdNotice p.ready (standingOf s p.ready) with _ | n
      · exact ⟨some ⟨p.ready, standingOf s p.ready⟩, _, _, s.ntq, rfl⟩
      · simp only [notifySome, notify_eq]
        exact ⟨some ⟨p.ready, standingOf s p.ready⟩, _, _, s.ntq.after n s.pos.odo, rfl⟩

/-- An examination that leaves the standing as it was, or finds a candidate, queues nothing (R139). -/
theorem reexamine_quiet {s : State} {p : Pending} (h : s.ind.ready = some p)
    (hq : standingOf s p.ready = p.standing ∨ standingOf s p.ready = .candidate) : (reexamine s).ntq = s.ntq := by
  unfold reexamine; rw [h]; dsimp only
  split
  · rfl
  · rcases hq with hq | hq
    · exact absurd hq ‹_›
    · rw [hq]; rfl

/-! ## Faults -/

/-- One fault report to RUN (R176). -/
theorem faultTaken_reportFault (c : FaultCause) (d : Nat) (s : State) :
    FaultTaken c d (s.run.further.has c) (s.run.further.add c) s (reportFault c d s) := by
  constructor
  · intro h1 h2
    have e : reportFault c d s = enterState .fault none (.fault c) (s.setRun { s.run with
        cause := c, detail := d, further := ⟨false, false, false, false⟩, wake := none, wakeCause := none }) := by
      unfold reportFault; split <;> simp_all
    rw [e, enterState_quiet _ _ _ _ (by decide)]
    unfold State.entered
    have hk : ∀ n (u : State), (notify n u).run = u.run := fun n u => by rw [notify_eq]
    rw [hk]
    exact ⟨rfl, rfl, rfl, rfl, rfl, told_notify_of _ rfl rfl⟩
  · intro h1 h2 h3
    unfold reportFault; rw [h1]; dsimp only
    rw [if_neg (by simp [h2, h3])]
    exact ⟨by simp [notify_eq, State.setRun], told_notify_of _ rfl rfl⟩
  · intro h1 h2
    unfold reportFault; rw [h1]; dsimp only
    rw [if_pos (by simpa using h2)]
    exact ⟨rfl, fun x hx => Or.inl hx⟩
  · intro h1
    unfold reportFault; rw [h1]
    exact ⟨by simp [notify_eq], told_notify _ _⟩

/-! ## Reader health -/

/-- The end of a window changes the window alone, and tells of a change of health (R61). -/
theorem endWindow_sgt (i : Nat) (w : ReaderWindow) (s : State) : (endWindow i w s).sgt = { s.sgt with
    windows := vset s.sgt.windows i
      (some (if w.passes < 64 then w else ⟨0, 0, decide (s.params.noreadLimit < w.noreads)⟩)) } := by
  unfold endWindow; dsimp only
  split
  · rfl
  · split
    · rfl
    · rw [notify_eq]; rfl
theorem endWindow_told {i : Nat} {w : ReaderWindow} {s : State} (h : 64 ≤ w.passes)
    (hd : decide (s.params.noreadLimit < w.noreads) ≠ w.degraded) :
    Told (.reader i (decide (s.params.noreadLimit < w.noreads)) w.noreads) s (endWindow i w s) := by
  unfold endWindow; dsimp only
  rw [if_neg (by omega), if_neg hd]
  exact told_notify_of _ rfl rfl

/-- One sighting counted at a reader (R61, R62). -/
theorem counted_countSighting {x : Sighting} {w : ReaderWindow} {s : State} (hr : x.source = .reader) (hi : x.station < 28)
    (hw : vget s.sgt.windows x.station none = some w) : Counted x.station x.read.isNone w s (countSighting x s) := by
  have hn : x.station < Config.stations := hi
  have e : ∃ u : State, countSighting x s = endWindow x.station (w.count x.read.isNone) u ∧ u.ntq = s.ntq ∧
      u.pos = s.pos ∧ u.params = s.params ∧ u.sgt = { s.sgt with
        passes := vset s.sgt.passes x.station (satInc counterMax (vget s.sgt.passes x.station 0))
        noreads := if x.read.isNone then vset s.sgt.noreads x.station (satInc counterMax (vget s.sgt.noreads x.station 0))
          else s.sgt.noreads } := by
    refine ⟨s.setSgt { s.sgt with
        passes := vset s.sgt.passes x.station (satInc counterMax (vget s.sgt.passes x.station 0))
        noreads := if x.read.isNone then vset s.sgt.noreads x.station (satInc counterMax (vget s.sgt.noreads x.station 0))
          else s.sgt.noreads }, ?_, rfl, rfl, rfl, rfl⟩
    unfold countSighting
    rw [if_pos hr]
    show (match vget s.sgt.windows x.station none with | some v => _ | none => _) = _
    rw [hw]
  obtain ⟨u, e, h1, h2, h3, h4⟩ := e
  rw [e]
  constructor
  · rw [endWindow_sgt, h4]; exact vget_vset_same _ _ _ _ hn
  · rw [endWindow_sgt, h4]; dsimp only
    split
    · exact vget_vset_same _ _ _ _ hn
    · rfl
  · intro hlt
    rw [endWindow_sgt]; dsimp only
    rw [vget_vset_same _ _ _ _ hn, if_pos (show (w.count x.read.isNone).passes < 64 from hlt)]; rfl
  · intro hge
    have hge' : 64 ≤ (w.count x.read.isNone).passes := hge
    refine ⟨?_, fun hd => ?_⟩
    · rw [endWindow_sgt, h3]; dsimp only
      rw [vget_vset_same _ _ _ _ hn, if_neg (by omega)]; rfl
    · have h := endWindow_told (i := x.station) (s := u) hge' (by rw [h3]; exact hd)
      rw [h3] at h
      exact h.of_eq h1.symm (by rw [h2]) rfl

end Sys2Proof.Machine
end

