-- ==== Sys2Proof/Laws/LaneSteps.lean ====
section
/-! SUPPORT. What a lane update does, in the words of the statements: the lane changes with its lamp and its notice, then the
fires of the lane are withdrawn where a flag is set, and the records that wait for it are planned where it is freed. -/

namespace Sys2Proof.Machine

/-- The plans of a freed lane, in the words of the statements. -/
theorem planLane_eq (n : Nat) (u : State) : planLane n u = plannedInTurn n u := rfl

/-- A command that is placed stands in the queue, and the commands for other destinations stand as they did. -/
theorem placed_placeControl (c : Ctl) (s : State) : Placed s (placeControl c s) c := by
  unfold placeControl
  dsimp only
  split
  · rename_i h
    refine ⟨?_, fun x hx => ?_, rfl⟩
    · obtain ⟨y, hy, hd⟩ := List.any_eq_true.mp h
      exact List.mem_map.mpr ⟨y, hy, by simp only [of_decide_eq_true hd, if_true]⟩
    · refine ⟨fun h => ?_, fun h => List.mem_map.mpr ⟨x, h, by simp only [hx, if_false]⟩⟩
      obtain ⟨y, hy, hxy⟩ := List.mem_map.mp h
      by_cases hd : y.dst = c.dst
      · rw [if_pos hd] at hxy; exact absurd (hxy ▸ rfl) hx
      · rw [if_neg hd] at hxy; exact hxy ▸ hy
  · refine ⟨?_, fun x hx => ?_, rfl⟩
    · simp
    · have : x ≠ c := fun e => hx (e ▸ rfl)
      simp [this]

/-- The notice queue after a notice depends on the queue and the odometer only. -/
theorem ntq_notify_congr (n : Notice) {s t : State} (hq : t.ntq = s.ntq) (hp : t.pos = s.pos) :
    (notify n t).ntq = (notify n s).ntq := by
  unfold notify
  rw [hq, hp]
  repeat' split
  all_goals first | rfl | exact hq

/-- The ring port after a command is placed depends on the ring port only. -/
theorem rng_placeControl_congr (c : Ctl) {s t : State} (h : t.rng = s.rng) :
    (placeControl c t).rng = (placeControl c s).rng := by
  unfold placeControl
  dsimp only
  rw [h]
  split <;> rfl

/-- Placing a command changes the ring port only. -/
theorem placeControl_rest (c : Ctl) (s : State) : placeControl c s = { s with rng := (placeControl c s).rng } := by
  unfold placeControl
  dsimp only
  split <;> rfl

/-- Queueing a notice changes the notice queue only. -/
theorem notify_rest (n : Notice) (s : State) : notify n s = { s with ntq := (notify n s).ntq } := by
  unfold notify
  repeat' split
  all_goals rfl

/-- The state of a lane update before any fire is withdrawn or any record planned. -/
theorem laneUpdate_changed (n : Nat) (f : Lane → Lane) (s : State) (hn : n < Config.lanes) :
    let l := f (laneOf s n)
    ∃ u, LaneChanged n l s u ∧
      laneUpdate n f s =
        let v := if flagRaised (laneOf s n) l then withdrawLane n u else u
        if ((laneOf s n).full && !l.full) || (flagDropped (laneOf s n) l && !l.flagged) then plannedInTurn n v else v := by
  intro l
  let s1 := modLane n (fun _ => { l with reported := l.computed }) s
  let s2 := if (laneOf s n).full = l.full then s1 else sendLamp n l.full s1
  let s3 := if (laneOf s n).reported = l.computed then s2 else notify (.lane n l.computed l.faulted l.occ) s2
  have hg : gateRec s1 n = gateRec s n := rfl
  have h1 : laneOf s1 n = { l with reported := l.computed } := laneOf_modLane_same n _ s hn
  have hs2 : s2 = { s with lan := s2.lan, rng := s2.rng } ∧ s2.lan = (modLane n (fun _ =>
      { l with reported := l.computed, lampOn := lampAfter s n l }) s).lan ∧
      ((laneOf s n).full = l.full ∨ gateRec s n = none → s2.rng = s.rng) ∧
      (∀ d, (laneOf s n).full ≠ l.full → gateRec s n = some d → Placed s s2 ⟨d.sec, lampFor l.full⟩) := by
    by_cases hf : (laneOf s n).full = l.full
    · have e : s2 = s1 := if_pos hf
      rw [e]
      refine ⟨rfl, ?_, fun _ => rfl, fun d h => absurd hf h⟩
      unfold lampAfter; simp [hf, s1]
    · have e : s2 = sendLamp n l.full s1 := if_neg hf
      rcases hd : gateRec s n with _ | d
      · have e2 : sendLamp n l.full s1 = s1 := by unfold sendLamp; rw [hg, hd]
        rw [e, e2]
        refine ⟨rfl, ?_, fun _ => rfl, fun d _ h => by simp at h⟩
        unfold lampAfter; simp [hd, s1]
      · have e2 : sendLamp n l.full s1 =
            modLane n (fun x => { x with lampOn := l.full }) (placeControl ⟨d.sec, lampFor l.full⟩ s1) := by
          unfold sendLamp; rw [hg, hd]; rfl
        have hp := placed_placeControl ⟨d.sec, lampFor l.full⟩ s
        have hr : (placeControl ⟨d.sec, lampFor l.full⟩ s1).rng = (placeControl ⟨d.sec, lampFor l.full⟩ s).rng :=
          rng_placeControl_congr _ rfl
        have hl : laneOf (placeControl ⟨d.sec, lampFor l.full⟩ s1) n = { l with reported := l.computed } := by
          rw [laneOf_of_lan (lan_placeControl _ _), h1]
        rw [e, e2]
        refine ⟨?_, ?_, fun h => ?_, fun d' _ h => ?_⟩
        · unfold modLane
          rw [placeControl_rest]; rfl
        · unfold modLane
          rw [hl]
          simp only [State.setLan_fields, lan_placeControl]
          unfold lampAfter
          simp only [s1, modLane, State.setLan_fields, vset_vset, hd]
          simp [hf]
        · rcases h with h | h
          · exact absurd h hf
          · simp at h
        · obtain rfl : d = d' := by simpa using h
          have hrng : (modLane n (fun x => { x with lampOn := l.full })
              (placeControl ⟨d.sec, lampFor l.full⟩ s1)).rng = (placeControl ⟨d.sec, lampFor l.full⟩ s).rng := hr
          exact ⟨hrng ▸ hp.stands, fun x hx => hrng ▸ hp.others x hx, hrng ▸ hp.rest⟩
  obtain ⟨hrest, hlan, hstay, hplace⟩ := hs2
  have h3lan : s3.lan = s2.lan := by
    show (if _ then s2 else _ : State).lan = _
    split
    · rfl
    · exact lan_notify _ _
  have h3rng : s3.rng = s2.rng := by
    show (if _ then s2 else _ : State).rng = _
    split
    · rfl
    · rw [notify_rest]
  have hpos : s2.pos = s.pos := by rw [hrest]
  have hntq : s2.ntq = s.ntq := by rw [hrest]
  have h3 : laneOf s3 n = { l with reported := l.computed, lampOn := lampAfter s n l } := by
    rw [laneOf_of_lan (h3lan.trans hlan), laneOf_modLane_same _ _ _ hn]
  have hfull : laneFull s3 n = l.full := by unfold laneFull; rw [h3]; rfl
  have hold : laneFull s n = (laneOf s n).full := rfl
  refine ⟨s3, ⟨?_, fun m hm => ?_, fun h d hd => ?_, fun h => ?_, ?_, ?_⟩, ?_⟩
  · rw [h3]
  · rw [laneOf_of_lan (h3lan.trans hlan), laneOf_modLane_ne _ _ _ _ hm]
  · rw [hfull, hold] at h
    have hp := hplace d (Ne.symm h) hd
    rw [hfull]
    refine ⟨?_, h3rng ▸ hp.stands, fun x hx => h3rng ▸ hp.others x hx, h3rng ▸ hp.rest⟩
    rw [h3]; unfold lampAfter; simp [hd, Ne.symm h]
  · rw [hfull, hold] at h
    refine ⟨?_, h3rng.trans (hstay (h.imp Eq.symm id))⟩
    rw [h3]; unfold lampAfter
    rcases h with h | h <;> simp [h]
  · show (if _ then s2 else _ : State).ntq = _
    by_cases hr : (laneOf s n).reported = l.computed
    · rw [if_pos hr, if_pos hr.symm]; exact hntq
    · rw [if_neg hr, if_neg (Ne.symm hr)]; exact ntq_notify_congr _ hntq hpos
  · show (if _ then s2 else _ : State) = _
    split
    · rename_i hr
      have : s3 = s2 := if_pos hr
      rw [this]; rw [hrest]
    · rename_i hr
      have : s3 = notify (.lane n l.computed l.faulted l.occ) s2 := if_neg hr
      rw [this, notify_rest, hrest]
  · rfl

end Sys2Proof.Machine
end

