-- ==== Sys2Proof/WellFormed.lean ====
section
/-! DEFINITION. Which commands can be sent: operands that fit the fields the frames and tables give them. -/

namespace Sys2Proof

/-- A station's node address (00 section 3.1): 1..62. -/
def addressOk (src : Nat) : Bool := 1 ≤ src && src ≤ 62

/-- A number carried in two bytes (10 section 10.7). -/
def twoBytes (n : Nat) : Bool := n < 65536

/-- A number carried in one byte. -/
def oneByte (n : Nat) : Bool := n < 256

/-- The operands of a command fit their fields: an address of a station, a length 1..255 of a READY (R191), a
gate or lane 0..16 of a point or a timer, a station index 0..27, at most 22 bytes of records (section 10.7),
arguments that fit their one or two bytes. Values that fit but lie outside a command's range are well formed:
the command refuses them (R68, R123, R153, R203, R211). -/
def Instr.wellFormed : Instr → Bool
  | .resetAssert _ | .resetRelease _ _ | .ringPortStart | .forwardCount | .reverseCount | .illegalStep
  | .speedWindowEnd | .ringFrame _ _ => true
  | .eyeLead src | .eyeTrail src | .entry src | .removal src | .haltOn src | .haltOff src | .atOpen src
  | .atClosed src | .driveFault src | .released src | .inductEmpty src | .spurMerged src | .spurEmpty src =>
      addressOk src
  | .tag src read => addressOk src && (match read with | some t => twoBytes t | none => true)
  | .inductReady src tote len | .spurReady src tote len =>
      addressOk src && twoBytes tote && 1 ≤ len && oneByte len
  | .originPassage _ | .sightingDeadline _ | .passageWatch _ => true
  | .jamPoint st | .tagLimit st => st < Config.stations
  | .openStart g | .checkPoint g | .closeStart g | .endPoint g | .verifyDeadline g | .feedbackTimerExpiry g =>
      g < Config.lanes
  | .releasePoint | .confirmPoint | .holePoint | .mergePoint | .mergeConfirmPoint | .intervalPoint
  | .arrivalPoint | .samplePoint | .settlePoint | .resumeEndPoint => true
  | .stallTimerExpiry | .idleTimerExpiry | .parkTimerExpiry | .wakeWaitExpiry | .linkTimerExpiry => true
  | .transmitStart | .transmitEnd => true
  | .heartbeat _ | .start _ | .park _ | .resume _ | .dark _ | .clearFault _ | .toConfig _ | .resetTrack _
  | .resetDevice _ | .inductSkip _ | .queryStatus _ | .noticeMask _ _ => true
  | .setPointer _ table index => oneByte table && oneByte index
  | .putRecords _ records => records.length ≤ 22
  | .orderPut _ tote _ lane priority lapLimit hold =>
      twoBytes tote && oneByte lane && oneByte priority && oneByte lapLimit && oneByte hold
  | .orderCancel _ tote | .orderQuery _ tote | .queryTote _ tote => twoBytes tote
  | .laneSetOpen _ lane | .laneSetClose _ lane | .laneClear _ lane | .queryLane _ lane => oneByte lane
  | .regulate _ mode value => oneByte mode && twoBytes value
  | .queryCounters _ group index clear => oneByte group && oneByte index && oneByte clear

end Sys2Proof
end

