-- ==== Sys2Proof/Laws/PerInstr.lean ====
section
/-! SUPPORT. One lemma per command: a row that is a station frame is well formed only with a station's node address as
its source (00 section 3.1, R9), and no row is both a station frame and a management command. -/

namespace Sys2Proof.Laws.Addressed

/-- What holds of every row. -/
def Statement (i : Instr) : Prop :=
  (∀ src f, Machine.frameRow i = some (src, f) → i.wellFormed = true → 1 ≤ src ∧ src ≤ 62) ∧
    ((Machine.frameRow i).isSome → Machine.commandOp i = none)

/-- A row that is no station frame. -/
theorem of_no_frame {i : Instr} (h : Machine.frameRow i = none) : Statement i := by
  refine ⟨fun src f hf => ?_, fun hs => ?_⟩
  · rw [h] at hf; cases hf
  · rw [h] at hs; cases hs

/-- A station frame whose well-formedness includes the check of its address. -/
theorem of_frame {i : Instr} {src : Nat} {f : Machine.FrameKind} (h : Machine.frameRow i = some (src, f))
    (hw : i.wellFormed = true → addressOk src = true) (hc : Machine.commandOp i = none) : Statement i := by
  refine ⟨fun src' f' hf hi => ?_, fun _ => hc⟩
  rw [h] at hf; cases hf
  simpa [addressOk] using hw hi

theorem resetAssert (cause : ResetCause) : Statement (.resetAssert cause) := of_no_frame rfl
theorem resetRelease (cause : ResetCause) (pair : EncPair) : Statement (.resetRelease cause pair) := of_no_frame rfl
theorem ringPortStart : Statement .ringPortStart := of_no_frame rfl
theorem forwardCount : Statement .forwardCount := of_no_frame rfl
theorem reverseCount : Statement .reverseCount := of_no_frame rfl
theorem illegalStep : Statement .illegalStep := of_no_frame rfl
theorem speedWindowEnd : Statement .speedWindowEnd := of_no_frame rfl
theorem ringFrame (stopBitMissing : Bool) (bytes : List Byte) : Statement (.ringFrame stopBitMissing bytes) := of_no_frame rfl
theorem eyeLead (src : Nat) : Statement (.eyeLead src) := of_frame rfl (fun h => h) rfl
theorem eyeTrail (src : Nat) : Statement (.eyeTrail src) := of_frame rfl (fun h => h) rfl
theorem tag (src : Nat) (read : Option Nat) : Statement (.tag src read) := of_frame rfl (fun h => (Bool.and_eq_true_iff.mp h).1) rfl
theorem entry (src : Nat) : Statement (.entry src) := of_frame rfl (fun h => h) rfl
theorem removal (src : Nat) : Statement (.removal src) := of_frame rfl (fun h => h) rfl
theorem haltOn (src : Nat) : Statement (.haltOn src) := of_frame rfl (fun h => h) rfl
theorem haltOff (src : Nat) : Statement (.haltOff src) := of_frame rfl (fun h => h) rfl
theorem atOpen (src : Nat) : Statement (.atOpen src) := of_frame rfl (fun h => h) rfl
theorem atClosed (src : Nat) : Statement (.atClosed src) := of_frame rfl (fun h => h) rfl
theorem driveFault (src : Nat) : Statement (.driveFault src) := of_frame rfl (fun h => h) rfl
theorem inductReady (src : Nat) (tote : Nat) (len : Nat) : Statement (.inductReady src tote len) := of_frame rfl (fun h => by simp only [Instr.wellFormed, Bool.and_eq_true] at h; exact h.1.1.1) rfl
theorem released (src : Nat) : Statement (.released src) := of_frame rfl (fun h => h) rfl
theorem inductEmpty (src : Nat) : Statement (.inductEmpty src) := of_frame rfl (fun h => h) rfl
theorem spurReady (src : Nat) (tote : Nat) (len : Nat) : Statement (.spurReady src tote len) := of_frame rfl (fun h => by simp only [Instr.wellFormed, Bool.and_eq_true] at h; exact h.1.1.1) rfl
theorem spurMerged (src : Nat) : Statement (.spurMerged src) := of_frame rfl (fun h => h) rfl
theorem spurEmpty (src : Nat) : Statement (.spurEmpty src) := of_frame rfl (fun h => h) rfl
theorem originPassage (rec : Nat) : Statement (.originPassage rec) := of_no_frame rfl
theorem sightingDeadline (rec : Nat) : Statement (.sightingDeadline rec) := of_no_frame rfl
theorem jamPoint (station : Nat) : Statement (.jamPoint station) := of_no_frame rfl
theorem tagLimit (station : Nat) : Statement (.tagLimit station) := of_no_frame rfl
theorem openStart (gate : Nat) : Statement (.openStart gate) := of_no_frame rfl
theorem checkPoint (gate : Nat) : Statement (.checkPoint gate) := of_no_frame rfl
theorem closeStart (gate : Nat) : Statement (.closeStart gate) := of_no_frame rfl
theorem endPoint (gate : Nat) : Statement (.endPoint gate) := of_no_frame rfl
theorem passageWatch (rec : Nat) : Statement (.passageWatch rec) := of_no_frame rfl
theorem verifyDeadline (lane : Nat) : Statement (.verifyDeadline lane) := of_no_frame rfl
theorem releasePoint : Statement .releasePoint := of_no_frame rfl
theorem confirmPoint : Statement .confirmPoint := of_no_frame rfl
theorem holePoint : Statement .holePoint := of_no_frame rfl
theorem mergePoint : Statement .mergePoint := of_no_frame rfl
theorem mergeConfirmPoint : Statement .mergeConfirmPoint := of_no_frame rfl
theorem intervalPoint : Statement .intervalPoint := of_no_frame rfl
theorem arrivalPoint : Statement .arrivalPoint := of_no_frame rfl
theorem samplePoint : Statement .samplePoint := of_no_frame rfl
theorem settlePoint : Statement .settlePoint := of_no_frame rfl
theorem resumeEndPoint : Statement .resumeEndPoint := of_no_frame rfl
theorem feedbackTimerExpiry (gate : Nat) : Statement (.feedbackTimerExpiry gate) := of_no_frame rfl
theorem stallTimerExpiry : Statement .stallTimerExpiry := of_no_frame rfl
theorem idleTimerExpiry : Statement .idleTimerExpiry := of_no_frame rfl
theorem parkTimerExpiry : Statement .parkTimerExpiry := of_no_frame rfl
theorem wakeWaitExpiry : Statement .wakeWaitExpiry := of_no_frame rfl
theorem linkTimerExpiry : Statement .linkTimerExpiry := of_no_frame rfl
theorem transmitStart : Statement .transmitStart := of_no_frame rfl
theorem transmitEnd : Statement .transmitEnd := of_no_frame rfl
theorem heartbeat (tag : Byte) : Statement (.heartbeat tag) := of_no_frame rfl
theorem setPointer (tag : Byte) (table index : Nat) : Statement (.setPointer tag table index) := of_no_frame rfl
theorem putRecords (tag : Byte) (records : List Byte) : Statement (.putRecords tag records) := of_no_frame rfl
theorem start (tag : Byte) : Statement (.start tag) := of_no_frame rfl
theorem park (tag : Byte) : Statement (.park tag) := of_no_frame rfl
theorem resume (tag : Byte) : Statement (.resume tag) := of_no_frame rfl
theorem dark (tag : Byte) : Statement (.dark tag) := of_no_frame rfl
theorem clearFault (tag : Byte) : Statement (.clearFault tag) := of_no_frame rfl
theorem toConfig (tag : Byte) : Statement (.toConfig tag) := of_no_frame rfl
theorem resetTrack (tag : Byte) : Statement (.resetTrack tag) := of_no_frame rfl
theorem resetDevice (tag : Byte) : Statement (.resetDevice tag) := of_no_frame rfl
theorem orderPut (tag : Byte) (tote : Nat) (ref : Ref) (lane priority lapLimit hold : Nat) : Statement (.orderPut tag tote ref lane priority lapLimit hold) := of_no_frame rfl
theorem orderCancel (tag : Byte) (tote : Nat) : Statement (.orderCancel tag tote) := of_no_frame rfl
theorem orderQuery (tag : Byte) (tote : Nat) : Statement (.orderQuery tag tote) := of_no_frame rfl
theorem laneSetOpen (tag : Byte) (lane : Nat) : Statement (.laneSetOpen tag lane) := of_no_frame rfl
theorem laneSetClose (tag : Byte) (lane : Nat) : Statement (.laneSetClose tag lane) := of_no_frame rfl
theorem laneClear (tag : Byte) (lane : Nat) : Statement (.laneClear tag lane) := of_no_frame rfl
theorem regulate (tag : Byte) (mode value : Nat) : Statement (.regulate tag mode value) := of_no_frame rfl
theorem inductSkip (tag : Byte) : Statement (.inductSkip tag) := of_no_frame rfl
theorem noticeMask (tag : Byte) (mask : Byte) : Statement (.noticeMask tag mask) := of_no_frame rfl
theorem queryStatus (tag : Byte) : Statement (.queryStatus tag) := of_no_frame rfl
theorem queryLane (tag : Byte) (lane : Nat) : Statement (.queryLane tag lane) := of_no_frame rfl
theorem queryTote (tag : Byte) (tote : Nat) : Statement (.queryTote tag tote) := of_no_frame rfl
theorem queryCounters (tag : Byte) (group index clear : Nat) : Statement (.queryCounters tag group index clear) := of_no_frame rfl

end Sys2Proof.Laws.Addressed
end

