-- ==== Sys2Proof/Tests/Slice0.lean ====
section
/-! SUPPORT. Small tests: the checks of well-formedness, the bytes of the spec, one step at a time on a small state, and for
every statement with hypotheses a state that meets them, clause by clause. -/

namespace Sys2Proof.Tests
open Sys2Proof.Machine

/-! ## Well-formedness: what each check refuses -/

theorem test_ill_formed_address_low : (Instr.eyeLead 0).wellFormed = false := by decide
theorem test_ill_formed_address_high : (Instr.spurEmpty 63).wellFormed = false := by decide
theorem test_ill_formed_tag : (Instr.tag 3 (some 65536)).wellFormed = false := by decide
theorem test_ill_formed_tag_address : (Instr.tag 63 none).wellFormed = false := by decide
theorem test_ill_formed_ready_length : (Instr.inductReady 2 5 0).wellFormed = false := by decide
theorem test_ill_formed_ready_long : (Instr.spurReady 2 5 256).wellFormed = false := by decide
theorem test_ill_formed_ready_tote : (Instr.inductReady 2 65536 90).wellFormed = false := by decide
theorem test_ill_formed_station : (Instr.jamPoint 28).wellFormed = false := by decide
theorem test_ill_formed_gate : (Instr.openStart 17).wellFormed = false := by decide
theorem test_ill_formed_pointer : (Instr.setPointer 1#8 256 0).wellFormed = false := by decide
theorem test_ill_formed_records : (Instr.putRecords 1#8 (List.replicate 23 0#8)).wellFormed = false := by decide
theorem test_ill_formed_order : (Instr.orderPut 1#8 65536 0#32 1 1 1 0).wellFormed = false := by decide
theorem test_ill_formed_order_lane : (Instr.orderPut 1#8 5 0#32 256 1 1 0).wellFormed = false := by decide
theorem test_ill_formed_order_tote : (Instr.orderQuery 1#8 65536).wellFormed = false := by decide
theorem test_ill_formed_lane : (Instr.laneClear 1#8 256).wellFormed = false := by decide
theorem test_ill_formed_regulate : (Instr.regulate 1#8 3 65536).wellFormed = false := by decide
theorem test_ill_formed_counters : (Instr.queryCounters 1#8 1 0 256).wellFormed = false := by decide
theorem test_well_formed : (Instr.tag 62 (some 4095)).wellFormed = true ∧ (Instr.queryLane 1#8 255).wellFormed = true ∧
    Instr.forwardCount.wellFormed = true := by decide

/-! ## A small loop -/

/-- A station with one address. -/
def plain (k : StationKind) (pos prim lat : Nat) : Station := ⟨k, pos, prim, 0, 0, 0, 0, 0, 0, lat⟩
/-- A diverter: 180 ms and 150 ms, margins 12 and 10, as in section 5.1.1. -/
def gateAt (k : StationKind) (lane pos prim : Nat) : Station := ⟨k, pos, prim, prim + 1, lane, 180, 150, 12, 10, 5⟩
/-- An induction station, a reader, the diverter of lane 5, the spur and the return diverter. -/
def theMap : StationMap :=
  vset (vset (vset (vset (vset (Vector.replicate 28 Station.empty) 0 (plain .induct 0 2 4)) 1 (plain .reader 1500 3 8)) 2
    (gateAt .laneDiverter 5 7350 20)) 3 (plain .merge 9800 50 5)) 4 (gateAt .returnDiverter 0 11000 52)
/-- An open pass. -/
def pass : Eye := { Eye.initial with pass := .opened, lead := some 999990, jam := some 1000230 }
/-- A CLOSED gate, and an OPEN one. -/
def gateClosed : Gate := ⟨.closed, none, .none, false⟩
def gateOpened : Gate := ⟨.opened, none, .none, false⟩
/-- RUNNING at odometer 1,000,000 with an empty belt, every gate CLOSED, every lane open. -/
def on : State := { State.reset with
  pos := { State.reset.pos with map := theMap, inForce := some theMap, odo := 1000000 }
  reg := { State.reset.reg with next := 1002000 }
  rng := { State.reset.rng with bypass := false }
  run := { State.reset.run with st := .running, belt := true, stall := some 500 }
  sgt := { State.reset.sgt with
    eyes := vset (vset (vset State.reset.sgt.eyes 0 (some .initial)) 1 (some .initial)) 3 (some .initial) }
  gtc := { State.reset.gtc with
    gates := vset (vset State.reset.gtc.gates 5 (some gateClosed)) 0 (some gateClosed) }
  lan := ⟨vset State.reset.lan.lanes 5 { laneOf State.reset 5 with closed := false, reported := .opened }⟩ }

/-- The parts of the invariant, each a statement that can be decided. -/
theorem inv_of {s : State} (h1 : s.run.belt = s.run.st.beltOn ∧ s.run.stall.isSome = s.run.belt ∧
      (s.run.settle.isSome ↔ s.run.st = .starting) ∧ (s.run.rule.isSome ↔ s.run.st = .parked ∨ s.run.st = .dark) ∧
      (s.run.endPoint.isSome ↔ s.run.stage = .lap) ∧ (s.run.cause ≠ .none ↔ s.run.st = .fault) ∧
      (s.run.idle.isSome → s.run.st = .running) ∧ (s.run.park.isSome → s.run.st = .parked) ∧
      (s.run.wake.isSome → s.run.st = .parked ∨ s.run.st = .dark))
    (h2 : s.trk.list.length ≤ 96 ∧ s.trk.list.countP (fun r => r.role = .hole) ≤ 1 ∧
      (s.trk.list.filterMap (·.tote)).Nodup ∧ (s.trk.list.map (·.id)).Nodup ∧ ∀ r ∈ s.trk.list, r.id < s.trk.nextId)
    (h3 : s.ord.entries.length ≤ 512 ∧ (s.ord.entries.map (·.tote)).Pairwise (· < ·))
    (h4 : ∀ l ∈ s.lan.lanes.toList, l.occ ≤ 15 ∧ l.streak ≤ 2 ∧ l.verify.length ≤ 4 ∧ l.reported = l.computed)
    (h5 : (∀ q ∈ s.fpl.queues.toList, q.length ≤ 8) ∧ s.rng.forward.length ≤ 8 ∧ (s.rng.control.map (·.dst)).Nodup ∧
      s.rng.replies.length ≤ 8 ∧ s.ntq.queue.length ≤ 32)
    (h6 : s.pos.odo < 2 ^ 40 ∧ s.pos.tally ≤ 255 ∧ s.pos.v ≤ 1000) : Inv s :=
  ⟨⟨h1.1, h1.2.1, h1.2.2.1, h1.2.2.2.1, h1.2.2.2.2.1, h1.2.2.2.2.2.1, h1.2.2.2.2.2.2.1, h1.2.2.2.2.2.2.2.1,
    h1.2.2.2.2.2.2.2.2⟩,
   ⟨h2.1, h2.2.1, h2.2.2.1, h2.2.2.2.1, h2.2.2.2.2⟩, ⟨h3.1, h3.2⟩,
   fun l hl => ⟨(h4 l hl).1, (h4 l hl).2.1, (h4 l hl).2.2.1, (h4 l hl).2.2.2⟩, h5.1,
   ⟨h5.2.1, h5.2.2.1, h5.2.2.2.1, h5.2.2.2.2⟩, ⟨h6.1, h6.2.1, h6.2.2⟩⟩

theorem inv_on : Inv on := inv_of (by decide) (by decide) (by decide) (by decide) (by decide) (by decide)
theorem hands_of {s : State} {src i : Nat} {f : FrameKind} {x : Station} (h : nextDue s = none ∧ portRuns s = true ∧
    lookUp s src f = some (x, i) ∧ x.accepts src f = true) : Hands s src f x i := ⟨h.1, h.2.1, h.2.2.1, h.2.2.2⟩
theorem takes_of {s : State} {tag : Byte} (h : nextDue s = none ∧ portRuns s = true ∧
    s.rng.replies.length < Config.maxReplies ∧ s.cmd.resetWaiting = false ∧ tag ≠ 0#8) : Takes s tag :=
  ⟨h.1, h.2.1, h.2.2.1, h.2.2.2.1, h.2.2.2.2⟩

/-! ## More states -/

/-- A tracking record on this loop. -/
def record (id : Nat) (tote : Option Nat) (role : Role) (dest : Option Nat) (anchor : Int) (len : Nat) : Rec :=
  ⟨id, tote, role, .none, 7#32, anchor, len, dest, 0, .riding, 0, 0, false, false, none, some 1, .none, none⟩
/-- The order of tote 2222, in a state. -/
def order (st : EntryState) : Entry := ⟨2222, 7#32, 5, false, 3, false, st⟩
/-- A planned fire of gate 5 for the record with handle 1, its open-start at the odometer. -/
def fire : Fire := ⟨[1], 1000000, 1000020, 1000130, 17, .planned, false, false⟩
/-- A state with a queue at gate 5. -/
def State.gate5 (s : State) (y : Gate) (q : List Fire) : State := { s with
  fpl := { s.fpl with queues := vset s.fpl.queues 5 q }
  gtc := { s.gtc with gates := vset s.gtc.gates 5 (some y) } }
/-- A state with records and orders. -/
def State.carrying (s : State) (l : List Rec) (e : List Entry) : State :=
  { s with trk := { s.trk with list := l, nextId := 9 }, ord := ⟨e⟩ }
/-- The tote of section 5.1.1, at position 2,100 with the odometer at 1,002,100. -/
def s511 : State := { State.carrying on [record 1 (some 2222) .order (some 5) 1000000 96] [order .riding] with
  pos := { on.pos with odo := 1002100, vref := 110 } }
/-- One tote bound for lane 5. -/
def one : State := State.carrying on [record 1 (some 2222) .order (some 5) 998000 96] [order .riding]
/-- The loop in another run state. -/
def State.runs (s : State) (st : RunState) : State := { s with run := { State.reset.run with
  st := st, belt := st.beltOn, stall := if st.beltOn then some 500 else none
  settle := if st = .starting then some 1000300 else none
  rule := if st = .parked ∨ st = .dark then some .host else none
  cause := if st = .fault then .eyeJam else .none } }
/-- The loop with lane 5's fields changed. -/
def State.lane5 (s : State) (f : Lane → Lane) : State :=
  { s with lan := ⟨vset s.lan.lanes 5 { f (laneOf s 5) with reported := (f (laneOf s 5)).computed }⟩ }

theorem inv_one : Inv one := inv_of (by decide) (by decide) (by decide) (by decide) (by decide) (by decide)
theorem inv_runs : ∀ st : RunState, st ≠ .config → Inv (State.runs on st) := by
  intro st; cases st <;> intro _ <;>
    exact inv_of (by decide) (by decide) (by decide) (by decide) (by decide) (by decide)
theorem inv_config : Inv (State.runs on .config) :=
  inv_of (by decide) (by decide) (by decide) (by decide) (by decide) (by decide)
theorem takes_on : Takes on 7#8 := takes_of (by decide)
theorem takes_runs : ∀ st : RunState, Takes (State.runs on st) 7#8 := by
  intro st; cases st <;> exact takes_of (by decide)

/-! ## Worked examples of the spec -/

theorem test_section_5_1_1 :
    (queueOf (planReq 1 s511) 5).map (fun x => (x.f, x.k, x.c, x.e)) = [(1007318, 1007338, 1007456, 1007473)] := by decide
theorem test_section_5_1_1_late :
    let t := planReq 1 { s511 with pos := { s511.pos with odo := 1007320 } }
    t.trk.list.map (fun r => (r.refusal, r.watch)) = [(.late, some 1007350)] ∧
      (queueOf t 5).map (·.f) = [1019318] := by decide
theorem test_crc : crcOf [49#8, 50#8, 51#8, 52#8, 53#8, 54#8, 55#8, 56#8, 57#8] = 0x29B1#16 := by decide +kernel
theorem test_step_runs_the_front : step { on with pending := [.heartbeat 7#8, .forwardCount] } =
    .next (State.replied { on with pending := [.forwardCount] } 1 7#8 .done [3#8, 0#8]) := by rfl
theorem test_from_reset : step { State.reset with pending := [.ringPortStart] } =
    .next { State.reset with rng := { State.reset.rng with bypass := false } } := by rfl

/-- The state after a row. -/
def after (c : Instr) (s : State) : State := match exec c s with | .next t => t | _ => s
/-- The loop with a settle distance of 0. -/
def State.unsettled (s : State) : State := { s with params := { s.params with settleDist := 0 } }
/-- With a settle distance of 0 the reply to RESUME and to START carries RUNNING (log 42). -/
theorem test_resume_settles_at_once :
    let t := after (.resume 7#8) (State.unsettled (State.runs on .parked))
    t.rng.replies = [⟨6, 7#8, .done, [3#8], false⟩] ∧ t.run.st = .running ∧ nextDue t = none := by decide +kernel
theorem test_start_settles_at_once :
    let t := after (.start 7#8) (State.unsettled (State.runs on .config))
    t.rng.replies = [⟨4, 7#8, .done, [3#8], false⟩] ∧ t.run.st = .running ∧ nextDue t = none := by decide +kernel
/-- Accrual has paused with a count of more than two intervals, one below the debt at which a hole is requested. -/
def paused : State := { on with mrg := { on.mrg with count := 7000, debt := 7 } }
/-- The resume takes the interval points it reaches before the merge point pauses accrual again (R4, R160, R165). -/
theorem test_resume_of_accrual :
    let t := after (.spurReady 50 3001 80) paused
    (t.mrg.count, t.mrg.debt, t.mrg.interval, t.mrg.since, t.mrg.hole, t.ind.holeWait) =
      (0, 8, some 1002000, 999000, .requested, some 80) ∧ t.mrg.mergePoint = some 1000000 := by decide
/-- A load of I that moves the interval point below the odometer has it taken before the reply (R165, R201). -/
theorem test_loaded_interval :
    let m : Mrg := { on.mrg with ready := some ⟨some 3001, 80⟩, interval := some 1001000, since := 998000 }
    let t := after (.putRecords 7#8 [0x01#8, 0xF4#8])
      { on with mrg := m, cmd := { on.cmd with table := .params, index := 9 } }
    (t.mrg.debt, t.mrg.interval, t.rng.replies.length) = (4, some 1000500, 1) := by decide +kernel

/-! ## The hypotheses of the statements are met -/

/-- The loop at another odometer. -/
def State.at (s : State) (odo : Nat) : State := { s with pos := { s.pos with odo := odo } }
/-- The eye of the reader, changed. -/
def State.eye1 (s : State) (e : Eye) : State := { s with sgt := { s.sgt with eyes := vset s.sgt.eyes 1 (some e) } }
/-- A frame for the part from a station. -/
def frameFor (src kind : Nat) (p : List Byte) : Frame := ⟨0, src, 0, kind, p⟩
/-- The record of 2222 in the list. -/
def tote : Rec := record 1 (some 2222) .order (some 5) 998000 96
/-- The stations of the loop. -/
def reader : Station := plain .reader 1500 3 8
def induct : Station := plain .induct 0 2 4
def merge : Station := plain .merge 9800 50 5
def gate5 : Station := gateAt .laneDiverter 5 7350 20

/-- The parts of the links, each a statement that can be decided. -/
theorem links_of {s : State} (hp : s.params = State.reset.params) (m : StationMap) (hm : s.pos.inForce = some m)
    (h1 : (∀ x ∈ s.pos.map.toList, stationOk x = true) ∧ (∀ x ∈ m.toList, stationOk x = true) ∧
      (s.params.vnom ≤ s.pos.vref ∧ s.pos.vref ≤ s.params.vmax) ∧ s.reg.s ≤ 1023 ∧
      s.reg.g = min (s.params.gmin + s.reg.s / 4) s.params.gmax ∧ -8 ≤ s.mrg.debt ∧ s.mrg.debt ≤ 8)
    (h2 : (∀ r ∈ s.trk.list, r.anchor ≤ s.pos.odo ∧ (s.pos.odo : Int) ≤ r.anchor + s.params.loopLen) ∧
      (s.trk.list.map (·.anchor)).Pairwise (· ≤ ·))
    (h3 : (∀ q ∈ s.fpl.queues.toList, (q.map (·.f)).Pairwise (· ≤ ·) ∧
        ∀ x ∈ q, x.f < x.c ∧ x.members.length ≤ Config.maxGroup) ∧
      (s.fpl.queues.toList.flatMap fun q => q.flatMap (·.members)).Nodup ∧
      (∀ q ∈ s.fpl.queues.toList, ∀ x ∈ q, ∀ k ∈ x.members, ∃ r ∈ s.trk.list, r.id = k ∧ r.role ≠ .hole))
    (h4 : ∀ g < 17, ∀ x ∈ queueOf s g, x.st = .planned → ∀ k ∈ x.members, ∃ r ∈ s.trk.list,
      r.id = k ∧ r.dest = some g ∧ (r.st = .riding ∨ r.st = .missing))
    (h5 : (∀ n < 17, ∀ e ∈ (laneOf s n).verify, ∃ r ∈ s.trk.list, r.id = e.who ∧ r.st = .verifying ∧ r.dest = some n) ∧
      (s.lan.lanes.toList.flatMap fun l => l.verify.map (·.who)).Nodup ∧
      ∀ r ∈ s.trk.list, r.st = .verifying → r.deadline = none ∧ ∃ l ∈ s.lan.lanes.toList, ∃ e ∈ l.verify, e.who = r.id)
    (h6 : (∀ e ∈ s.ord.entries, e.st = .riding → ∃ r ∈ s.trk.list, r.role = .order ∧ r.tote = some e.tote) ∧
      ∀ r ∈ s.trk.list, r.role = .order → ∃ e ∈ s.ord.entries, r.tote = some e.tote ∧ e.st = .riding)
    (h7 : planningDark s.run = false ∧ s.run.st ≠ .config ∧
      ((∃ r ∈ s.trk.list, r.role = .hole) → s.mrg.hole = .travelling)) : Links s := by
  refine ⟨⟨?_, h1.1, fun x hx => ?_, h1.2.2.1, h1.2.2.2.1, h1.2.2.2.2.1, h1.2.2.2.2.2⟩, ⟨h2.1, h2.2⟩,
    ⟨fun q hq => (h3.1 q hq).1, fun q hq => (h3.1 q hq).2, h3.2.1, h3.2.2, fun g => ?_⟩,
    ⟨fun n => ?_, h5.2.1, h5.2.2⟩, ⟨h6.1, h6.2⟩,
    ⟨fun h => by simp [h7.1] at h, fun h => absurd h h7.2.1, fun h => by simp [hm] at h, h7.2.2⟩⟩
  · rw [hp]; constructor <;> decide
  · have : m = x := by simpa [hm] using hx
    exact this ▸ h1.2.1
  · by_cases hg : g < 17
    · exact h4 g hg
    · have hq : queueOf s g = [] := by
        unfold queueOf vget; rw [List.getD_eq_getElem?_getD, List.getElem?_eq_none (by simp [Config.lanes]; omega)]; rfl
      simp [hq]
  · by_cases hn : n < 17
    · exact h5.1 n hn
    · have hv : (laneOf s n).verify = [] := by
        unfold laneOf vget; rw [List.getD_eq_getElem?_getD, List.getElem?_eq_none (by simp [Config.lanes]; omega)]; rfl
      simp [hv]

/-- A belt at work: 2222 stands VERIFYING at lane 5, 3333 rides towards its gate with a PLANNED fire. -/
def busy (y : Gate) : State :=
  let s := State.gate5 (State.carrying on
    [{ tote with anchor := 992640, st := .verifying, expected := none },
      record 2 (some 3333) .order (some 5) 994000 96]
    [order .riding, { order .riding with tote := 3333 }]) y [⟨[2], 1001320, 1001338, 1001456, 17, .planned, false, false⟩]
  State.lane5 s fun l => { l with verify := [⟨1, 1000040, false⟩] }
theorem inv_busy : Inv (busy gateClosed) ∧ Inv (busy gateOpened) :=
  ⟨inv_of (by decide) (by decide) (by decide) (by decide) (by decide) (by decide),
    inv_of (by decide) (by decide) (by decide) (by decide) (by decide) (by decide)⟩
theorem links_busy : Links (busy gateClosed) ∧ Links (busy gateOpened) :=
  ⟨links_of rfl theMap rfl (by decide) (by decide) (by decide) (by decide) (by decide) (by decide) (by decide),
    links_of rfl theMap rfl (by decide) (by decide) (by decide) (by decide) (by decide) (by decide) (by decide)⟩

/-! ### Steps, resets, the encoder -/

theorem inv_sample : Inv (State.at on 1002000) :=
  inv_of (by decide) (by decide) (by decide) (by decide) (by decide) (by decide)
theorem witness_StepOnAnEmptyQueueTakesAReachedPoint : on.pending = [] ∧ nextDue on = none ∧
    (State.at on 1002000).pending = [] ∧ nextDue (State.at on 1002000) = some .samplePoint ∧
    nextDue (State.at on 1001999) = none := by decide

theorem witness_EveryStepKeeps : Inv (busy gateClosed) ∧ Links (busy gateClosed) ∧ RangesOk (busy gateClosed) ∧
    (busy gateClosed).pos.odo + 1 < 2 ^ 40 ∧ step (busy gateClosed) = .next (busy gateClosed) :=
  ⟨inv_busy.1, links_busy.1, links_busy.1.ranges, by decide, by rfl⟩

theorem witness_EncoderCounts :
    let low : State := { on with pos := { on.pos with tally := 63 } }
    let high : State := { State.runs on .config with pos := { on.pos with tally := 64 } }
    notHeld { on with held := ⟨true, false⟩ } = false ∧ notHeld on = true ∧ on.pos.tally = 0 ∧ on.pos.odo + 1 < 2 ^ 40 ∧
      nextDue on = none ∧ ¬(State.at on (2 ^ 40 - 1)).pos.odo + 1 < 2 ^ 40 ∧ 0 < ({ on.pos with tally := 1 } : Pos).tally ∧
      notHeld low = true ∧ nextDue low = none ∧ low.pos.tally < 64 ∧ notHeld high = true ∧ nextDue high = none ∧
      64 ≤ high.pos.tally ∧ high.run.st = .config ∧ on.run.st ≠ .config ∧ on.run.st ≠ .fault := by decide

theorem witness_SpeedWindowEnd : notHeld on = true ∧ nextDue on = none ∧ on.pos.overspd = false ∧
    min (4 * 56) 1000 ≤ on.params.vmax + on.params.vmax / 8 ∧ on.params.vmax + on.params.vmax / 8 < min (4 * 57) 1000 := by
  decide

/-! ### The ring -/

theorem witness_FrameCheck :
    let r : Reply := ⟨22, 7#8, .done, List.replicate 21 0#8, false⟩
    let x : Frame := ⟨63, 63, 63, 48, List.replicate 24 0#8⟩
    1 ≤ r.op ∧ r.op ≤ 22 ∧ r.data.length ≤ 21 ∧ x.dst ≤ 63 ∧ x.src ≤ 63 ∧ x.hop ≤ 63 ∧ x.kind < 256 ∧
      x.payload.length ≤ 24 ∧ payloadLengthOk x.kind x.payload = true ∧ payloadCodesOk x.kind x.payload = true := by decide

/-- The port runs, no point is reached, and a frame passes the check. -/
theorem ring_ready : portRuns on = true ∧ nextDue on = none ∧ frameOf false [] = none := by decide
theorem witness_RingFrames :
    let own : Frame := ⟨7, 0, 0, 37, []⟩
    let old : Frame := ⟨7, 3, 63, 37, []⟩
    let other : Frame := ⟨7, 3, 62, 37, []⟩
    frameOf false own.bytes = some own ∧ frameOf false old.bytes = some old ∧ frameOf false other.bytes = some other ∧
      own.src ≠ on.params.mgmtAddr ∧ old.src ≠ 0 ∧ other.hop ≠ 63 ∧
      on.rng.forward.length < 8 ∧ 8 ≤ ({ on.rng with forward := List.replicate 8 other } : Rng).forward.length := by
  decide +kernel

theorem witness_RingFrameOfAStation :
    ([frameFor 3 16 [1#8], frameFor 3 17 [1#8, 8#8, 174#8], frameFor 21 18 [4#8], frameFor 20 19 [3#8],
      frameFor 2 20 [1#8, 8#8, 174#8, 90#8], frameFor 50 21 [3#8]].all fun x =>
        frameOf false x.bytes = some x ∧ x.src ≠ 0 ∧ x.hop ≠ 63 ∧ x.dst = 0) = true := by decide +kernel

theorem witness_RingFrameOfACommand :
    let x := frameFor 1 48 [1#8, 7#8]
    let y := frameFor 3 48 [1#8, 7#8]
    frameOf false x.bytes = some x ∧ x.src = on.params.mgmtAddr ∧ commandRow x.payload = some (.heartbeat 7#8) ∧
      frameOf false y.bytes = some y ∧ y.src ≠ on.params.mgmtAddr := by decide +kernel

theorem witness_BroadcastsAndTheLinkReport :
    ([(⟨7, 1, 63, 37, []⟩ : Frame), ⟨7, 1, 0, 37, []⟩, ⟨0, 3, 0, 32, [1#8]⟩, ⟨63, 3, 0, 37, []⟩, ⟨63, 3, 0, 16, [1#8]⟩].all
        fun x => frameOf false x.bytes = some x ∧ x.src ≠ 0) = true ∧
      32 ∉ [16, 17, 18, 19, 20, 21, 48] ∧ 1 = on.params.mgmtAddr ∧ 3 ≠ on.params.mgmtAddr := by decide +kernel
/-- The reply queue full. -/
def answering : State :=
  { on with rng := { on.rng with replies := List.replicate 8 ⟨1, 7#8, .done, [], false⟩ } }
theorem witness_BadCommands : on.rng.replies.length < 8 ∧ on.cmd.resetWaiting = false ∧ 8 ≤ answering.rng.replies.length ∧
    ([[23#8, 7#8], [23#8, 0#8], [1#8, 7#8, 0#8], [10#8, 7#8, 3#8], [14#8, 7#8, 5#8, 3#8], [10#8, 7#8]].all fun p =>
      let x := frameFor on.params.mgmtAddr 48 p
      frameOf false x.bytes = some x ∧ x.src ≠ 0 ∧ x.dst = 0 ∧ commandRow x.payload = none) = true := by decide +kernel
theorem test_bad_command_answered :
    (after (.ringFrame false (frameFor 1 48 [14#8, 7#8, 5#8, 3#8]).bytes) on).rng.replies = [⟨14, 7#8, .range, [], false⟩] ∧
    (after (.ringFrame false (frameFor 1 48 [23#8, 7#8]).bytes) answering).rng.cmdDrops = 1 := by decide +kernel

theorem witness_Transmission :
    let x : Frame := ⟨7, 3, 1, 37, []⟩
    let r : Rng := { on.rng with forward := [x], control := [⟨20, .gateOpen⟩], replies := [⟨1, 7#8, .done, [], false⟩] }
    let n : Ntq := { on.ntq with queue := List.replicate 17 ⟨1000000, .hostless true⟩, overflow := 1 }
    on.rng.sending = none ∧ on.rng.forward = [] ∧ on.rng.control = [] ∧ on.rng.replies = [] ∧
      on.ntq.queue = [] ∧ r.turn = .forward ∧ r.forward = [x] ∧ ({ r with turn := .own } : Rng).control = [⟨20, .gateOpen⟩] ∧
      ({ r with control := [], turn := .own } : Rng).replies = [⟨1, 7#8, .done, [], false⟩] ∧
      ({ r with sending := some ⟨x, .forwarded⟩ } : Rng).sending.isSome ∧
      (notify (.hostless true) on).ntq.queue = [⟨1000000, .hostless true⟩] ∧
      (n.queue.tail.length = 16 ∧ 0 < n.overflow) := by decide

/-- The part sends a frame. -/
def sends (k : SentAs) : State := { on with rng := { on.rng with sending := some ⟨⟨2, 0, 0, 34, []⟩, k⟩ } }
theorem witness_TransmitEnd : nextDue (sends .forwarded) = none ∧ nextDue (sends (.command .releaseReject)) = none ∧
    nextDue (sends (.reply true)) = none ∧ SentAs.forwarded ≠ .command .releaseReject ∧ SentAs.forwarded ≠ .reply true := by
  decide

/-- The run state, the fault cause with its detail, the further causes and the notices that a state shows. -/
def faultOf (s : State) := (s.run.st, s.run.cause, s.run.detail, s.run.further, s.ntq.queue.map (·.notice))
/-- A part in FAULT with cause EYE_JAM, with further causes. -/
def faulted (x : Further) : State := { State.runs on .fault with run := { (State.runs on .fault).run with further := x } }
/-- The tally at which the next reverse count is reported. -/
def backed (s : State) : State := { s with pos := { s.pos with tally := 64 } }
theorem witness_ReverseCountAtAFault : ∀ x ∈ [⟨false, false, false, false⟩, (⟨false, true, false, false⟩ : Further)],
    notHeld (backed (faulted x)) = true ∧ nextDue (backed (faulted x)) = none ∧ 64 ≤ (backed (faulted x)).pos.tally ∧
      (faulted x).run.st = .fault ∧ (faulted x).run.cause ≠ .beltReverse := by decide
theorem test_reverse_count_at_a_fault :
    faultOf (after .reverseCount (backed (faulted ⟨false, false, false, true⟩))) =
      (.fault, .eyeJam, 0, ⟨false, true, false, true⟩, [.fault .beltReverse 0 .fault]) ∧
    faultOf (after .reverseCount (backed (faulted ⟨false, true, false, true⟩))) =
      (.fault, .eyeJam, 0, ⟨false, true, false, true⟩, []) := by decide
theorem test_reverse_count_elsewhere :
    faultOf (after .reverseCount (backed (State.runs on .config))) =
      (.config, .none, 0, ⟨false, false, false, false⟩, [.fault .beltReverse 0 .config]) ∧
    faultOf (after .reverseCount (backed on)) =
      (.fault, .beltReverse, 0, ⟨false, false, false, false⟩, [.state .running .fault (.fault .beltReverse)]) := by decide

/-! ### Station frames -/

theorem witness_FrameOfStationFrames : frameRow (.eyeLead 9) = some (9, .eye) ∧ lookUp on 9 .eye = none ∧
    frameRow (.entry 3) = some (3, .lane) ∧ lookUp on 3 .lane = some (reader, 1) ∧ reader.accepts 3 .lane = false ∧
    portRuns on = true ∧ portRuns State.reset = false ∧ nextDue State.reset = none := by decide

theorem witness_FrameOfPointsAndTimers : stands on .samplePoint = some false ∧ beltPoint .samplePoint = true ∧
    stands on .stallTimerExpiry = some true ∧ stands on (.jamPoint 27) = some false ∧ nextDue on = none := by decide

/-- The eyes of the statements: open and unread, open and read, open with a NOREAD held, awaiting, each with its lead 9
counts before the frame's stamp. -/
def awaiting : Eye := { Eye.initial with
  pass := .awaiting, lead := some 999890, trail := some 999990, tagLimit := some 1000006, prevTrail := some 999990 }
def theEyes : List Eye := [.initial, pass, { pass with noreadHeld := true }, { pass with res := .seen 1 }, awaiting,
  { pass with crowded := some 9, prevTrail := some 999981, prevRec := some 2 }]
theorem hands_eyes : ∀ e ∈ theEyes, Hands (State.eye1 one e) 3 .eye reader 1 ∧ Hands (State.eye1 one e) 3 .tag reader 1 ∧
    eyeOf (State.eye1 one e) 1 = some e ∧ (State.eye1 one e).run.st ≠ .config := by
  intro e h
  simp only [theEyes, List.mem_cons, List.not_mem_nil, or_false] at h
  rcases h with rfl | rfl | rfl | rfl | rfl | rfl <;>
    exact ⟨hands_of (by decide), hands_of (by decide), by decide, by decide⟩
theorem inv_eyes : ∀ e, Inv (State.eye1 one e) := fun _ =>
  ⟨inv_one.1, inv_one.2, inv_one.3, inv_one.4, inv_one.5,
    ⟨inv_one.6.1, inv_one.6.2, inv_one.6.3, inv_one.6.4⟩, inv_one.7⟩

theorem witness_EyeFrames : Eye.initial.pass = .noPass ∧ pass.pass = .opened ∧ pass.res = .unread ∧
    pass.noreadHeld = false ∧ Hands (State.runs on .config) 3 .eye reader 1 ∧ (State.runs on .config).run.st = .config ∧
    eyeOf (State.runs on .config) 1 = some .initial :=
  ⟨by decide, by decide, by decide, by decide, hands_of (by decide), by decide, by decide⟩

theorem witness_EyesInConfig : Hands (State.runs on .config) 3 .eye reader 1 ∧ Hands (State.runs on .config) 3 .tag reader 1 ∧
    (State.runs on .config).run.st = .config := ⟨hands_of (by decide), hands_of (by decide), by decide⟩
theorem witness_Tag : decide (1 ≤ 4094 ∧ 4094 ≤ 4094) = true ∧ decide (1 ≤ 4095 ∧ 4095 ≤ 4094) = false ∧
    awaiting.pass = .awaiting := by decide

theorem witness_AReadPutsItsRecord : Inv one ∧ Hands one 3 .tag reader 1 ∧ eyeOf one 1 = some .initial ∧
    one.run.st ≠ .config ∧ carrier one 2222 = some tote :=
  ⟨inv_one, hands_of (by decide), by decide, by decide, by decide⟩

/-- A sighting of the reader at the stamp of a TAG with no pass. -/
def seen (read : Option Nat) : Sighting := ⟨read, 1500, 999992, none, 1, .reader⟩
/-- A belt with one record whose reader passage is near, carrying a number or none. -/
def nearby (t : Option Nat) : State := State.carrying on [record 1 t .ret (some 0) 998490 96] []
theorem near_without : Nearest (nearby none) (seen (some 3)) (fun r => r.tote = none) (record 1 none .ret (some 0) 998490 96) :=
  ⟨⟨by decide, rfl, by decide⟩, [], [], by decide, by simp, by simp⟩
theorem near_noread : Nearest (nearby (some 4)) (seen none) (fun r => r.st ≠ .unsure)
    (record 1 (some 4) .ret (some 0) 998490 96) :=
  ⟨⟨by decide, by decide, by decide⟩, [], [], by decide, by simp, by simp⟩
theorem witness_SightingsByPosition : Inv (nearby none) ∧ Hands (nearby none) 3 .tag reader 1 ∧
    eyeOf (nearby none) 1 = some .initial ∧ carrier (nearby none) 3 = none ∧ Inv (nearby (some 4)) ∧
    Hands (nearby (some 4)) 3 .tag reader 1 :=
  ⟨inv_of (by decide) (by decide) (by decide) (by decide) (by decide) (by decide), hands_of (by decide), by decide,
    by decide, inv_of (by decide) (by decide) (by decide) (by decide) (by decide) (by decide), hands_of (by decide)⟩
theorem witness_SightingsByNumber : carrier (nearby (some 4)) 4 = some (record 1 (some 4) .ret (some 0) 998490 96) ∧
    (diffAt (nearby (some 4)) (seen (some 4)) (record 1 (some 4) .ret (some 0) 998490 96)).natAbs ≤ 40 ∧
    readReach one tote = 40 ∧ 40 < (diffAt one (seen (some 2222)) tote).natAbs := by decide
theorem witness_Unmatched : Unmatched on (seen (some 2222)) ∧ Unmatched on (seen none) ∧ Source.creates .reader ∧
    ¬Source.creates .inductEye ∧ on.trk.list.length < 96 ∧ findEntry on 2222 = none ∧
    Unmatched (State.carrying on [] [order .lost]) (seen (some 2222)) ∧
    findEntry (State.carrying on [] [order .lost]) 2222 = some (order .lost) :=
  ⟨⟨by decide, by simp [on, State.reset]⟩, by simp [Unmatched, seen, on, State.reset],
    Or.inl rfl, by simp [Source.creates], by decide, by decide, ⟨by decide, by simp [State.carrying]⟩, by decide⟩
theorem witness_TagLimit : Inv (State.eye1 one { awaiting with tagLimit := some 1000000 }) ∧
    eyeOf (State.eye1 one { awaiting with tagLimit := some 1000000 }) 1 = some { awaiting with tagLimit := some 1000000 } ∧
    awaiting.crowded = none ∧ pass.crowded = none ∧ (1000000 : Int) ≤ one.pos.odo :=
  ⟨inv_eyes _, by decide, by decide, by decide, by decide⟩

/-- The record of 2222 where it verifies. -/
def verifies : Rec := { tote with anchor := 992640, st := .verifying, expected := none }
theorem witness_AFailedDivert : Hands (busy gateClosed) 3 .tag reader 1 ∧ eyeOf (busy gateClosed) 1 = some .initial ∧
    (busy gateClosed).run.st ≠ .config ∧ ⟨1, 1000040, false⟩ ∈ (laneOf (busy gateClosed) 5).verify ∧
    carrier (busy gateClosed) 2222 = some verifies ∧ linkedEntry (busy gateClosed) verifies = some (order .riding) ∧
    min 15 (verifies.laps + 1) < (order .riding).lapLimit ∧ verifies.doubtful = false :=
  ⟨hands_of (by decide), by decide, by decide, by decide, by decide, by decide, by decide, by decide⟩
/-- The same tote a loop after it passed the reader: a NOREAD there finds it. -/
def unread : State := { on with
  trk := { on.trk with list := [{ verifies with anchor := 998490, dest := some 0, role := .ret }], nextId := 9 }
  lan := ⟨vset on.lan.lanes 0 { laneOf on 0 with verify := [⟨1, 1000040, false⟩] }⟩ }
theorem witness_AFailedDivertByPosition : Inv unread ∧ Links unread ∧ Hands unread 3 .tag reader 1 ∧
    ⟨1, 1000040, false⟩ ∈ (laneOf unread 0).verify ∧
    Nearest unread (seen none) (fun r => r.st ≠ .unsure) { verifies with anchor := 998490, dest := some 0, role := .ret } :=
  ⟨inv_of (by decide) (by decide) (by decide) (by decide) (by decide) (by decide),
    links_of rfl theMap rfl (by decide) (by decide) (by decide) (by decide) (by decide) (by decide) (by decide),
    hands_of (by decide), by decide, ⟨by decide, by decide, by decide⟩, [], [], by decide, by simp, by simp⟩

/-- A crowded pass of 2222 behind the record with handle 2. -/
def crowd : State := State.eye1 (State.carrying on
    [{ tote with anchor := 998490 }, record 2 (some 3333) .order (some 5) 998500 96]
    [order .riding, { order .riding with tote := 3333 }])
  { pass with crowded := some 9, prevTrail := some 999981, prevRec := some 2 }
theorem witness_Crowded : Inv crowd ∧ Links crowd ∧ Hands crowd 3 .tag reader 1 ∧
    eyeOf crowd 1 = some { pass with crowded := some 9, prevTrail := some 999981, prevRec := some 2 } ∧
    carrier crowd 2222 = some { tote with anchor := 998490 } ∧
    findRec crowd 2 = some (record 2 (some 3333) .order (some 5) 998500 96) ∧ startedFire crowd 1 = false ∧
    startedFire (State.gate5 one gateOpened [⟨[1], 999900, 999920, 1000010, 17, .started, true, false⟩]) 1 = true :=
  ⟨inv_of (by decide) (by decide) (by decide) (by decide) (by decide) (by decide),
    links_of rfl theMap rfl (by decide) (by decide) (by decide) (by decide) (by decide) (by decide) (by decide),
    hands_of (by decide), by decide,
    by decide, by decide, by decide, by decide⟩
theorem witness_Lengths : linkedEntry one tote = some (order .riding) ∧ tote.len ≠ 6 ∧
    6 ≤ (laneOf one (order .riding).lane).cfg.maxLen ∧
    (laneOf (State.lane5 one fun l => { l with cfg := { l.cfg with maxLen := 5 } }) 5).cfg.maxLen < 6 := by decide
/-- A STARTED fire whose check point is taken. -/
def underway : Fire := ⟨[1], 999900, 999920, 1000010, 17, .started, false, true⟩
/-- The same pass where 2222 is served by a STARTED fire. -/
def crowdUnderFire : State := State.gate5 crowd gateOpened [underway]
theorem witness_CrowdedUnderAFire : Inv crowdUnderFire ∧ Links crowdUnderFire ∧ Hands crowdUnderFire 3 .tag reader 1 ∧
    carrier crowdUnderFire 2222 = some { tote with anchor := 998490 } ∧
    fireOf crowdUnderFire 1 = some (5, underway) ∧
    (diffAt crowdUnderFire ⟨some 2222, 1500, 999990, none, 1, .reader⟩ { tote with anchor := 998490 }).natAbs ≤
      readReach crowdUnderFire { tote with anchor := 998490 } :=
  ⟨inv_of (by decide) (by decide) (by decide) (by decide) (by decide) (by decide),
    links_of rfl theMap rfl (by decide) (by decide) (by decide) (by decide) (by decide) (by decide) (by decide),
    hands_of (by decide), by decide,
    by decide, by decide⟩
/-- A reader window that one more pass ends. -/
def window (k : Nat) (d : Bool) : State :=
  { on with sgt := { on.sgt with windows := vset on.sgt.windows 1 (some ⟨k, 8, d⟩) } }
theorem witness_Windows : Hands (window 63 false) 3 .tag reader 1 ∧
    vget (window 63 false).sgt.windows 1 none = some ⟨63, 8, false⟩ ∧
    (stationAt (window 63 false) 1).kind = .reader ∧ eyeOf (window 63 false) 1 = some .initial ∧ 62 + 1 < 64 ∧
    64 ≤ 63 + 1 ∧ decide (on.params.noreadLimit < 8 + 0) = false ∧ decide (on.params.noreadLimit < 8 + 1) = true :=
  ⟨hands_of (by decide), by decide, by decide, by decide, by decide, by decide, by decide, by decide⟩

/-- The eyes at which a sighting is counted at the end of a window: open and unread, open with a NOREAD held, awaiting, and
awaiting at its tag limit. -/
def seenLast (e : Eye) : State := State.eye1 (window 63 false) e
theorem witness_Counted : (∀ e ∈ [pass, { pass with noreadHeld := true }, awaiting],
      Hands (seenLast e) 3 .eye reader 1 ∧ Hands (seenLast e) 3 .tag reader 1 ∧ eyeOf (seenLast e) 1 = some e ∧
      vget (seenLast e).sgt.windows 1 none = some ⟨63, 8, false⟩ ∧ (stationAt (seenLast e) 1).kind = .reader) ∧
    eyeOf (seenLast { awaiting with tagLimit := some 1000000 }) 1 = some { awaiting with tagLimit := some 1000000 } := by
  refine ⟨fun e h => ?_, by decide⟩
  simp only [List.mem_cons, List.not_mem_nil, or_false] at h
  rcases h with rfl | rfl | rfl <;>
    exact ⟨hands_of (by decide), hands_of (by decide), by decide, by decide, by decide⟩
/-- The 64th sighting: the 9th NOREAD degrades the reader, a READ does not. -/
theorem test_the_window_ends :
    let shows (t : State) := (vget t.sgt.windows 1 none, vget t.sgt.passes 1 0, vget t.sgt.noreads 1 0,
      decide (⟨1000000, .reader 1 true 9⟩ ∈ t.ntq.queue))
    let missed := (some (⟨0, 0, true⟩ : ReaderWindow), 1, 1, true)
    shows (after (.eyeLead 3) (seenLast pass)) = missed ∧ shows (after (.eyeLead 3) (seenLast awaiting)) = missed ∧
      shows (after (.eyeTrail 3) (seenLast { pass with noreadHeld := true })) = missed ∧
      shows (after (.tag 3 none) (seenLast awaiting)) = missed ∧
      shows (after (.tagLimit 1) (seenLast { awaiting with tagLimit := some 1000000 })) = missed ∧
      shows (after (.tag 3 (some 2222)) (seenLast pass)) = (some ⟨0, 0, false⟩, 1, 0, false) := by decide +kernel
/-- A tag report at an awaiting pass that measures 2222 too long for its lane. -/
def tooLong (near : Bool) : State := State.eye1 (State.lane5 (State.carrying on
  [{ tote with anchor := if near then 998390 else 998000 }] [order .riding])
  fun l => { l with cfg := { l.cfg with maxLen := 99 } }) awaiting
theorem witness_SizeAtAnAwaitingPass : ∀ near : Bool, Inv (tooLong near) ∧ Hands (tooLong near) 3 .tag reader 1 ∧
    eyeOf (tooLong near) 1 = some awaiting ∧ awaiting.crowded = none ∧
    (linkedEntry (tooLong near) tote = some (order .riding)) ∧ (laneOf (tooLong near) 5).cfg.maxLen < 100 ∧
    startedFire (tooLong near) 1 = false ∧ startedFire (State.gate5 (tooLong near) gateOpened [underway]) 1 = true := by
  intro near; cases near <;>
    exact ⟨inv_of (by decide) (by decide) (by decide) (by decide) (by decide) (by decide), hands_of (by decide), by decide,
      by decide, by decide, by decide, by decide, by decide⟩
theorem test_size_at_an_awaiting_pass : ∀ near : Bool,
    let t := after (.tag 3 (some 2222)) (tooLong near)
    t.trk.list.map (fun r => (r.role, r.reason, r.dest, r.len)) = [(.ret, .size, some 0, 100)] ∧
      t.ord.entries = [order .waiting] ∧ ⟨1000000, .size (some 2222) 7#32 5 100 99⟩ ∈ t.ntq.queue := by decide +kernel

/-! ### Lanes and gates -/

/-- The lane and the record of a delivery. -/
def verifying : State := State.lane5 one fun l => { l with verify := [⟨1, 1000040, false⟩] }
theorem inv_verifying : Inv verifying := inv_of (by decide) (by decide) (by decide) (by decide) (by decide) (by decide)
theorem witness_Deliveries : Inv verifying ∧ Hands verifying 21 .lane gate5 2 ∧ gate5.laneNumber < 17 ∧
    (laneOf verifying 5).verify = [⟨1, 1000040, false⟩] ∧ findRec verifying 1 = some tote ∧ Hands on 21 .lane gate5 2 ∧
    (laneOf on 5).verify = [] ∧ Inv (State.at verifying 1000040) ∧
    (laneOf (State.at verifying 1000040) 5).verify = [] ++ ⟨1, 1000040, false⟩ :: [] ∧
    findRec (State.at verifying 1000040) 1 = some tote :=
  ⟨inv_verifying, hands_of (by decide), by decide, by decide, by decide, hands_of (by decide), by decide,
    inv_of (by decide) (by decide) (by decide) (by decide) (by decide) (by decide), by decide, by decide⟩
theorem witness_EntryAtTheReturnLane :
    let r : Rec := { tote with doubtful := true, dest := some 0 }
    let s : State := { State.carrying on [r] [order .riding] with
      lan := ⟨vset on.lan.lanes 0 { laneOf on 0 with verify := [⟨1, 1000040, false⟩] }⟩ }
    Inv s ∧ Hands s 53 .lane (gateAt .returnDiverter 0 11000 52) 4 ∧ (gateAt .returnDiverter 0 11000 52).laneNumber = 0 ∧
      findRec s 1 = some r ∧ r.doubtful = true ∧ findEntry s 2222 = some (order .riding) :=
  ⟨inv_of (by decide) (by decide) (by decide) (by decide) (by decide) (by decide), hands_of (by decide),
    by decide, by decide, by decide, by decide⟩

theorem witness_RemovalAndHalt : Inv on ∧ Hands on 21 .lane gate5 2 ∧ (laneOf on 5).occ = 0 ∧ (laneOf on 5).halted = false ∧
    0 < (laneOf (State.lane5 on fun l => { l with occ := 1 }) 5).occ ∧
    Inv (State.lane5 on fun l => { l with occ := 1 }) ∧
      Hands (State.lane5 on fun l => { l with occ := 1 }) 21 .lane gate5 2 :=
  ⟨inv_on, hands_of (by decide), by decide, by decide, by decide,
    inv_of (by decide) (by decide) (by decide) (by decide) (by decide) (by decide), hands_of (by decide)⟩

/-- Lane 5 with an occupancy, and a tote bound for it. -/
def occupied (occ : Nat) (s : State) : State := State.lane5 s fun l => { l with occ := occ }
/-- No gate node of the loop carries the address of lane 5's node. -/
theorem lane_node_alone : ∀ m x, gateRec on m = some x → x.prim ≠ gate5.sec := by
  have all : ∀ y ∈ inForce on, y.1.prim ≠ gate5.sec := by decide
  intro m x h
  obtain ⟨y, hy, rfl⟩ := Option.map_eq_some_iff.mp h
  exact all y (List.mem_of_find?_eq_some hy)
theorem witness_LampFollows : Inv (occupied 5 verifying) ∧ Hands (occupied 5 verifying) 21 .lane gate5 2 ∧
    laneFull (occupied 5 verifying) 5 = false ∧ gateRec on 5 = some gate5 ∧
    laneFull (after (.entry 21) (occupied 5 verifying)) 5 = true ∧ gateRec on 6 = none ∧
    Inv (State.at (occupied 5 verifying) 1000040) ∧
    laneFull (after (.verifyDeadline 5) (State.at (occupied 5 verifying) 1000040)) 5 = true :=
  ⟨inv_of (by decide) (by decide) (by decide) (by decide) (by decide) (by decide), hands_of (by decide), by decide,
    by decide, by decide, by decide, inv_of (by decide) (by decide) (by decide) (by decide) (by decide) (by decide),
    by decide⟩
theorem witness_RemovalFromFull : Inv (occupied 6 one) ∧ Hands (occupied 6 one) 21 .lane gate5 2 ∧
    (laneOf (occupied 6 one) 5).cfg.cap ≤ (laneOf (occupied 6 one) 5).occ ∧
    (laneOf (occupied 6 one) 5).occ - 1 < (laneOf (occupied 6 one) 5).cfg.cap :=
  ⟨inv_of (by decide) (by decide) (by decide) (by decide) (by decide) (by decide), hands_of (by decide), by decide,
    by decide⟩
theorem test_removal_from_full :
    let t := after (.removal 21) (occupied 6 one)
    (queueOf t 5).map (·.members) = [[1]] ∧ t.rng.control = [⟨21, .lampOff⟩] ∧ (laneOf t 5).lampOn = false ∧
      (laneOf t 5).reported = .opened := by decide
theorem test_entry_into_full : (after (.entry 21) (occupied 5 verifying)).rng.control = [⟨21, .lampOn⟩] := by decide
theorem witness_RecoveredLane :
    let y : Gate := ⟨.closing, some 300, .driveFault, true⟩
    let s := State.lane5 (State.gate5 one y []) fun l => { l with faulted := some .gate }
    Hands s 20 .gate gate5 2 ∧ gateOf s 5 = some y ∧ (laneOf s 5).faulted.isSome ∧ (laneOf s 5).closed = false ∧
      (laneOf s 5).halted = false ∧ (queueOf (after (.atClosed 20) s) 5).map (·.members) = [[1]] :=
  ⟨hands_of (by decide), by decide, by decide, by decide, by decide, by decide⟩

theorem witness_Gates : ∀ st ∈ [GateState.closed, .opening, .opened, .closing, .fault],
    Hands (State.gate5 on ⟨st, none, .none, decide (st = .closing)⟩ []) 20 .gate gate5 2 ∧
    gateOf (State.gate5 on ⟨st, none, .none, decide (st = .closing)⟩ []) 5 = some ⟨st, none, .none, decide (st = .closing)⟩ := by
  intro st h
  simp only [List.mem_cons, List.not_mem_nil, or_false] at h
  rcases h with rfl | rfl | rfl | rfl | rfl <;> exact ⟨hands_of (by decide), by decide⟩
theorem witness_GateFaults : gate5.laneNumber = 5 ∧ on.run.st ≠ .config ∧ on.run.st ≠ .fault ∧
    (⟨.closing, some 300, .none, true⟩ : Gate).timer.isSome ∧
    nextDue (State.gate5 on ⟨.closing, some 300, .none, true⟩ []) = none := by decide

/-- DRIVE_FAULT and a jam point at a part in FAULT, with the cause recorded already and not, and in CONFIG. -/
theorem witness_FaultsElsewhere : ∀ st ∈ [RunState.fault, .config],
    Hands (State.gate5 (State.runs on st) gateOpened []) 20 .gate gate5 2 ∧
    gateOf (State.gate5 (State.runs on st) gateOpened []) 5 = some gateOpened ∧
    eyeOf (State.eye1 (State.runs on st) { pass with jam := some 1000000 }) 1 = some { pass with jam := some 1000000 } := by
  intro st h
  simp only [List.mem_cons, List.not_mem_nil, or_false] at h
  rcases h with rfl | rfl <;> exact ⟨hands_of (by decide), by decide, by decide⟩
/-- A state after DRIVE_FAULT of its OPEN gate 5, and after the jam point of its reader. -/
def driven (s : State) : State := after (.driveFault 20) (State.gate5 s gateOpened [])
def jammed (s : State) : State := after (.jamPoint 1) (State.eye1 s { pass with jam := some 1000000 })
/-- The notices of the faulted gate ahead of run control's. -/
def gateNotices : List Notice := [.lane 5 .faulted (some .gate) 0, .gate (.fault .driveFault) 5 .opened]
theorem test_gate_fault_at_a_fault :
    [faulted ⟨false, false, false, false⟩, faulted ⟨false, false, false, true⟩, State.runs on .config].map
        (fun s => faultOf (driven s)) =
      [(.fault, .eyeJam, 0, ⟨false, false, false, true⟩, gateNotices ++ [.fault .gate 5 .fault]),
       (.fault, .eyeJam, 0, ⟨false, false, false, true⟩, gateNotices),
       (.config, .none, 0, ⟨false, false, false, false⟩, gateNotices ++ [.fault .gate 5 .config])] := by decide
theorem test_jam_at_a_fault :
    let other : State := { State.runs on .fault with run := { (State.runs on .fault).run with cause := .gate, detail := 5 } }
    [other, State.runs on .fault, State.runs on .config].map (fun s => faultOf (jammed s)) =
      [(.fault, .gate, 5, ⟨false, false, true, false⟩, [.fault .eyeJam 1 .fault]),
       (.fault, .eyeJam, 0, ⟨false, false, false, false⟩, []),
       (.config, .none, 0, ⟨false, false, false, false⟩, [.fault .eyeJam 1 .config])] := by decide

/-! ### Induction and the spur -/

theorem witness_InductReady : Hands one 2 .induct induct 0 ∧ (carrier one 2222).isSome ∧
    carrier one 4094 = none ∧ findEntry one 4094 = none ∧
    findEntry (State.carrying on [] [order .lost]) 2222 = some (order .lost) ∧ (order .lost).st ≠ .riding ∧
    carrier (State.carrying on [] [order .lost]) 2222 = none ∧ on.ind.outstanding.map (·.tote) ≠ some 2222 ∧
    Hands { on with ind := { on.ind with ready := some ⟨⟨none, 96⟩, .heldNoread⟩ } } 2 .induct induct 0 :=
  ⟨hands_of (by decide), by decide, by decide, by decide, by decide, by decide, by decide, by decide, hands_of (by decide)⟩
/-- A stop that a READY ends. -/
def stopped (st : RunState) (asleep : Bool) : State :=
  { State.runs on st with run := { (State.runs on st).run with rule := some .auto, asleep := asleep } }
theorem witness_ReadyEndsAStop : (∀ b, Hands (stopped .parked b) 2 .induct induct 0) ∧
    Hands (stopped .dark true) 2 .induct induct 0 ∧ Hands (stopped .parked false) 50 .spur merge 3 ∧
    (stopped .dark true).run.rule = some .auto ∧ (stopped .dark true).run.wake = none :=
  ⟨fun b => by cases b <;> exact hands_of (by decide), hands_of (by decide), hands_of (by decide), by decide, by decide⟩

/-- A release of tote 2222 is outstanding. -/
def released : State := { State.carrying on [] [order .waiting] with
  ind := { on.ind with outstanding := some ⟨2222, 96, 999900, 1000500⟩ } }
theorem inv_released : Inv released := inv_of (by decide) (by decide) (by decide) (by decide) (by decide) (by decide)
theorem witness_Released : Inv released ∧ Hands released 2 .induct induct 0 ∧
    released.ind.outstanding = some ⟨2222, 96, 999900, 1000500⟩ ∧ released.trk.list.length < 96 ∧
    carrier released 2222 = none ∧ findEntry released 2222 = some (order .waiting) ∧
    96 ≤ (laneOf released 5).cfg.maxLen ∧ Hands { released with ord := ⟨[]⟩ } 2 .induct induct 0 ∧
    findEntry { released with ord := ⟨[]⟩ } 2222 = none ∧
    (laneOf (State.lane5 released fun l => { l with cfg := { l.cfg with maxLen := 95 } }) 5).cfg.maxLen < 96 :=
  ⟨inv_released, hands_of (by decide), by decide, by decide, by decide, by decide, by decide, hands_of (by decide),
    by decide, by decide⟩
theorem witness_ReleasedWithACarrier :
    let s : State := { one with ind := released.ind }
    Inv s ∧ Hands s 2 .induct induct 0 ∧ (carrier s 2222).isSome :=
  ⟨inv_of (by decide) (by decide) (by decide) (by decide) (by decide) (by decide), hands_of (by decide), by decide⟩
theorem witness_ReleasedUnasked : Hands on 2 .induct induct 0 ∧ on.ind.outstanding = none ∧ on.run.st ≠ .config ∧
    Hands (State.runs on .config) 2 .induct induct 0 :=
  ⟨hands_of (by decide), by decide, by decide, hands_of (by decide)⟩
/-- A full list. -/
def full : State := { released with trk := ⟨(List.range 96).map fun i => record i none .ret (some 0) 998000 90, 96, 0, 0⟩ }
theorem inv_full : Inv full := inv_of (by decide) (by decide) (by decide) (by decide) (by decide) (by decide)
theorem witness_ReleasedToAFullList : Hands full 2 .induct induct 0 ∧ 96 ≤ full.trk.list.length :=
  ⟨hands_of (by decide), by decide⟩

/-- A READY of 2222 pending, held as a DUPLICATE or as NO ORDER. -/
def State.waits (s : State) (st : Standing) : State :=
  { s with ind := { s.ind with ready := some ⟨⟨some 2222, 96⟩, st⟩, last := some ⟨some 2222, 96⟩ } }
/-- What a state shows of the pending READY: its standing, the release point, and the notices. -/
def readyOf (s : State) := (s.ind.ready.map (·.standing), s.ind.releasePoint, s.ntq.queue.map (·.notice))
theorem witness_ReadyTold : ∀ n ∈ [0, 2222, 3333], Hands one 2 .induct induct 0 ∧
    readyOf (after (.inductReady 2 n 90) one) = (some (if n = 0 then .heldNoread else if n = 2222 then .heldDuplicate
      else .heldNoOrder), none, [if n = 0 then .noread 90 else if n = 2222 then .duplicate (some 2222) 90 .ready
      else .noOrder (some 3333) 90]) := by
  intro n h
  simp only [List.mem_cons, List.not_mem_nil, or_false] at h
  rcases h with rfl | rfl | rfl <;> exact ⟨hands_of (by decide), by decide⟩
/-- The release that holds the READY is cleared: by RELEASED to a full list it is a CANDIDATE, by RELEASED with room the tote's
own record holds it. -/
theorem witness_ReleasedReexamines :
    Inv (State.waits full .heldDuplicate) ∧ Hands (State.waits full .heldDuplicate) 2 .induct induct 0 ∧
    readyOf (after (.released 2) (State.waits full .heldDuplicate)) =
      (some .candidate, none, [.untracked (some 2222) 0 0]) ∧
    Hands (State.waits released .heldDuplicate) 2 .induct induct 0 ∧
    readyOf (after (.released 2) (State.waits released .heldDuplicate)) = (some .heldDuplicate, none, []) :=
  ⟨inv_of (by decide) (by decide) (by decide) (by decide) (by decide) (by decide), hands_of (by decide), by decide +kernel,
    hands_of (by decide), by decide +kernel⟩
/-- The delivery of a RETURN record frees the READY that it held as a DUPLICATE. -/
theorem witness_DeliveryReexamines :
    let s := State.waits (State.carrying verifying [{ tote with role := .ret }] [order .waiting]) .heldDuplicate
    Inv s ∧ Hands s 21 .lane gate5 2 ∧ findRec s 1 = some { tote with role := .ret } ∧
      (readyOf (after (.entry 21) s)).1 = some .candidate ∧ (readyOf (after (.entry 21) s)).2.1 = some 1000000 :=
  ⟨inv_of (by decide) (by decide) (by decide) (by decide) (by decide) (by decide), hands_of (by decide), by decide,
    by decide +kernel, by decide +kernel⟩

/-- A spur READY is pending at its merge point and its interval point. -/
def spur : State := { on with mrg := { on.mrg with
  ready := some ⟨some 3001, 80⟩, last := some ⟨some 3001, 80⟩, interval := some 1000000, since := 997000
  mergePoint := some 1000000 } }
/-- A grant is outstanding. -/
def granted : State := { on with mrg := { on.mrg with grant := some ⟨⟨some 3001, 80⟩, 999800, 1000500, false⟩ } }
theorem witness_SpurReports : Hands on 50 .spur merge 3 ∧ on.mrg.grant = none ∧ on.run.st ≠ .config ∧
    Hands (State.runs on .config) 50 .spur merge 3 ∧ Hands granted 50 .spur merge 3 ∧
    granted.mrg.grant = some ⟨⟨some 3001, 80⟩, 999800, 1000500, false⟩ ∧ Inv granted ∧ carrier granted 3001 = none ∧
    Hands { full with mrg := granted.mrg } 50 .spur merge 3 ∧
    (carrier { one with mrg := { on.mrg with grant := some ⟨⟨some 2222, 80⟩, 999800, 1000500, false⟩ } } 2222).isSome :=
  ⟨hands_of (by decide), by decide, by decide, hands_of (by decide), hands_of (by decide), by decide,
    inv_of (by decide) (by decide) (by decide) (by decide) (by decide) (by decide), by decide, hands_of (by decide),
    by decide⟩
theorem witness_SpurEmpty : Hands { on with mrg := { on.mrg with hole := .requested } } 50 .spur merge 3 ∧
    Hands { on with mrg := { on.mrg with ready := some ⟨none, 80⟩ } } 50 .spur merge 3 :=
  ⟨hands_of (by decide), hands_of (by decide)⟩

theorem witness_Accrual : Hands paused 50 .spur merge 3 ∧ paused.mrg.interval = none ∧ paused.run.st ≠ .config ∧
    0 < paused.params.mergeInterval ∧ paused.params.mergeInterval ≤ paused.mrg.count ∧ paused.mrg.hole = .none ∧
    on.mrg.interval = none ∧ on.mrg.count < on.params.mergeInterval ∧ spur.mrg.interval.isSome ∧
    Hands (State.at { spur with mrg := { spur.mrg with mergePoint := none } } 999999) 50 .spur merge 3 :=
  ⟨hands_of (by decide), by decide, by decide, by decide, by decide, by decide, by decide, by decide, by decide,
    hands_of (by decide)⟩

/-! ### Belt points and timers -/

theorem witness_PointsAreTaken : stands one (.originPassage 1) = some false ∧ stands on .releasePoint = some false ∧
    nextDue (State.at on 1002000) = some .samplePoint ∧ takesPointsFirst (.heartbeat 7#8) = true ∧
    nextDue (takeReached (State.at on 1002000)) = none := by decide

/-- Two records of equal position at the origin, another behind them. -/
def atOrigin : State := State.carrying (State.at on 1010000)
  [{ tote with id := 3, tote := none, role := .ret }, tote, record 2 (some 3333) .ret (some 0) 999000 96] [order .riding]
theorem witness_OriginPassage : Inv atOrigin ∧
    atOrigin.trk.list =
      [{ tote with id := 3, tote := none, role := .ret }] ++ tote :: [record 2 (some 3333) .ret (some 0) 999000 96] ∧
    tote.id = 1 ∧ tote.anchor + atOrigin.params.loopLen = atOrigin.pos.odo ∧
    (∀ x ∈ atOrigin.trk.list, x.anchor ≤ atOrigin.pos.odo) :=
  ⟨inv_of (by decide) (by decide) (by decide) (by decide) (by decide) (by decide), by decide, by decide,
    by decide, by decide⟩

/-- A record whose deadline is reached. -/
def dueRec (missed : Nat) : State :=
  State.carrying on [{ tote with deadline := some 1000000, missed := missed, watch := some 1000000 }] [order .riding]
theorem witness_SightingDeadline : Inv (dueRec 0) ∧ Inv (dueRec 1) ∧
    (findRec (dueRec 0) 1).bind (·.deadline) = some 1000000 ∧
    nextReader (dueRec 0) (stationAt (dueRec 0) 1).pos = some (1, 12000) ∧
    findEntry (dueRec 1) 2222 = some (order .riding) :=
  ⟨inv_of (by decide) (by decide) (by decide) (by decide) (by decide) (by decide),
    inv_of (by decide) (by decide) (by decide) (by decide) (by decide) (by decide), by decide, by decide, by decide⟩

theorem witness_JamPointAndTagLimit :
    eyeOf (State.eye1 on { pass with jam := some 1000000 }) 1 = some { pass with jam := some 1000000 } ∧
    (1000000 : Int) ≤ (State.eye1 on pass).pos.odo ∧ (stationAt on 1).kind = .reader ∧
    ({ pass with pass := .awaiting, tagLimit := some 1000000 } : Eye).tagLimit = some 1000000 := by decide

theorem witness_OpenStartAndCheckPoint :
    let started : Fire := { fire with st := .started, k := 1000000 }
    queueOf (State.gate5 on gateClosed [fire]) 5 = [] ++ fire :: [] ∧ fire.st = .planned ∧
      fire.f ≤ on.pos.odo ∧ started.st = .started ∧ started.checked = false ∧ started.k ≤ on.pos.odo ∧
      gateRec on 5 = some gate5 ∧ gateClosed.st = .closed ∧ gateOpened.st ≠ .closed ∧ gateOpened.st ≠ .closing := by decide

/-- A fire at its close-start, in a state with the record it serves. -/
def closing (q : List Fire) (v : List VerifyEntry) : State :=
  State.lane5 (State.gate5 one gateOpened q) fun l => { l with verify := v }
/-- The fire. -/
def ending : Fire := { fire with f := 999900, k := 999920, c := 1000000, st := .started, checked := true }
theorem witness_CloseStart : Inv (closing [ending] []) ∧ queueOf (closing [ending] []) 5 = [] ++ ending :: [] ∧
    ending.c ≤ (closing [ending] []).pos.odo ∧ findRec (closing [ending] []) 1 = some tote ∧ tote.st = .riding ∧
    (laneOf (closing [ending] []) 5).verify.length + ending.members.length ≤ 4 ∧
    queueOf (closing [{ ending with members := [] }] []) 5 = [] ++ { ending with members := [] } :: [] ∧
    ({ ending with st := .closing, c := 999983 } : Fire).c + 17 ≤ on.pos.odo :=
  ⟨inv_of (by decide) (by decide) (by decide) (by decide) (by decide) (by decide), by decide, by decide,
    by decide, by decide,
    by decide, by decide, by decide⟩
theorem witness_CloseStartAtAFullList :
    let v : List VerifyEntry := [⟨2, 1000010, false⟩, ⟨3, 1000011, false⟩, ⟨4, 1000012, false⟩, ⟨5, 1000013, false⟩]
    Inv (closing [ending] v) ∧ (laneOf (closing [ending] v) 5).verify = v ∧ ending.members = [1] :=
  ⟨inv_of (by decide) (by decide) (by decide) (by decide) (by decide) (by decide), by decide, by decide⟩

theorem witness_PassageWatch : Inv (dueRec 0) ∧ (findRec (dueRec 0) 1).bind (·.watch) = some 1000000 ∧
    fireOf (dueRec 0) 1 = none ∧ (findRec (dueRec 0) 1).bind (linkedEntry (dueRec 0)) = some (order .riding) ∧
    min 15 (0 + 1) < (order .riding).lapLimit ∧
    fireOf (State.gate5 (dueRec 0) gateOpened [ending]) 1 = some (5, ending) ∧ ending.st = .started :=
  ⟨inv_of (by decide) (by decide) (by decide) (by decide) (by decide) (by decide), by decide, by decide,
    by decide, by decide,
    by decide, by decide⟩
theorem witness_PassageWatchAtTheLapLimit :
    let r : Rec := { tote with watch := some 1000000, laps := 2 }
    Inv (State.carrying on [r] [order .riding]) ∧ findRec (State.carrying on [r] [order .riding]) 1 = some r ∧
      (order .riding).lapLimit ≤ min 15 (r.laps + 1) :=
  ⟨inv_of (by decide) (by decide) (by decide) (by decide) (by decide) (by decide), by decide, by decide⟩

theorem witness_ReleasePoint :
    let s : State := { State.carrying on [] [order .waiting] with
      ind := { on.ind with ready := some ⟨⟨some 2222, 96⟩, .candidate⟩, releasePoint := some 1000000 } }
    carrier s 2222 = none ∧ findEntry s 2222 = some (order .waiting) ∧ s.run.st = .running ∧ s.cmd.hostless = false ∧
      s.ind.holeWait = none ∧ s.ind.outstanding = none ∧ s.ind.reject = false ∧
      firstOf s .induct = some (induct, 0) ∧ s.ind.releasePoint = some 1000000 ∧
      findEntry { s with ord := ⟨[]⟩ } 2222 = none ∧
      released.ind.outstanding.map (·.confirm) = some 1000500 ∧ 1000500 ≤ (State.at released 1000500).pos.odo := by decide

/-- The confirm point frees the READY that the release held as a DUPLICATE, and its point is the first slot's; without an order
it is then held as NO ORDER. -/
theorem witness_ConfirmPointReexamines :
    let s := State.waits (State.at released 1000500) .heldDuplicate
    let t := after .confirmPoint s
    let u := after .confirmPoint { s with ord := ⟨[]⟩ }
    s.ind.outstanding = some ⟨2222, 96, 999900, 1000500⟩ ∧ 1000500 ≤ s.pos.odo ∧
      readyOf t = (some .candidate, some 1000500, [.inductTimeout 2222 96 999900]) ∧
      t.ind.releasePoint = originSlot t 96 ∧
      readyOf u = (some .heldNoOrder, none, [.inductTimeout 2222 96 999900, .noOrder (some 2222) 96]) := by decide +kernel
/-- A READY whose order was cancelled after its point was set: the point is spent. -/
theorem witness_SpentReleasePoint :
    let s := State.waits { on with ind := { on.ind with releasePoint := some 1000000 } } .candidate
    s.ind.releasePoint = some 1000000 ∧ findEntry s 2222 = none ∧
      readyOf (after .releasePoint s) = (some .heldNoOrder, none, [.noOrder (some 2222) 96]) := by decide +kernel

theorem witness_MergePoint : spur.mrg.mergePoint = some 1000000 ∧ spur.mrg.ready = some ⟨some 3001, 80⟩ ∧
    spur.mrg.grant = none ∧ firstOf spur .merge = some (merge, 3) ∧ spur.run.st = .running ∧
    ({ spur.mrg with ready := none } : Mrg).ready = none ∧ granted.mrg.grant.map (·.confirm) = some 1000500 := by decide

theorem witness_IntervalPointAndSamplePoint : spur.mrg.interval = some 1000000 ∧ spur.mrg.debt ≠ 7 ∧
    ({ spur.mrg with debt := 7 } : Mrg).hole = .none ∧ (if (7 : Int) < 8 then (7 : Int) + 1 else 8) = 8 ∧
    (State.at on 1002000).reg.next ≤ (State.at on 1002000).pos.odo ∧
    (sampleDue (State.at on 1002000)).reg.g = on.reg.g := by decide

/-- A hole is asked for, and its point is reached. -/
def asked : State := { on with ind := { on.ind with holeWait := some 80, holePoint := some 1000000 } }
theorem witness_HolePoint : Inv asked ∧ asked.ind.holeWait = some 80 ∧ asked.ind.holePoint = some 1000000 ∧
    asked.trk.list.length < 96 ∧ (∀ r ∈ asked.trk.list, r.role ≠ .hole) ∧
    Inv { full with ind := asked.ind } ∧ 96 ≤ full.trk.list.length :=
  ⟨inv_of (by decide) (by decide) (by decide) (by decide) (by decide) (by decide), by decide, by decide,
    by decide, by decide,
    inv_of (by decide) (by decide) (by decide) (by decide) (by decide) (by decide), by decide⟩
theorem witness_ArrivalPoint :
    let s : State := { State.carrying spur [record 1 none .hole none 990220 80] [] with
      mrg := { spur.mrg with hole := .travelling, arrival := some 1000000 } }
    Inv s ∧ s.mrg.arrival = some 1000000 ∧ s.mrg.ready = some ⟨some 3001, 80⟩ ∧ s.mrg.grant = none ∧ s.run.st = .running ∧
      ({ s.mrg with ready := none } : Mrg).ready = none ∧ firstOf s .merge = some (merge, 3) ∧
      (∀ r ∈ s.trk.list, r.role = .hole → fireOf s r.id = none) ∧
      (after .arrivalPoint s).rng.control = [⟨50, .mergeGo⟩] :=
  ⟨inv_of (by decide) (by decide) (by decide) (by decide) (by decide) (by decide), by decide, by decide,
    by decide, by decide, by decide, by decide, by decide, by decide⟩

/-- A resume that is owed, and the lap under way. -/
def owed (st : RunState) (stage : Stage) : State := { State.carrying (State.runs on st) [tote] [order .riding] with
  run := { (State.runs on st).run with stage := stage, endPoint := if stage = .lap then some 1000300 else none } }
theorem inv_owed : Inv (owed .starting .none) ∧ Inv (owed .starting .pending) ∧ Inv (owed .starting .lap) ∧
    Inv (owed .resuming .lap) ∧ Inv (owed .parked .lap) :=
  ⟨inv_of (by decide) (by decide) (by decide) (by decide) (by decide) (by decide),
   inv_of (by decide) (by decide) (by decide) (by decide) (by decide) (by decide),
   inv_of (by decide) (by decide) (by decide) (by decide) (by decide) (by decide),
   inv_of (by decide) (by decide) (by decide) (by decide) (by decide) (by decide),
   inv_of (by decide) (by decide) (by decide) (by decide) (by decide) (by decide)⟩
theorem witness_SettleAndResumeEnd : (owed .starting .pending).run.settle = some 1000300 ∧
    (owed .resuming .lap).run.endPoint = some 1000300 ∧ 1000300 ≤ (State.at (owed .resuming .lap) 1000300).pos.odo ∧
    (∃ r ∈ (owed .starting .pending).trk.list, r.role ≠ .hole) := by decide

theorem witness_SettleOnAnEmptyBelt :
    let s := State.at (State.carrying (owed .starting .pending) [record 1 none .hole none 990220 80] []) 1000300
    Inv s ∧ s.run.settle = some 1000300 ∧ s.run.stage = .pending ∧ (∀ r ∈ s.trk.list, r.role = .hole ∧ r.st ≠ .unsure) ∧
      (after .settlePoint s).run.st = .running :=
  ⟨inv_of (by decide) (by decide) (by decide) (by decide) (by decide) (by decide), by decide, by decide, by decide,
    by decide⟩

/-- The resume end point with a record still UNSURE. -/
def unsure : State := State.at { owed .resuming .lap with
  trk := { (owed .resuming .lap).trk with list := [{ tote with st := .unsure }] } } 1000300
theorem witness_ResumeEndLoses : Inv unsure ∧ unsure.run.endPoint = some 1000300 ∧ unsure.trk.lost ≤ 65535 ∧
    unsure.trk.list.countP (fun r => r.st = .unsure) ≤ 8 ∧ (∃ r ∈ unsure.trk.list, r.st = .unsure) ∧
    unsure.ntq.enabled (Notice.lost none .ret .none 0#32 0 0 .resume).cls = true :=
  ⟨inv_of (by decide) (by decide) (by decide) (by decide) (by decide) (by decide), by decide, by decide, by decide,
    by decide, by decide⟩
/-- Each condition of DARK fails somewhere, and the first of several is the one reported (R181). -/
theorem witness_DarkConditions :
    let s := State.runs on .parked
    let debt : State := { s with mrg := { s.mrg with debt := 1 } }
    let release : State := { s with ind := released.ind }
    let grant : State := { s with mrg := granted.mrg }
    darkFails (State.gate5 debt gateOpened [fire]) = some .gate ∧ darkFails (State.gate5 debt gateClosed [fire]) = some .fire ∧
      darkFails { debt with ind := released.ind } = some .debt ∧ darkFails { release with mrg := granted.mrg } = some .release ∧
      darkFails { grant with trk := unread.trk } = some .grant ∧ darkFails { s with trk := unread.trk } = some .verify ∧
      darkFails s = none := by decide

theorem witness_Timers : Inv on ∧ nextDue on = none ∧ on.run.stall.isSome ∧
    Inv { on with run := { on.run with idle := some 120000 } } ∧
    Inv { State.runs on .parked with run := { (State.runs on .parked).run with park := some 900000 } } ∧
    nextDue (State.runs on .parked) = none ∧ darkFails (State.runs on .parked) = none ∧
    darkFails (State.gate5 (State.runs on .parked) gateOpened []) = some .gate ∧
    Inv { State.runs on .dark with run := { (State.runs on .dark).run with wake := some 800, wakeCause := some .resume } } ∧
    nextDue (State.runs on .dark) = none ∧ ({ on.cmd with link := some 10000 } : Cmd).link.isSome :=
  ⟨inv_on, by decide, by decide, inv_of (by decide) (by decide) (by decide) (by decide) (by decide) (by decide),
    inv_of (by decide) (by decide) (by decide) (by decide) (by decide) (by decide), by decide, by decide, by decide,
    inv_of (by decide) (by decide) (by decide) (by decide) (by decide) (by decide), by decide, by decide⟩

/-! ### Plans, fires, slots -/

theorem witness_NextPassage : (tote.anchor ≤ on.pos.odo) ∧ (on.pos.odo : Int) - tote.anchor < on.params.loopLen ∧
    (on.pos.odo : Int) - tote.anchor < (2001 : Nat) ∧ ((2000 : Nat) : Int) ≤ on.pos.odo - tote.anchor := by decide

theorem unplanned_one : Unplanned one 1 5 tote gate5 :=
  ⟨by decide, by decide, by decide, by decide, by decide, by decide, by decide⟩
/-- One tote, at a lane or a gate in another state. -/
def oneAt (f : Lane → Lane) : State := State.lane5 one f
theorem witness_PlansInOrder : Inv one ∧ firstFailed one tote 5 = none ∧
    firstFailed (oneAt fun l => { l with closed := true }) tote 5 = some .closed ∧
    (nextPassage one tote 7350 = 1005350 ∧ ¬(1005350 : Int) - 12 - swing 180 one.pos.vref ≤ one.pos.odo) ∧
    ((1005350 : Int) - 12 - swing 180 one.pos.vref ≤ (State.at one 1005330).pos.odo) ∧
    (groupOf one gate5 5 tote 1005350).map (·.1.id) = [1] ∧ fireOf one 1 = none := by
  refine ⟨inv_one, ?_⟩; decide
theorem witness_PlansRefused :
    let lane (occ reserve : Nat) : Lane :=
      { laneOf one 5 with occ := occ, cfg := { (laneOf one 5).cfg with reserve := reserve } }
    (lane 6 0).cfg.cap ≤ (lane 6 0).occ ∧ ¬(lane 6 0).occ + 1 ≤ (lane 6 0).cfg.cap ∧ (lane 5 1).occ < (lane 5 1).cfg.cap ∧
      ¬(lane 5 1).occ + 1 ≤ (lane 5 1).cfg.cap - (lane 5 1).cfg.reserve ∧ (lane 5 1).occ + 1 ≤ (lane 5 1).cfg.cap ∧
      8 ≤ (List.replicate 8 fire).length := by decide
theorem witness_PlansInShadow :
    let y := record 2 (some 3333) .ret (some 0) 998090 96
    let s := State.carrying on [tote, y] [order .riding]
    let x := fireFor s gate5 1005350 [(tote, 1005350)]
    y ∈ s.trk.list ∧ y.role ≠ .hole ∧ y.id ≠ tote.id ∧ MeetsPassage s gate5 y (x.f, x.c + x.dc) :=
  ⟨by decide, by decide, by decide, 0, by unfold Overlap; decide⟩

/-- Of two passages half a loop from a point the earlier one is taken (log 51). -/
theorem test_equally_near_passages : nearestPassage one tote 7350 999350 = 993350 ∧ tote.anchor + 7350 = 999350 + 6000 := by
  decide
theorem witness_Groups : Inv one ∧ one.trk.list = [] ++ tote :: [] := ⟨inv_one, by decide⟩

/-- A record of a STARTED fire whose window ends below the odometer. -/
def overdue : State := State.gate5 (State.carrying on [{ tote with anchor := 992500 }] [order .riding]) gateOpened [ending]
theorem witness_MovedCloseStarts : fireOf (closing [ending] []) 1 = some (5, ending) ∧
    gateRec (closing [ending] []) 5 = some gate5 ∧
    (ending.members.filterMap (findRec (closing [ending] []))).map
      (fun m => passageNear (closing [ending] []) 7350 ending.k m + m.len + 10) = [1005456] ∧
    fireOf overdue 1 = some (5, ending) ∧ (ending.members.filterMap (findRec overdue)).map
      (fun m => passageNear overdue 7350 ending.k m + m.len + 10) = [999956] := by decide
theorem witness_IgnoredRequests : findRec one 2 = none ∧ (findRec (busy gateClosed) 1).map (·.st) = some .verifying ∧
    fireOf (closing [{ ending with st := .closing }] []) 1 = some (5, { ending with st := .closing }) := by decide
theorem witness_Withdrawals : Takes (busy gateOpened) 7#8 ∧ Takes (busy gateClosed) 7#8 ∧
    findEntry (busy gateOpened) 3333 = some { order .riding with tote := 3333 } ∧
    carrier (busy gateOpened) 3333 = some (record 2 (some 3333) .order (some 5) 994000 96) ∧
    fireOf (busy gateOpened) 2 = some (5, ⟨[2], 1001320, 1001338, 1001456, 17, .planned, false, false⟩) ∧
    gateOf (busy gateOpened) 5 = some gateOpened ∧ Hands (busy gateClosed) 21 .lane gate5 2 ∧
    (laneOf (busy gateClosed) 5).halted = false ∧ (gateRec (busy gateClosed) 5).isSome :=
  ⟨takes_of (by decide), takes_of (by decide), by decide, by decide, by decide, by decide, hands_of (by decide), by decide,
    by decide⟩
theorem witness_FreedLane : Inv (oneAt fun l => { l with halted := true }) ∧
    Hands (oneAt fun l => { l with halted := true }) 21 .lane gate5 2 ∧
    (laneOf (oneAt fun l => { l with halted := true }) 5).halted = true :=
  ⟨inv_of (by decide) (by decide) (by decide) (by decide) (by decide) (by decide), hands_of (by decide), by decide⟩

theorem witness_Slots : on.trk.list = [] ∧ one.trk.list ≠ [] ∧ on.run.rule = none ∧
    Hands (State.carrying on [] [order .waiting]) 2 .induct induct 0 ∧ Hands on 50 .spur merge 3 ∧ on.mrg.grant = none ∧
    (let s : State := { on with ind := { on.ind with ready := some ⟨⟨some 3, 90⟩, .heldNoOrder⟩, holeWait := some 80 } }
     Hands s 2 .induct induct 0 ∧ s.ind.holeWait = some 80) :=
  ⟨by decide, by decide, by decide, hands_of (by decide), hands_of (by decide), by decide, hands_of (by decide), by decide⟩

/-! ### Management commands -/

theorem witness_CommandsTurnedAway : commandOp (.queryTote 0#8 5) = some (21, 0#8) ∧ portRuns on = true ∧ nextDue on = none ∧
    on.rng.replies.length < 8 ∧ on.cmd.resetWaiting = false ∧ portRuns State.reset = false ∧
    8 ≤ ({ on.rng with replies := List.replicate 8 ⟨1, 7#8, .done, [], false⟩ } : Rng).replies.length := by decide

/-- The load pointer at a table. -/
def State.loads (s : State) (t : Table) (i : Nat) : State := { s with cmd := { s.cmd with table := t, index := i } }
theorem takes_loads : ∀ st ∈ [RunState.config, .running, .parked], ∀ t i, Takes (State.loads (State.runs on st) t i) 7#8 := by
  intro st _ t i; have h := takes_runs st; exact ⟨h.1, h.2, h.3, h.4, h.5⟩
/-- A station record: a reader at 1500 with address 3 and latency 8. -/
def stationBytes : List Byte := [0x28#8, 5#8, 220#8, 3#8, 0#8, 0#8, 0#8, 0#8, 0#8, 0#8, 0#8]
theorem witness_Loading : stationOf stationBytes = some reader ∧ stationOk reader = true ∧
    stationBytes.length = 11 ∧ stationOf (List.replicate 11 0xFF#8) = none ∧
    laneRecOf [6#8, 0#8, 255#8, 40#8, 1#8] = some ⟨6, 0, 255, 40, true⟩ ∧ laneRecOk 16 ⟨6, 0, 255, 40, true⟩ = true ∧
    laneRecOf [6#8, 0#8, 255#8, 40#8, 0#8] = none ∧ configOnly 21 = true ∧ configOnly 20 = false ∧
    paramOk on.params 21 62 = true ∧ paramOk on.params 21 63 = false ∧ paramOk on.params 6 96 = true ∧
    Table.stations.code = 1 ∧ Table.params.size = 22 := by decide
theorem witness_LoadedLane :
    let s := State.loads (occupied 6 (State.runs on .config)) .lanes 5
    Takes s 7#8 ∧ s.run.st = .config ∧ s.trk.list = [] ∧ queueOf s 5 = [] ∧
      laneRecOf [7#8, 0#8, 255#8, 40#8, 1#8] = some ⟨7, 0, 255, 40, true⟩ ∧ laneRecOk 5 ⟨7, 0, 255, 40, true⟩ = true ∧
      (after (.putRecords 7#8 [7#8, 0#8, 255#8, 40#8, 1#8]) s).rng.control = [⟨21, .lampOff⟩] :=
  ⟨takes_of (by decide), by decide, by decide, by decide, by decide, by decide, by decide⟩
/-- Two lane records at lanes 15 and 16, both written. -/
theorem witness_LoadedLanes :
    let s := State.loads (State.runs on .config) .lanes 15
    let t := after (.putRecords 7#8 ([6#8, 0#8, 255#8, 40#8, 1#8] ++ [5#8, 0#8, 255#8, 40#8, 2#8])) s
    Takes s 7#8 ∧ laneRecOf [6#8, 0#8, 255#8, 40#8, 1#8] = some ⟨6, 0, 255, 40, true⟩ ∧
      laneRecOk 15 ⟨6, 0, 255, 40, true⟩ = true ∧ laneRecOf [5#8, 0#8, 255#8, 40#8, 2#8] = some ⟨5, 0, 255, 40, false⟩ ∧
      laneRecOk 16 ⟨5, 0, 255, 40, false⟩ = true ∧ s.trk.list = [] ∧ queueOf s 15 = [] ∧ queueOf s 16 = [] ∧
      ((laneOf t 15).cfg, (laneOf t 16).cfg, t.rng.replies) =
        (⟨6, 0, 255, 40, true⟩, ⟨5, 0, 255, 40, false⟩, [⟨3, 7#8, .done, [2#8, 2#8, 17#8], false⟩]) :=
  ⟨takes_of (by decide), by decide, by decide, by decide, by decide, by decide, by decide, by decide, by decide⟩
/-- Two parameters, Gmin and Gmax, both written; and the link timeout with the management address. -/
theorem witness_LoadedPairs :
    let s := State.loads (State.runs on .config) .params 4
    let t := after (.putRecords 7#8 ([0#8, 80#8] ++ [1#8, 0#8])) s
    let v := after (.putRecords 7#8 ([0#8, 5#8] ++ [0#8, 9#8])) (State.loads (State.runs on .config) .params 20)
    Takes s 7#8 ∧ Inv s ∧ configOnly 4 = true ∧ paramOk s.params 4 80 = true ∧ paramOk (s.params.put 4 80) 5 256 = true ∧
      ((s.withParam 4 80).pointed 5).reg.g = 80 ∧
      (t.params.gmin, t.params.gmax, t.reg.g, t.rng.replies) =
        (80, 256, 80, [⟨3, 7#8, .done, [2#8, 3#8, 6#8], false⟩]) ∧
      (v.params.linkTimeout, v.params.mgmtAddr, v.cmd.index) = (5, 9, 22) :=
  ⟨takes_of (by decide), inv_of (by decide) (by decide) (by decide) (by decide) (by decide) (by decide), by decide,
    by decide, by decide, by decide, by decide, by decide⟩
theorem witness_LoadedParameters : wordAt [0#8, 100#8] 0 = 100 ∧
    ([(2, 100), (3, 200), (4, 60), (5, 300), (6, 96), (9, 500), (17, 0), (17, 600), (18, 0), (18, 30), (20, 0), (20, 60)].all
      fun x => paramOk on.params x.1 x.2) = true ∧ configOnly 2 = true ∧ configOnly 20 = false ∧
    paramOk on.params 6 97 = false ∧ on.run.st = .running ∧ on.trk.list = [] ∧ on.ind.ready = none ∧ on.mrg.ready = none ∧
    (State.runs on .parked).run.park = none := by decide

/-- Gmax and Otarget in RUNNING: the first moves the release point, which is taken with the second. -/
theorem witness_LoadedPairInRunning :
    let s := State.loads (State.carrying { on with
      params := { on.params with gmin := 60, gmax := 300 }, reg := { on.reg with s := 400, g := 160 }
      ind := { on.ind with ready := some ⟨⟨some 2222, 96⟩, .candidate⟩, releasePoint := some 1000050 } }
      [record 1 none .ret (some 0) 999760 100] [order .waiting]) .params 5
    Takes s 7#8 ∧ Inv s ∧ configOnly 5 = false ∧ configOnly 6 = false ∧ paramOk s.params 5 100 = true ∧
      paramOk (s.params.put 5 100) 6 40 = true ∧ paramOk (s.params.put 5 100) 6 97 = false ∧
      ((s.withParam 5 100).reg.g, (s.withParam 5 100).ind.releasePoint) = (100, some 1000000) ∧
      (after (.putRecords 7#8 ([0#8, 100#8] ++ [0#8, 40#8])) s).rng.control = [⟨2, .releaseGo⟩] :=
  ⟨takes_of (by decide), inv_of (by decide) (by decide) (by decide) (by decide) (by decide) (by decide), by decide,
    by decide, by decide, by decide, by decide, by decide, by decide⟩

/-- The map of the loop, loaded, with a command for a node it does not hold and one for the reader's. -/
def loaded : State := { State.runs on .config with
  rng := { on.rng with control := [⟨7, .releaseReject⟩, ⟨2, .releaseReject⟩] } }
theorem witness_Start : Takes loaded 7#8 ∧ Inv loaded ∧ loaded.run.st = .config ∧
    mapFault loaded.params loaded.pos.map = none ∧
    gapFault loaded.params loaded.pos.map = none ∧ loaded.trk.list = [] ∧
    mapFault loaded.params (Vector.replicate 28 Station.empty) = some (28, 1) ∧
    gapFault { loaded.params with gmin := 20 } loaded.pos.map = some 2 ∧ on.run.st ≠ .config ∧
    2 ∈ addressesOf induct ∧ gate5.prim ≠ 63 ∧ gate5.sec ≠ 63 :=
  ⟨takes_of (by decide), inv_of (by decide) (by decide) (by decide) (by decide) (by decide) (by decide),
    by decide, by decide,
    by decide, by decide, by decide, by decide, by decide, by decide, by decide, by decide⟩
theorem witness_StartUnsettled : Takes (State.unsettled loaded) 7#8 ∧ Inv (State.unsettled loaded) ∧
    gapFault (State.unsettled loaded).params loaded.pos.map = none ∧ (State.unsettled loaded).params.settleDist = 0 ∧
    0 < (State.unsettled loaded).params.mergeInterval ∧ Takes { loaded with mrg := paused.mrg } 7#8 ∧
    ({ paused.mrg with ready := some ⟨some 3001, 80⟩ } : Mrg).interval = none :=
  ⟨takes_of (by decide), inv_of (by decide) (by decide) (by decide) (by decide) (by decide) (by decide), by decide,
    by decide, by decide, takes_of (by decide), by decide⟩
/-- A map that fails a check, and what the check reports. -/
theorem test_map_checks :
    let p := on.params
    let with1 (i : Nat) (x : Station) : Option (Nat × Nat) := mapFault p (vset theMap i x)
    with1 0 Station.empty = some (28, 1) ∧ with1 7 (plain .induct 0 7 0) = some (7, 1) ∧
    with1 0 (plain .induct 1 2 4) = some (0, 2) ∧ with1 3 Station.empty = some (28, 3) ∧
    with1 4 Station.empty = some (28, 4) ∧ with1 2 Station.empty = some (28, 5) ∧
    with1 7 (gateAt .laneDiverter 5 8000 30) = some (7, 6) ∧
    mapFault p ((List.range 8).foldl (fun m i => vset m (10 + i) (plain .reader (1600 + i) (30 + i) 0)) theMap) = some (17, 7) ∧
    with1 7 (plain .reader 12000 30 0) = some (7, 8) ∧ with1 7 (plain .reader 1500 30 0) = some (7, 9) ∧
    with1 7 (gateAt .laneDiverter 6 9900 30) = some (7, 10) ∧ with1 1 (plain .reader 7351 3 8) = some (28, 11) ∧
    with1 7 (plain .reader 1600 20 0) = some (7, 12) ∧
    mapFault p (vset (vset (vset theMap 3 (plain .merge 20 50 5)) 1 (plain .reader 5 3 8)) 2 (gateAt .laneDiverter 5 10 20)) =
      some (3, 13) := by decide +kernel

theorem witness_ResumeUnsettled : Takes (State.unsettled (State.runs on .parked)) 7#8 ∧
    Inv (State.unsettled (State.runs on .parked)) ∧ (State.unsettled on).params.settleDist = 0 ∧ 0 < on.params.settleDist :=
  ⟨takes_of (by decide), inv_of (by decide) (by decide) (by decide) (by decide) (by decide) (by decide), by decide,
    by decide⟩
theorem witness_RunControl : (State.runs on .parked).run.wake = none ∧ (State.runs on .parked).run.asleep = false ∧
    darkFails (State.runs on .parked) = none ∧ anyBlocked (State.runs on .fault) = false ∧
    anyBlocked (State.eye1 (State.runs on .fault) { pass with blocked := true }) = true ∧
    gate5.sec ≠ 63 ∧ (State.runs on .dark).run.wake = none ∧ gateRec (State.runs on .dark) 5 = some gate5 := by decide

theorem witness_ToConfigAndResets : (∃ r ∈ (owed .parked .none).trk.list, r.role ≠ .hole) ∧
    (∀ r ∈ (State.runs on .parked).trk.list, r.role = .hole) ∧ (State.runs on .parked).run.wake = none ∧
    (State.runs on .fault).run.wake = none ∧ on.run.st ≠ .config ∧
    (gateOf (State.gate5 (State.runs on .parked) gateOpened []) 5).map (·.st) ≠ some .closed ∧
    findEntry (owed .parked .none) 2222 = some (order .riding) ∧
    (theEyes.all fun e => eyeOf (State.eye1 (owed .parked .none) e) 1 = some e) = true := by decide

theorem witness_ToConfigAsleep :
    let s : State := { State.runs on .parked with run := { (State.runs on .parked).run with asleep := true } }
    Takes s 7#8 ∧ Inv s ∧ s.run.asleep = true ∧ gateRec s 5 = some gate5 ∧
      ⟨63, .wake⟩ ∈ (after (.toConfig 7#8) s).rng.control :=
  ⟨takes_of (by decide), inv_of (by decide) (by decide) (by decide) (by decide) (by decide) (by decide), by decide,
    by decide, by decide⟩
theorem witness_AccrualAfterATrackingReset :
    let s : State := { State.runs on .parked with mrg := { on.mrg with ready := some ⟨some 3001, 80⟩ } }
    Takes s 7#8 ∧ Inv s ∧ s.mrg.ready.isSome ∧ s.run.st ≠ .config ∧
      (after (.resetTrack 7#8) s).mrg.interval = some 1003000 :=
  ⟨takes_of (by decide), inv_of (by decide) (by decide) (by decide) (by decide) (by decide) (by decide), by decide,
    by decide, by decide +kernel⟩

/-- A tracking reset frees the READY that a record held as a DUPLICATE. -/
theorem witness_TrackingResetReexamines :
    let s := State.waits (owed .parked .none) .heldDuplicate
    Takes s 7#8 ∧ Inv s ∧ s.run.wake = none ∧ (carrier s 2222).isSome ∧
      readyOf (after (.resetTrack 7#8) s) = (some .candidate, none, []) :=
  ⟨takes_of (by decide), inv_of (by decide) (by decide) (by decide) (by decide) (by decide) (by decide), by decide,
    by decide, by decide +kernel⟩
/-- ORDER PUT frees the READY that waits for its order, and one of another number leaves it alone. -/
theorem witness_OrderPutReexamines :
    let s := State.waits (State.runs on .parked) .heldNoOrder
    Takes s 7#8 ∧ Inv s ∧ laneMapped s 5 = true ∧ findEntry s 2222 = none ∧
      readyOf (after (.orderPut 7#8 2222 7#32 5 1 3 0) s) = (some .candidate, none, []) ∧
      (after (.orderPut 7#8 3333 7#32 5 1 3 0) s).ind = s.ind :=
  ⟨takes_of (by decide), inv_of (by decide) (by decide) (by decide) (by decide) (by decide) (by decide), by decide,
    by decide, by decide +kernel, by decide +kernel⟩

theorem witness_Orders : Takes one 7#8 ∧ Inv one ∧ laneMapped one 5 = true ∧ findEntry one 2222 = some (order .riding) ∧
    carrier one 2222 = some tote ∧ tote.st ≠ .verifying ∧ startedFire one 1 = false ∧ tote.role = .order ∧
    tote.len ≤ (laneOf one 5).cfg.maxLen ∧ findEntry one 4094 = none ∧ one.ord.entries.length < 512 ∧
    (laneOf (oneAt fun l => { l with cfg := { l.cfg with maxLen := 95 } }) 5).cfg.maxLen < tote.len ∧
    startedFire (State.gate5 one gateOpened [ending]) 1 = true ∧
    findEntry (State.carrying on [] [order .lost]) 2222 = some (order .lost) :=
  ⟨takes_of (by decide), inv_one, by decide, by decide, by decide, by decide, by decide, by decide,
    by decide, by decide, by decide, by decide, by decide, by decide⟩
/-- A full order table. -/
def fullTable : List Entry := (List.range 512).map fun i => ⟨i + 1, 7#32, 5, false, 3, false, .waiting⟩
theorem witness_OrdersFull : fullTable.length = 512 ∧ (findEntry { on with ord := ⟨fullTable⟩ } 513) = none :=
  ⟨by decide +kernel, by decide +kernel⟩

theorem witness_LanesRegulateSkip : Takes on 7#8 ∧ Inv on ∧ 16 ≤ 16 ∧ RegMode.manual.code = 3 ∧ 1023 ≤ 1023 ∧
    (gateOf (State.gate5 on ⟨.fault, none, .driveFault, false⟩ []) 5).map (·.st) = some .fault ∧
    gateRec on 5 = some gate5 ∧ firstOf on .induct = some (induct, 0) ∧ on.ind.ready = none ∧
    ({ on.ind with ready := some ⟨⟨none, 96⟩, .heldNoread⟩ } : Ind).ready.isSome ∧
    (laneOf (State.lane5 (State.gate5 on ⟨.closing, some 300, .driveFault, true⟩ []) fun l =>
      { l with faulted := some .gate }) 5).faulted = some .gate :=
  ⟨takes_on, inv_on, by decide, by decide, by decide, by decide, by decide, by decide, by decide, by decide, by decide⟩

theorem witness_FreedLanes : Takes (oneAt fun l => { l with closed := true }) 7#8 ∧
    (laneOf (oneAt fun l => { l with closed := true }) 5).closed = true ∧
    (queueOf (after (.laneSetOpen 7#8 5) (oneAt fun l => { l with closed := true })) 5).map (·.members) = [[1]] ∧
    Takes (occupied 6 one) 7#8 ∧ (laneOf (occupied 6 one) 5).cfg.cap ≤ (laneOf (occupied 6 one) 5).occ ∧
    0 < (laneOf (occupied 6 one) 5).cfg.cap ∧
    (queueOf (after (.laneClear 7#8 5) (occupied 6 one)) 5).map (·.members) = [[1]] :=
  ⟨takes_of (by decide), by decide, by decide, takes_of (by decide), by decide, by decide, by decide⟩

theorem witness_Queries : Takes one 7#8 ∧ carrier one 2222 = some tote ∧ carrier one 4094 = none ∧
    (stationAt one 1).kind = .reader ∧ (stationAt one 0).kind ≠ .reader ∧ (gateRec one 5).isSome ∧ gateRec one 6 = none ∧
    readers one = [(reader, 1)] ∧ [1].Nodup :=
  ⟨takes_of (by decide), by decide, by decide, by decide, by decide, by decide, by decide, by decide, by decide⟩

end Sys2Proof.Tests
end

section
/-! PROOFS. The rows by class: what a row does once the reached points are taken, and which rows there are. -/

namespace Sys2Proof.Machine

/-! ## The rows that take the reached points first -/

/-- A forward count of a part that is not held, once the reached points are taken (R1 to R3, R175). -/
def countForward (s : State) : State :=
  if notHeld s then
    let u := beltMoves (s.setPos { s.pos with enc := EncPair.forward s.pos.enc })
    if 0 < u.pos.tally then u.setPos { u.pos with tally := u.pos.tally - 1 } else advance u
  else s

theorem notHeld_takeReached (s : State) : notHeld (takeReached s) = notHeld s := (runs_of_shell (shell_takeReached s)).2
theorem portRuns_takeReached (s : State) : portRuns (takeReached s) = portRuns s := (runs_of_shell (shell_takeReached s)).1

theorem forward_eq (s : State) : forward s = countForward (takeReached s) := by
  have hn := notHeld_takeReached s
  unfold countForward
  rw [hn]
  unfold forward takeReached
  split <;> rfl

/-- A command handed to CMD: its operation, its tag, whether its reply ends in a device reset, and its execution. -/
structure Order where
  op     : Nat
  tag    : Byte
  resets : Bool
  body   : State → Executed

/-- The exchange of a command (R201, R202). -/
def Order.answer (c : Order) : State → State := Machine.answer c.op c.tag c.resets c.body

/-- The management commands and what each executes (section 10.7). -/
def orderOf : Instr → Option Order
  | .heartbeat tag => some ⟨1, tag, false, cmdHeartbeat⟩
  | .setPointer tag table index => some ⟨2, tag, false, cmdSetPointer table index⟩
  | .putRecords tag records => some ⟨3, tag, false, cmdPutRecords records⟩
  | .start tag => some ⟨4, tag, false, cmdStart⟩
  | .park tag => some ⟨5, tag, false, cmdPark⟩
  | .resume tag => some ⟨6, tag, false, cmdResume⟩
  | .dark tag => some ⟨7, tag, false, cmdDark⟩
  | .clearFault tag => some ⟨8, tag, false, cmdClearFault⟩
  | .toConfig tag => some ⟨9, tag, false, cmdToConfig⟩
  | .resetTrack tag => some ⟨10, tag, false, cmdResetTrack⟩
  | .resetDevice tag => some ⟨10, tag, true, cmdResetDevice⟩
  | .orderPut tag tote ref lane priority lapLimit hold =>
      some ⟨11, tag, false, cmdOrderPut tote ref lane priority lapLimit hold⟩
  | .orderCancel tag tote => some ⟨12, tag, false, cmdOrderCancel tote⟩
  | .orderQuery tag tote => some ⟨13, tag, false, cmdOrderQuery tote⟩
  | .laneSetOpen tag lane => some ⟨14, tag, false, cmdLaneOpen lane⟩
  | .laneSetClose tag lane => some ⟨14, tag, false, cmdLaneClose lane⟩
  | .laneClear tag lane => some ⟨15, tag, false, cmdLaneClear lane⟩
  | .regulate tag mode value => some ⟨16, tag, false, cmdRegulate mode value⟩
  | .inductSkip tag => some ⟨17, tag, false, cmdInductSkip⟩
  | .noticeMask tag mask => some ⟨18, tag, false, cmdNoticeMask mask⟩
  | .queryStatus tag => some ⟨19, tag, false, cmdQueryStatus⟩
  | .queryLane tag lane => some ⟨20, tag, false, cmdQueryLane lane⟩
  | .queryTote tag tote => some ⟨21, tag, false, cmdQueryTote tote⟩
  | .queryCounters tag group index clear => some ⟨22, tag, false, cmdQueryCounters group index clear⟩
  | _ => Option.none

/-- What the block that owns a station frame does with it, once POS has looked it up and stamped it (R9). -/
def frameAct : Instr → Station → Nat → Nat → State → State
  | .eyeLead _ => sightingFrame takeLead
  | .eyeTrail _ => sightingFrame takeTrail
  | .tag _ read => sightingFrame fun i stamp => takeTag i stamp read
  | .entry _ => laneFrame takeEntry
  | .removal _ => laneFrame takeRemoval
  | .haltOn _ => laneFrame (setHalted true)
  | .haltOff _ => laneFrame (setHalted false)
  | .atOpen _ => laneFrame takeAtOpen
  | .atClosed _ => laneFrame takeAtClosed
  | .driveFault _ => laneFrame takeDriveFault
  | .inductReady _ tote len => stampedFrame fun _ => takeReady tote len
  | .released _ => stampedFrame takeReleased
  | .inductEmpty _ => stampedFrame fun _ => takeEmpty
  | .spurReady _ tote len => stampedFrame fun _ => takeSpurReady tote len
  | .spurMerged _ => stampedFrame takeMerged
  | .spurEmpty _ => stampedFrame fun _ => takeSpurEmpty
  | _ => fun _ _ _ s => s

/-- What a timer's row does, once the reached points are taken. -/
def timerAct : Instr → Option (State → State)
  | .feedbackTimerExpiry g => some (feedbackExpiry g)
  | .stallTimerExpiry => some stallExpiry
  | .idleTimerExpiry => some idleExpiry
  | .parkTimerExpiry => some parkExpiry
  | .wakeWaitExpiry => some wakeExpiry
  | .linkTimerExpiry => some linkExpiry
  | _ => Option.none

/-- What a row of the encoder, the timebase or the ring does, once the reached points are taken. -/
def inputAct : Instr → Option (State → State)
  | .forwardCount => some countForward
  | .reverseCount => some reverse
  | .speedWindowEnd => some windowEnd
  | .ringFrame missing bytes => some (receive missing bytes)
  | .transmitStart => some transmit
  | .transmitEnd => some finishSending
  | _ => Option.none

/-- A command row is the exchange of its command on the state in which the reached points are taken. -/
theorem exec_order {i : Instr} {c : Order} (h : orderOf i = some c) (s : State) :
    exec i s = .next (c.answer (takeReached s)) := by
  cases i <;> cases h <;> rfl

/-- A station frame's row is the hand-over of the frame on the state in which the reached points are taken. -/
theorem exec_frame {i : Instr} {src : Nat} {f : FrameKind} (h : frameRow i = some (src, f)) (s : State) :
    exec i s = .next (stationFrame src f (frameAct i) (takeReached s)) := by
  cases i <;> cases h <;> rfl

theorem exec_timer {i : Instr} {act : State → State} (h : timerAct i = some act) (s : State) :
    exec i s = .next (act (takeReached s)) := by
  cases i <;> cases h <;> rfl

theorem exec_input {i : Instr} {act : State → State} (h : inputAct i = some act) (s : State) :
    exec i s = .next (act (takeReached s)) := by
  cases i <;> cases h <;> first | rfl | exact congrArg _ (forward_eq s)

/-- The row of a belt point takes the point. -/
theorem exec_beltPoint {p : Instr} (h : beltPoint p = true) (s : State) : exec p s = .next (takePoint p s) := by
  cases p <;> first | rfl | cases h

/-- The row of a belt point: the block that owns it takes it, and no other row is one. -/
theorem takesFirst_cases {i : Instr} (h : takesPointsFirst i = true) :
    (∃ c, orderOf i = some c) ∨ (∃ src f, frameRow i = some (src, f)) ∨ (∃ act, timerAct i = some act) ∨
      ∃ act, inputAct i = some act := by
  cases i <;> first
    | exact .inl ⟨_, rfl⟩
    | exact .inr (.inl ⟨_, _, rfl⟩)
    | exact .inr (.inr (.inl ⟨_, rfl⟩))
    | exact .inr (.inr (.inr ⟨_, rfl⟩))
    | cases h

/-- Every row that takes the reached points first acts on the state in which they are taken. -/
theorem exec_takesFirst {i : Instr} (h : takesPointsFirst i = true) :
    ∃ act : State → State, ∀ s, exec i s = .next (act (takeReached s)) := by
  obtain ⟨c, hc⟩ | ⟨src, f, hf⟩ | ⟨act, ha⟩ | ⟨act, ha⟩ := takesFirst_cases h
  · exact ⟨_, exec_order hc⟩
  · exact ⟨_, exec_frame hf⟩
  · exact ⟨_, exec_timer ha⟩
  · exact ⟨_, exec_input ha⟩

end Sys2Proof.Machine
end

section
namespace Sys2Proof.Machine
/-! ## The points that are reached -/

/-- Every point that is reached, in the order in which the points are taken. -/
def duePoints (s : State) : List Instr :=
  dueOfRecords s ++ dueOfEyes s ++ dueOfFires s ++ dueOfLanes s ++ dueOfUnits s

theorem nextDue_eq_head (s : State) : nextDue s = (duePoints s).head? := rfl

theorem findRec_of_mem {s : State} (h : TrkOk s.trk) {r : Rec} (hr : r ∈ s.trk.list) : findRec s r.id = some r := by
  rcases hf : findRec s r.id with _ | x
  · simpa using List.find?_eq_none.mp hf r hr
  · obtain ⟨hx, hid⟩ := findRec_mem hf
    rw [h.unique hx hr hid]

/-- A record with a handle has a reached point of a kind exactly where the record that the handle names has. -/
theorem exists_rec_iff {s : State} (h : TrkOk s.trk) (id : Nat) (p : Rec → Option Int) :
    (∃ r, (r ∈ s.trk.list ∧ due (p r) s = true) ∧ r.id = id) ↔ due ((findRec s id).bind p) s = true := by
  constructor
  · rintro ⟨r, ⟨hr, hd⟩, rfl⟩
    rw [findRec_of_mem h hr]; exact hd
  · intro hd
    rcases hf : findRec s id with _ | r
    · rw [hf] at hd; cases hd
    · rw [hf] at hd
      exact ⟨r, ⟨(findRec_mem hf).1, hd⟩, (findRec_mem hf).2⟩

theorem vget_beyond {α : Type} {n : Nat} (v : Vector α n) {i : Nat} (d : α) (h : n ≤ i) : vget v i d = d := by
  unfold vget
  rw [List.getD_eq_getElem?_getD, List.getElem?_eq_none (by simpa using h)]
  rfl

theorem mem_dueOfRecords {s : State} (h : TrkOk s.trk) (i : Instr) :
    i ∈ dueOfRecords s ↔ (∃ id, i = .originPassage id ∨ i = .sightingDeadline id ∨ i = .passageWatch id) ∧
      stands s i = some true := by
  have ho := fun id => exists_rec_iff h id fun r => some (r.anchor + (s.params.loopLen : Int))
  have hd := fun id => exists_rec_iff h id (·.deadline)
  have hw := fun id => exists_rec_iff h id (·.watch)
  cases i <;> simp [dueOfRecords, stands, ho, hd, hw, Option.map_eq_bind]

/-- The two points of one eye, each reached exactly where its row would take it. -/
theorem mem_dueOfEye {s : State} {n : Nat} {e : Eye} (he : eyeOf s n = some e) (i : Instr) :
    i ∈ (if due e.jam s then [Instr.jamPoint n] else []) ++ (if due e.tagLimit s then [Instr.tagLimit n] else []) ↔
      (i = .jamPoint n ∨ i = .tagLimit n) ∧ stands s i = some true := by
  simp only [List.mem_append, List.mem_ite_nil_right, List.mem_singleton, or_and_right]
  refine or_congr ?_ ?_
  all_goals
    rw [and_comm]
    refine and_congr_right ?_
    rintro rfl
    simp [stands, he]

theorem mem_dueOfEyes (s : State) (i : Instr) :
    i ∈ dueOfEyes s ↔ (∃ n, i = .jamPoint n ∨ i = .tagLimit n) ∧ stands s i = some true := by
  unfold dueOfEyes
  rw [List.mem_flatMap]
  constructor
  · rintro ⟨n, _, h⟩
    rcases he : eyeOf s n with _ | e <;> simp only [he] at h
    · cases h
    · obtain ⟨h1, h2⟩ := (mem_dueOfEye he i).mp h
      exact ⟨⟨n, h1⟩, h2⟩
  · rintro ⟨⟨n, h1⟩, h2⟩
    obtain ⟨e, he⟩ : ∃ e, eyeOf s n = some e := by
      rcases he : eyeOf s n with _ | e
      · obtain rfl | rfl := h1 <;> simp [stands, he, due] at h2
      · exact ⟨e, rfl⟩
    have hn : n < Config.stations := by
      by_contra hlt
      have : eyeOf s n = none := vget_beyond _ _ (Nat.le_of_not_lt hlt)
      simp [this] at he
    refine ⟨n, List.mem_range.mpr hn, ?_⟩
    simp only [he]
    exact (mem_dueOfEye he i).mpr ⟨h1, h2⟩

/-- The four points of the fires of one gate, each reached exactly where its row would take it. -/
theorem mem_dueOfGate (s : State) (g : Nat) (i : Instr) :
    i ∈ (if (queueOf s g).any (opensNow s) then [Instr.openStart g] else []) ++
        (if (queueOf s g).any (checksNow s) then [.checkPoint g] else []) ++
        (if (queueOf s g).any (closesNow s) then [.closeStart g] else []) ++
        (if (queueOf s g).any (endsNow s) then [.endPoint g] else []) ↔
      (i = .openStart g ∨ i = .checkPoint g ∨ i = .closeStart g ∨ i = .endPoint g) ∧ stands s i = some true := by
  simp only [List.mem_append, List.mem_ite_nil_right, List.mem_singleton, or_and_right, or_assoc]
  refine or_congr ?_ (or_congr ?_ (or_congr ?_ ?_))
  all_goals
    rw [and_comm]
    refine and_congr_right ?_
    rintro rfl
    exact Option.some_inj.symm

theorem mem_dueOfFires (s : State) (i : Instr) :
    i ∈ dueOfFires s ↔ (∃ g, i = .openStart g ∨ i = .checkPoint g ∨ i = .closeStart g ∨ i = .endPoint g) ∧
      stands s i = some true := by
  have hin : ∀ g, (i = .openStart g ∨ i = .checkPoint g ∨ i = .closeStart g ∨ i = .endPoint g) ∧
      stands s i = some true → g < Config.lanes := by
    intro g hg
    by_contra hlt
    have hq : queueOf s g = [] := vget_beyond _ _ (Nat.le_of_not_lt hlt)
    obtain ⟨rfl | rfl | rfl | rfl, h⟩ := hg <;> simp [stands, hq] at h
  unfold dueOfFires
  rw [List.mem_flatMap]
  constructor
  · rintro ⟨g, _, h⟩
    obtain ⟨h1, h2⟩ := (mem_dueOfGate s g i).mp h
    exact ⟨⟨g, h1⟩, h2⟩
  · rintro ⟨⟨g, h1⟩, h2⟩
    exact ⟨g, List.mem_range.mpr (hin g ⟨h1, h2⟩), (mem_dueOfGate s g i).mpr ⟨h1, h2⟩⟩

theorem mem_dueOfLanes (s : State) (i : Instr) :
    i ∈ dueOfLanes s ↔ (∃ n, i = .verifyDeadline n) ∧ stands s i = some true := by
  have hin : ∀ n, stands s (.verifyDeadline n) = some true → n < Config.lanes := by
    intro n hn
    by_contra hlt
    have hl : laneOf s n = Lane.reset LaneRec.default := vget_beyond _ _ (Nat.le_of_not_lt hlt)
    simp [stands, hl, Lane.reset] at hn
  unfold dueOfLanes
  rw [List.mem_filterMap]
  constructor
  · rintro ⟨n, _, h⟩
    split at h
    · next hv => cases h; exact ⟨⟨n, rfl⟩, congrArg some hv⟩
    · cases h
  · rintro ⟨⟨n, rfl⟩, h⟩
    exact ⟨n, List.mem_range.mpr (hin n h), if_pos (Option.some.inj h)⟩

theorem mem_dueOfUnits (s : State) (i : Instr) :
    i ∈ dueOfUnits s ↔ (i = .intervalPoint ∨ i = .holePoint ∨ i = .releasePoint ∨ i = .confirmPoint ∨ i = .arrivalPoint ∨
      i = .mergePoint ∨ i = .mergeConfirmPoint ∨ i = .samplePoint ∨ i = .settlePoint ∨ i = .resumeEndPoint) ∧
      stands s i = some true := by
  unfold dueOfUnits
  simp only [List.mem_append, List.mem_ite_nil_right, List.mem_singleton, or_and_right, or_assoc]
  refine or_congr ?_ (or_congr ?_ (or_congr ?_ (or_congr ?_ (or_congr ?_ (or_congr ?_ (or_congr ?_ (or_congr ?_
    (or_congr ?_ ?_))))))))
  all_goals
    rw [and_comm]
    refine and_congr_right ?_
    rintro rfl
    exact Option.some_inj.symm

/-- A point is reached exactly where its row would take it (R4). -/
theorem mem_duePoints {s : State} (h : TrkOk s.trk) (i : Instr) :
    i ∈ duePoints s ↔ beltPoint i = true ∧ stands s i = some true := by
  simp only [duePoints, List.mem_append, mem_dueOfRecords h, mem_dueOfEyes, mem_dueOfFires, mem_dueOfLanes, mem_dueOfUnits,
    ← or_and_right]
  refine and_congr_left fun _ => ?_
  cases i <;> simp [beltPoint]

/-- Whether a belt point stands and is reached is always answered. -/
theorem stands_beltPoint {i : Instr} (h : beltPoint i = true) (s : State) : ∃ b, stands s i = some b := by
  cases i <;> first | exact ⟨_, rfl⟩ | cases h

/-- A point that is taken is a belt point. -/
theorem beltPoint_of_nextDue {s : State} {p : Instr} (h : nextDue s = some p) : beltPoint p = true := by
  have hm := List.mem_of_head? h
  simp only [List.mem_append, mem_dueOfEyes, mem_dueOfFires, mem_dueOfLanes, mem_dueOfUnits] at hm
  obtain (((hm | ⟨⟨_, hp⟩, _⟩) | ⟨⟨_, hp⟩, _⟩) | ⟨⟨_, hp⟩, _⟩) | ⟨hp, _⟩ := hm
  · simp only [dueOfRecords, List.mem_append, List.mem_map] at hm
    obtain (⟨_, _, rfl⟩ | ⟨_, _, rfl⟩) | ⟨_, _, rfl⟩ := hm <;> rfl
  · obtain rfl | rfl := hp <;> rfl
  · obtain rfl | rfl | rfl | rfl := hp <;> rfl
  · obtain rfl := hp; rfl
  · obtain rfl | rfl | rfl | rfl | rfl | rfl | rfl | rfl | rfl | rfl := hp <;> rfl

/-- The first reached point is a belt point that stands and is reached. -/
theorem reached_of_nextDue {s : State} (h : TrkOk s.trk) {p : Instr} (hp : nextDue s = some p) :
    beltPoint p = true ∧ stands s p = some true :=
  (mem_duePoints h p).mp (List.mem_of_head? hp)

/-- No point is reached exactly where no row would take one. -/
theorem nextDue_none_iff_stands {s : State} (h : TrkOk s.trk) :
    nextDue s = none ↔ ∀ i, beltPoint i = true → stands s i = some false := by
  rw [nextDue_eq_head, List.head?_eq_none_iff, List.eq_nil_iff_forall_not_mem]
  refine forall_congr' fun i => ?_
  rw [mem_duePoints h, not_and]
  refine forall_congr' fun hi => ?_
  obtain ⟨b, hb⟩ := stands_beltPoint hi s
  rw [hb]; cases b <;> simp

/-! ## A step -/

theorem idle_of_due {s : State} {p : Instr} (h : nextDue s = some p) : idle s = .next (takePoint p s) := by
  unfold idle; rw [h]
theorem idle_of_none {s : State} (h : nextDue s = none) : idle s = .next s := by
  unfold idle; rw [h]
theorem step_empty {s : State} (h : s.pending = []) : step s = idle s := by
  unfold step; rw [h]
theorem step_front {s : State} {i : Instr} {is : List Instr} (h : s.pending = i :: is) :
    step s = exec i (s.setPending is) := by
  unfold step; rw [h]

/-- Settles O2: the idle step takes the first reached point as the point's own row does. -/
theorem stepOnAnEmptyQueueTakesAReachedPoint : Obligations.StepOnAnEmptyQueueTakesAReachedPoint := by
  intro s hi hq
  refine ⟨fun p hp => ?_, fun hn => ?_⟩
  · obtain ⟨hb, hs⟩ := reached_of_nextDue hi.trk hp
    refine ⟨?_, hb, hs⟩
    rw [step_empty hq, idle_of_due hp, exec_beltPoint hb]
  · rw [step_empty hq, idle_of_none hn]

end Sys2Proof.Machine
end

section
/-! PROOFS. Points that are not reached, the resets, the encoder and the speed windows (O8 to O11, O32). -/

namespace Sys2Proof.Machine

/-! ## A point that is not reached, a timer that does not run -/

theorem vset_vget {α : Type} {n : Nat} (v : Vector α n) (i : Nat) (d : α) : vset v i (vget v i d) = v := by
  by_cases hi : i < n
  · apply Vector.toList_inj.mp
    have hl : i < v.toList.length := by simpa using hi
    simp only [vset, vget, List.getD_eq_getElem?_getD, List.getElem?_eq_getElem hl, Option.getD_some, List.set_getElem_self,
      Vector.toList_mk]
  · exact vset_beyond v i _ (Nat.le_of_not_lt hi)

theorem dropFirst_of_none {p : Fire → Bool} {l : List Fire} (h : l.any p = false) : dropFirst p l = l := by
  induction l with
  | nil => rfl
  | cons x xs ih =>
    simp only [List.any_cons, Bool.or_eq_false_iff] at h
    unfold dropFirst
    rw [h.1, ih h.2]; rfl

theorem find?_of_any_false {α : Type} {p : α → Bool} {l : List α} (h : l.any p = false) : l.find? p = none := by
  simpa using h

theorem recordPoint_not_reached {s : State} {id : Nat} (p : Rec → Option Int) (act : Rec → State → State)
    (h : due ((findRec s id).bind p) s = false) {x : State}
    (hx : x = match findRec s id with | some r => whenDue (p r) (act r) s | none => s) : x = s := by
  rw [hx]
  rcases hf : findRec s id with _ | r
  · rfl
  · rw [hf] at h
    exact whenDue_not_due _ _ _ h

/-- The row of a point that does not stand, or is not reached, has no effect. -/
theorem takePoint_not_reached {p : Instr} {s : State} (hb : beltPoint p = true) (h : stands s p = some false) :
    takePoint p s = s := by
  cases p <;> first | (cases hb; done) | (replace h := Option.some.inj h)
  case originPassage id =>
    rw [Option.map_eq_bind] at h
    exact recordPoint_not_reached _ (fun r t => (passesWith t r).foldl (fun u x => passOrigin x u) t) h rfl
  case sightingDeadline id => exact recordPoint_not_reached (·.deadline) _ h rfl
  case passageWatch id => exact recordPoint_not_reached (·.watch) _ h rfl
  case jamPoint i =>
    show jamDue i s = s
    unfold jamDue
    rcases he : eyeOf s i with _ | e
    · rfl
    · rw [he] at h; exact whenDue_not_due _ _ _ h
  case tagLimit i =>
    show tagLimitDue i s = s
    unfold tagLimitDue
    rcases he : eyeOf s i with _ | e
    · rfl
    · rw [he] at h; exact whenDue_not_due _ _ _ h
  case openStart g => exact if_neg (Bool.not_eq_true _ ▸ h)
  case checkPoint g =>
    show checkFirePoint g s = s
    unfold checkFirePoint
    rw [find?_of_any_false (p := checksNow s) h]
  case closeStart g =>
    show closeStartPoint g s = s
    unfold closeStartPoint
    rw [find?_of_any_false (p := closesNow s) h]
  case endPoint g =>
    show setQueue g (dropFirst (endsNow s) (queueOf s g)) s = s
    rw [dropFirst_of_none (p := endsNow s) h]
    unfold setQueue queueOf
    rw [vset_vget]; rfl
  case verifyDeadline n =>
    show verifyPoint n s = s
    unfold verifyPoint
    rw [find?_of_any_false h]
  case releasePoint => exact (whenDue_not_due _ _ _ h : releaseDue s = s)
  case confirmPoint =>
    show confirmDue s = s
    unfold confirmDue
    rcases ho : s.ind.outstanding with _ | o
    · rfl
    · rw [ho] at h; exact whenDue_not_due _ _ _ h
  case holePoint =>
    show holeDue s = s
    unfold holeDue
    rcases hw : s.ind.holeWait with _ | l
    · rfl
    · rw [hw] at h; exact whenDue_not_due _ _ _ h
  case mergePoint => exact (whenDue_not_due _ _ _ h : mergeDue s = s)
  case mergeConfirmPoint =>
    show mergeConfirmDue s = s
    unfold mergeConfirmDue
    rcases hg : s.mrg.grant with _ | g
    · rfl
    · rw [hg] at h; exact whenDue_not_due _ _ _ h
  case intervalPoint =>
    show intervalDue s = s
    unfold intervalDue
    rcases hi : s.mrg.interval with _ | p
    · rfl
    · rw [hi] at h; exact whenDue_not_due _ _ _ h
  case arrivalPoint => exact (whenDue_not_due _ _ _ h : arrivalDue s = s)
  case samplePoint => exact (whenDue_not_due _ _ _ h : sampleDue s = s)
  case settlePoint => exact (whenDue_not_due _ _ _ h : settleDue s = s)
  case resumeEndPoint => exact (whenDue_not_due _ _ _ h : resumeEndDue s = s)

/-- A row that has a point or a timer is the row of a belt point or of a timer. -/
theorem timer_of_stands {i : Instr} {s : State} {b : Bool} (h : stands s i = some b) (hb : beltPoint i = false) :
    ∃ act, timerAct i = some act := by
  cases i <;> first | exact ⟨_, rfl⟩ | (cases hb; done) | cases h

/-- The row of a timer that does not run has no effect. -/
theorem timerAct_stopped {i : Instr} {act : State → State} {s : State} (ha : timerAct i = some act)
    (h : stands s i = some false) : act s = s := by
  cases i <;> cases ha <;> replace h := Option.some.inj h
  case feedbackTimerExpiry.refl g =>
    unfold feedbackExpiry
    rcases hg : gateOf s g with _ | x
    · rfl
    · rw [hg] at h
      exact if_neg (by simpa using h)
  case linkTimerExpiry.refl => exact if_neg (by simp [h])
  all_goals exact if_neg (by simp [h])

theorem exec_not_reached {i : Instr} {s : State} (h : stands s i = some false) (hr : beltPoint i = true ∨ nextDue s = none) :
    exec i s = .next s := by
  by_cases hb : beltPoint i = true
  · rw [exec_beltPoint hb, takePoint_not_reached hb h]
  · obtain ⟨act, ha⟩ := timer_of_stands h (by simpa using hb)
    rw [exec_timer ha, takeReached_of_none (hr.resolve_left hb), timerAct_stopped ha h]

/-! ## Taking the reached points -/

theorem takeReached_eq (s : State) : takeReached s = if s.held.resetn || s.held.supply then s else drain 4096 s := by
  unfold takeReached notHeld
  rcases s.held with ⟨_ | _, _ | _⟩ <;> rfl

theorem drain_succ {s : State} {p : Instr} (n : Nat) (h : nextDue s = some p) :
    exec p s = .next (takePoint p s) ∧ drain (n + 1) s = drain n (takePoint p s) := by
  refine ⟨?_, by rw [drain, h]⟩
  exact exec_beltPoint (beltPoint_of_nextDue h) s

/-- Settles O32. -/
theorem pointsAreTakenWhenReached : Obligations.PointsAreTakenWhenReached := by
  refine ⟨fun i s => exec_not_reached, fun s hi => nextDue_none_iff_stands hi.trk, takeReached_eq,
    fun s n => ⟨rfl, drain_of_none, fun p hp => ⟨_, drain_succ n hp⟩⟩, fun i s hi hn => ?_⟩
  obtain ⟨act, ha⟩ := exec_takesFirst hi
  rw [ha, ha, takeReached_of_none hn]

/-! ## The state after reset, and the resets -/

/-- Settles O8: every field of the state after reset is evaluated. -/
theorem resetLeavesThePowerOnValues : Obligations.ResetLeavesThePowerOnValues := by
  refine ⟨?pos, ?params, ?eyes, ?sightings, ?list, ?orders, ?fires, ?gates, ?lanes, ?induction, ?regulator, ?spur, ?run,
    ?commands, ?notices, ?port, ?drops, ?pending⟩
  all_goals decide

/-- Settles O9: by what holds the part. -/
theorem resetsAndThePortStart : Obligations.ResetsAndThePortStart := by
  refine ⟨fun c s => ?_, fun pair s => ⟨?_, ?_⟩, fun s => ?_⟩
  · cases c
    · rcases s with ⟨⟨_ | _, _ | _⟩, _⟩ <;> rfl
    · rcases s with ⟨⟨_ | _, _ | _⟩, _⟩ <;> rfl
  · rcases s with ⟨⟨_ | _, _ | _⟩, _⟩ <;> rfl
  · rcases s with ⟨⟨_ | _, _ | _⟩, _⟩ <;> rfl
  · rcases s with ⟨⟨_ | _, _ | _⟩, _⟩ <;> rfl

/-! ## The encoder and the speed windows -/

/-- Belt movement restarts a stall timer that runs, and changes nothing else (R175). -/
theorem beltMoves_eq (s : State) : beltMoves s = { s with
    run := { s.run with stall := if s.run.stall.isSome then some s.params.stallTime else s.run.stall } } := by
  unfold beltMoves
  split <;> rfl

/-- What a forward count does once the reached points are taken. -/
theorem countForward_eq {u : State} (h : notHeld u = true) :
    let enc : EncPair := ⟨u.pos.enc.b, !u.pos.enc.a⟩
    let run := { u.run with stall := if u.run.stall.isSome then some u.params.stallTime else u.run.stall }
    countForward u =
      if 0 < u.pos.tally then { u with pos := { u.pos with enc := enc, tally := u.pos.tally - 1 }, run := run }
      else if u.pos.odo + 1 < 2 ^ 40 then
        { u with pos := { u.pos with enc := enc, odo := u.pos.odo + 1, winCount := u.pos.winCount + 1 }, run := run }
      else
        { u with
          pos := { u.pos with enc := enc, odo := (Config.odometerAfterEnd u.free).toNat, winCount := u.pos.winCount + 1 }
          run := run
          free := u.free + 1 } := by
  unfold countForward advance
  simp only [h, beltMoves_eq]
  rfl

theorem notHeld_drain {s : State} (h : notHeld s = true) (n : Nat) : notHeld (drain n s) = true :=
  (runs_of_shell (shell_drain n s)).2.trans h

theorem exec_forwardCount {s : State} (h : notHeld s = true) :
    exec .forwardCount s = .next (countForward (drain Config.drainBound s)) := by
  rw [exec_input (i := .forwardCount) rfl]
  unfold takeReached
  rw [if_pos h]

theorem exec_forwardCount_held {s : State} (h : notHeld s = false) : exec .forwardCount s = .next s := by
  show Host.Outcome.next (forward s) = _
  unfold forward
  rw [h]; rfl

/-- What reporting a fault changes: run control, the points that RUNNING allows, and the notices. -/
theorem reportFault_rest (c : FaultCause) (d : Nat) (s : State) :
    (reportFault c d s).pos = s.pos ∧ (reportFault c d s).trk = s.trk ∧ (reportFault c d s).fpl = s.fpl := by
  unfold reportFault
  repeat' split
  · rw [notify_eq]; exact ⟨rfl, rfl, rfl⟩
  · exact ⟨rfl, rfl, rfl⟩
  · rw [notify_eq]; exact ⟨rfl, rfl, rfl⟩
  · rw [enterState_quiet _ _ _ _ (by simp)]
    unfold State.entered
    rw [notify_eq]; exact ⟨rfl, rfl, rfl⟩

/-- In FAULT a cause that is recorded already changes nothing (R176). -/
theorem reportFault_known {c : FaultCause} {d : Nat} {s : State} (hst : s.run.st = .fault)
    (h : s.run.cause = c ∨ s.run.further.has c = true) : reportFault c d s = s := by
  unfold reportFault
  rw [hst]
  exact if_pos (by simpa using h)

theorem satInc_eq_min (cap x : Nat) : satInc cap x = min cap (x + 1) := by
  unfold satInc; split <;> omega

/-- What a reverse count does where no point is reached: the belt has moved back, and a tally above 64 is reported. -/
theorem reverse_eq {s : State} (h : notHeld s = true) :
    let tally := min 255 (s.pos.tally + 1)
    let u : State := { s with
      pos := { s.pos with enc := ⟨!s.pos.enc.b, s.pos.enc.a⟩, tally := tally }
      run := { s.run with stall := if s.run.stall.isSome then some s.params.stallTime else s.run.stall } }
    reverse s = if 64 < tally then reportFault .beltReverse 0 u else u := by
  unfold reverse
  simp only [if_pos h, satInc_eq_min, beltMoves_eq]
  rfl

theorem exec_illegalStep {s : State} (h : notHeld s = true) :
    exec .illegalStep s = .next { s with pos := { s.pos with enc := ⟨!s.pos.enc.a, !s.pos.enc.b⟩ } } := by
  show Host.Outcome.next (illegal s) = _
  unfold illegal
  rw [if_pos h]; rfl

/-- Settles O10: each row's equation, and the report of a tally above 64. -/
theorem encoderCountsAndIllegalSteps : Obligations.EncoderCountsAndIllegalSteps := by
  refine ⟨fun s => ⟨exec_forwardCount_held, fun h => ?_, drain_of_none⟩, fun s h hn => ?_⟩
  · rw [exec_forwardCount h, countForward_eq (notHeld_drain h _)]
  · intro tally u
    have he : exec .reverseCount s = .next (if 64 < tally then reportFault .beltReverse 0 u else u) := by
      rw [exec_input (i := .reverseCount) rfl, takeReached_of_none hn]
      exact congrArg _ (reverse_eq h)
    refine ⟨fun ht => ?_, fun ht => ?_, exec_illegalStep h⟩
    · rw [he, if_neg (by simp only [tally]; omega)]
    · rw [if_pos (by simp only [tally]; omega)] at he
      obtain ⟨hpos, htrk, hfpl⟩ := reportFault_rest .beltReverse 0 u
      exact ⟨_, he, hpos, htrk, hfpl, faultTaken_reportFault .beltReverse 0 u,
        reportFault_known (c := .beltReverse) (d := 0) (s := u)⟩

/-- Settles O11: by whether V is above the limit. -/
theorem speedWindowEndMeasuresTheBelt : Obligations.SpeedWindowEndMeasuresTheBelt := by
  intro s h hn v limit u
  have he : exec .speedWindowEnd s = .next (if limit < v ∧ s.pos.overspd = false then notify (.overspeed v limit) u else u) := by
    rw [exec_input (i := .speedWindowEnd) rfl, takeReached_of_none hn]
    unfold windowEnd
    rw [if_pos h]; rfl
  refine ⟨fun hq => ?_, fun hv ho => ?_⟩
  · rw [he, if_neg]
    rintro ⟨hv, ho⟩
    rcases hq with hq | hq
    · omega
    · simp [ho] at hq
  · rw [he, if_pos ⟨hv, ho⟩]

end Sys2Proof.Machine
end

section
/-! PROOFS. What the station frames and the timers leave alone (O18, O19). -/

namespace Sys2Proof.Machine

/-! ## Station frames -/

@[simp] theorem core_takeRemoval (n : Nat) (s : State) : (takeRemoval n s).core = s.core := by
  unfold takeRemoval; split <;> simp
@[simp] theorem core_setHalted (b : Bool) (n : Nat) (s : State) : (setHalted b n s).core = s.core := by
  simp [setHalted]
@[simp] theorem core_spuriousFeedback (g : Nat) (b : Bool) (x : GateState) (s : State) :
    (spuriousFeedback g b x s).core = s.core := by simp [spuriousFeedback]
@[simp] theorem core_takeAtOpen (g : Nat) (s : State) : (takeAtOpen g s).core = s.core := by
  unfold takeAtOpen; repeat' split
  all_goals simp
@[simp] theorem core_takeAtClosed (g : Nat) (s : State) : (takeAtClosed g s).core = s.core := by
  unfold takeAtClosed; dsimp only; repeat' split
  all_goals simp
@[simp] theorem core_takeDriveFault (g : Nat) (s : State) : (takeDriveFault g s).core = s.core := by
  unfold takeDriveFault; repeat' split
  all_goals simp
@[simp] theorem core_takeReady (t l : Nat) (s : State) : (takeReady t l s).core = s.core := by simp [takeReady]
@[simp] theorem core_takeEmpty (s : State) : (takeEmpty s).core = s.core := by
  unfold takeEmpty; split <;> simp
@[simp] theorem core_confirmAnswer (o : Release) (a : Answer) (s : State) : (confirmAnswer o a s).core = s.core := by
  unfold confirmAnswer; split <;> simp
@[simp] theorem core_takeReleased (x : Nat) (s : State) : (takeReleased x s).core = s.core := by
  unfold takeReleased; dsimp only; repeat' split
  all_goals simp
@[simp] theorem core_takeSpurReady (t l : Nat) (s : State) : (takeSpurReady t l s).core = s.core := by
  unfold takeSpurReady; dsimp only; split <;> simp
@[simp] theorem core_insertMerged (t : Option Nat) (l x : Nat) (s : State) : (insertMerged t l x s).core = s.core := by
  unfold insertMerged; dsimp only; split <;> simp
@[simp] theorem core_takeMerged (x : Nat) (s : State) : (takeMerged x s).core = s.core := by
  unfold takeMerged; dsimp only; repeat' split
  all_goals simp
@[simp] theorem core_takeSpurEmpty (s : State) : (takeSpurEmpty s).core = s.core := by simp [takeSpurEmpty]

/-- What the block that owns a frame does with it leaves the core alone. -/
@[simp] theorem core_frameAct (i : Instr) (x : Station) (k p : Nat) (s : State) : (frameAct i x k p s).core = s.core := by
  cases i <;> simp [frameAct, sightingFrame, laneFrame, stampedFrame] <;> split <;> simp

theorem core_stationFrame (src : Nat) (f : FrameKind) (act : Station → Nat → Nat → State → State) (s : State)
    (ha : ∀ x i p, (act x i p s).core = s.core) : (stationFrame src f act s).core = s.core := by
  unfold stationFrame
  split
  · split
    · split
      · exact ha _ _ _
      · rfl
    · rfl
  · rfl

/-- The ring port less its control queue and its unmapped count, said of the two ports. -/
theorem rng_of_line {x y : Rng} (h : y.line = x.line) : y = { x with control := y.control, unmapped := y.unmapped } := by
  cases x; cases y
  simp only [Rng.line, Prod.mk.injEq] at h
  obtain ⟨rfl, rfl, rfl, rfl, rfl, rfl, rfl, rfl, rfl⟩ := h
  rfl

theorem sameCore_of_core {s t : State} (h : t.core = s.core) : SameCore s t := by
  simp only [State.core, Prod.mk.injEq] at h
  obtain ⟨held, pos, params, reg, cmd, free, pending, line⟩ := h
  exact ⟨held, pos, params, reg, cmd, free, pending, rng_of_line line⟩

/-- A frame that no record accepts is counted with the unmapped frames (R9). -/
theorem stationFrame_unmapped {src : Nat} {f : FrameKind} (act : Station → Nat → Nat → State → State) {s : State}
    (hr : portRuns s = true) (h : ∀ x k, lookUp s src f = some (x, k) → x.accepts src f = false) :
    stationFrame src f act s = countUnmapped s := by
  unfold stationFrame
  rw [if_pos hr]
  split
  · next x k hx => rw [h x k hx]; rfl
  · rfl

theorem stationFrame_off {src : Nat} {f : FrameKind} (act : Station → Nat → Nat → State → State) {s : State}
    (hr : portRuns s = false) : stationFrame src f act s = s := by
  unfold stationFrame
  rw [hr]; rfl

/-- Settles O18. -/
theorem frameOfStationFrames : Obligations.FrameOfStationFrames := by
  refine ⟨fun i src f s hi hn => ?_, fun i src f s hi hn => ⟨fun hr => ?_, fun hr hx => ?_⟩⟩
  all_goals rw [exec_frame hi, takeReached_of_none hn]
  · exact ⟨_, rfl, sameCore_of_core (core_stationFrame _ _ _ _ fun x k p => core_frameAct i x k p s)⟩
  · rw [stationFrame_off _ hr]
  · rw [stationFrame_unmapped _ hr hx]; rfl

/-! ## Belt points and timers -/

/-- Every belt point but the sample point leaves the core alone, the regulator in it. -/
theorem core_takePoint {p : Instr} (h : p ≠ .samplePoint) (s : State) : (takePoint p s).core = s.core := by
  unfold takePoint
  split <;> first | rfl | exact absurd rfl h | simp

/-- Every timer but the link timer leaves the core alone, CMD in it. -/
theorem core_timerAct {i : Instr} {act : State → State} (ha : timerAct i = some act) (h : i ≠ .linkTimerExpiry) (s : State) :
    (act s).core = s.core := by
  cases i <;> cases ha <;> first | exact absurd rfl h | simp

/-- The link timer's expiry changes CMD and what hangs on it: IND's points and the notices (R207). -/
theorem linkExpiry_rest (s : State) : ∃ cmd ind ntq, linkExpiry s = { s with cmd := cmd, ind := ind, ntq := ntq } := by
  unfold linkExpiry
  split
  · rw [notify_eq]; exact ⟨_, _, _, rfl⟩
  · exact ⟨s.cmd, s.ind, s.ntq, rfl⟩

theorem sameCore_of_shell {s t : State} (h : t.shell = s.shell) : SameCore { s with reg := t.reg, cmd := t.cmd } t := by
  simp only [State.shell, Prod.mk.injEq] at h
  obtain ⟨held, pos, params, cmd, free, pending, line⟩ := h
  exact ⟨held, pos, params, rfl, rfl, free, pending, rng_of_line line⟩

theorem reg_of_core {s t : State} (h : t.core = s.core) : t.reg = s.reg := by
  simp only [State.core, Prod.mk.injEq] at h
  exact h.2.2.2.1
theorem cmd_of_core {s t : State} (h : t.core = s.core) : t.cmd = s.cmd := by
  simp only [State.core, Prod.mk.injEq] at h
  exact h.2.2.2.2.1
theorem cmd_of_shell {s t : State} (h : t.shell = s.shell) : t.cmd = s.cmd := by
  simp only [State.shell, Prod.mk.injEq] at h
  exact h.2.2.2.1

/-- Settles O19: the sample point and the link timer apart, every point and timer leaves the core alone. -/
theorem frameOfPointsAndTimers : Obligations.FrameOfPointsAndTimers := by
  intro i b s hs hr
  by_cases hb : beltPoint i = true
  · have hsh := shell_takePoint i s
    exact ⟨_, exec_beltPoint hb s, sameCore_of_shell hsh, fun h => reg_of_core (core_takePoint h s), fun _ => cmd_of_shell hsh⟩
  · obtain ⟨act, ha⟩ := timer_of_stands hs (by simpa using hb)
    have he := exec_timer ha s
    rw [takeReached_of_none (hr.resolve_left hb)] at he
    refine ⟨_, he, ?_⟩
    by_cases hl : i = .linkTimerExpiry
    · subst hl
      cases ha
      obtain ⟨cmd, ind, ntq, hx⟩ := linkExpiry_rest s
      rw [hx]
      exact ⟨⟨rfl, rfl, rfl, rfl, rfl, rfl, rfl, rfl⟩, fun _ => rfl, fun h => absurd rfl h⟩
    · have hc := core_timerAct ha hl s
      exact ⟨sameCore_of_shell (shell_of_core hc), fun _ => reg_of_core hc, fun _ => cmd_of_core hc⟩

end Sys2Proof.Machine
end

section
/-! PROOFS. Every step keeps the invariant (O4): the invariant of the blocks, and the ranges of the position unit and of the
two queues of the ring port that the blocks do not fill. -/

namespace Sys2Proof.Machine

/-! ## The two parts of the invariant -/

/-- The part of the invariant that only the encoder, the ring port and CMD work on. -/
structure GaugeInv (s : State) : Prop where
  forward : s.rng.forward.length ≤ Config.maxForward
  replies : s.rng.replies.length ≤ Config.maxReplies
  pos     : PosOk s.pos

/-- Both parts. -/
structure Kept (s : State) : Prop where
  blocks : BlockInv s
  gauge  : GaugeInv s

theorem Kept.of_inv {s : State} (h : Inv s) : Kept s :=
  ⟨⟨h.run, h.trk, h.ord, h.lanes, h.fires, h.queues.control, h.queues.notices⟩, ⟨h.queues.forward, h.queues.replies, h.pos⟩⟩

theorem Kept.inv {s : State} (h : Kept s) : Inv s :=
  ⟨h.blocks.run, h.blocks.trk, h.blocks.ord, h.blocks.lanes, h.blocks.fires,
    ⟨h.gauge.forward, h.blocks.control, h.gauge.replies, h.blocks.notices⟩, h.gauge.pos⟩

theorem GaugeInv.of_ok {s t : State} (h : GaugeInv s) (hg : GaugeOk s t) : GaugeInv t := by
  obtain ⟨_, hodo, htally, hv, hforward, hreplies⟩ := hg
  refine ⟨hforward ▸ h.forward, hreplies ▸ h.replies, hodo ▸ h.pos.odo, ?_, hv ▸ h.pos.v⟩
  rcases htally with e | e
  · exact e ▸ h.pos.tally
  · rw [e]; exact Nat.zero_le _

theorem GaugeInv.of_gauge {s t : State} (h : GaugeInv s) (hg : t.gauge = s.gauge) : GaugeInv t := h.of_ok (GaugeOk.of hg)
theorem GaugeInv.of_core {s t : State} (h : GaugeInv s) (hc : t.core = s.core) : GaugeInv t := h.of_gauge (gauge_of_core hc)
theorem GaugeInv.of_shell {s t : State} (h : GaugeInv s) (hs : t.shell = s.shell) : GaugeInv t := by
  simp only [State.shell, Rng.line, Prod.mk.injEq] at hs
  obtain ⟨_, hpos, _, _, _, _, _, hforward, hreplies, _⟩ := hs
  exact ⟨hforward ▸ h.forward, hreplies ▸ h.replies, hpos ▸ h.pos⟩

/-- A change that the blocks make leaves the gauge alone. -/
theorem Kept.of_core {s t : State} (h : Kept s) (hb : BlockInv t) (hc : t.core = s.core) : Kept t :=
  ⟨hb, h.gauge.of_core hc⟩

/-! ## Points, timers and station frames -/

theorem kept_takePoint {s : State} (p : Instr) (h : Kept s) : Kept (takePoint p s) :=
  ⟨inv_takePoint h.blocks, h.gauge.of_shell (shell_takePoint p s)⟩
theorem kept_takeReached {s : State} (h : Kept s) : Kept (takeReached s) :=
  ⟨inv_takeReached h.blocks, h.gauge.of_shell (shell_takeReached s)⟩

theorem kept_linkExpiry {s : State} (h : Kept s) : Kept (linkExpiry s) := by
  have hb := inv_linkExpiry h.blocks
  obtain ⟨_, _, _, he⟩ := linkExpiry_rest s
  rw [he] at hb ⊢
  exact ⟨hb, h.gauge.forward, h.gauge.replies, h.gauge.pos⟩

theorem kept_timerAct {i : Instr} {act : State → State} (ha : timerAct i = some act) {s : State} (h : Kept s) :
    Kept (act s) := by
  by_cases hl : i = .linkTimerExpiry
  · subst hl; cases ha; exact kept_linkExpiry h
  · refine h.of_core ?_ (core_timerAct ha hl s)
    cases i <;> cases ha <;> simp [h.blocks]

theorem inv_frameAct (i : Instr) (x : Station) (k p : Nat) {s : State} (h : BlockInv s) : BlockInv (frameAct i x k p s) := by
  cases i <;> simp [frameAct, sightingFrame, laneFrame, stampedFrame, h] <;> split <;> simp [h]

theorem kept_stationFrame {src : Nat} {f : FrameKind} {act : Station → Nat → Nat → State → State} {s : State} (h : Kept s)
    (hb : ∀ x k p, BlockInv (act x k p s)) (hc : ∀ x k p, (act x k p s).core = s.core) : Kept (stationFrame src f act s) :=
  h.of_core (inv_stationFrame h.blocks hb) (core_stationFrame _ _ _ _ hc)

/-! ## Commands -/

theorem kept_placeReply {r : Reply} {s : State} (h : Kept s) (hroom : s.rng.replies.length < Config.maxReplies) :
    Kept (placeReply r s) := by
  refine ⟨inv_placeReply h.blocks, h.gauge.forward, ?_, h.gauge.pos⟩
  simpa [placeReply] using hroom

/-- What a command's exchange keeps, its body keeping it. -/
theorem kept_answer {op : Nat} {tag : Byte} {resets : Bool} {body : State → Executed} {s : State} (h : Kept s)
    (hb : BlockInv (body s).1) (hg : GaugeOk s (body s).1) : Kept (answer op tag resets body s) := by
  unfold answer
  split
  · split
    · exact ⟨inv_countCmdDrop h.blocks, h.gauge.of_gauge (gauge_countCmdDrop s)⟩
    · next hfull =>
      have hroom : s.rng.replies.length < Config.maxReplies := Nat.lt_of_not_le fun hle => hfull (.inl hle)
      split
      · exact kept_placeReply h hroom
      · refine kept_placeReply (kept_takeReached ⟨hb, h.gauge.of_ok hg⟩) ?_
        have hr : (takeReached (body s).1).rng.replies = s.rng.replies :=
          ((GaugeOk.of (gauge_takeReached _)).2.2.2.2.2).trans hg.2.2.2.2.2
        rw [hr]; exact hroom
  · exact h

/-- The commands that change CMD only: they answer from the state, or keep a pointer, a page or a wait. -/
def asksOnly : Instr → Bool
  | .heartbeat _ | .setPointer _ _ _ | .resetDevice _ | .orderQuery _ _ | .queryStatus _ | .queryLane _ _ | .queryTote _ _ => true
  | _ => false

theorem asksOnly_body {i : Instr} {c : Order} (hc : orderOf i = some c) (h : asksOnly i = true) (s : State) :
    ∃ x, (c.body s).1 = s.setCmd x := by
  cases i <;> cases h <;> cases hc
  case heartbeat.refl.refl => exact ⟨s.cmd, rfl⟩
  case setPointer.refl.refl =>
    dsimp only
    unfold cmdSetPointer
    repeat' split
    all_goals exact ⟨_, rfl⟩
  case resetDevice.refl.refl => exact ⟨_, rfl⟩
  case orderQuery.refl.refl =>
    dsimp only
    unfold cmdOrderQuery
    repeat' split
    all_goals exact ⟨s.cmd, rfl⟩
  case queryStatus.refl.refl => exact ⟨_, rfl⟩
  case queryLane.refl.refl =>
    dsimp only
    unfold cmdQueryLane
    split
    · exact ⟨s.cmd, rfl⟩
    · exact ⟨_, rfl⟩
  case queryTote.refl.refl =>
    dsimp only
    unfold cmdQueryTote
    repeat' split
    all_goals exact ⟨s.cmd, rfl⟩

/-- The body of every command keeps the invariant of the blocks. -/
theorem inv_order {i : Instr} {c : Order} (hc : orderOf i = some c) {s : State} (h : BlockInv s) : BlockInv (c.body s).1 := by
  by_cases ha : asksOnly i = true
  · obtain ⟨x, hx⟩ := asksOnly_body hc ha s
    rw [hx]; exact inv_setCmd h
  · cases i <;> cases hc <;> first | (exact absurd rfl ha) | simp [h]

@[simp] theorem gauge_cmdQueryCounters (g i c : Nat) (s : State) : (cmdQueryCounters g i c s).1.gauge = s.gauge := by
  unfold cmdQueryCounters refuse
  repeat' split
  all_goals simp

/-- The body of every command leaves the gauge alone, but for the tally, which it may set to 0. -/
theorem gaugeOk_order {i : Instr} {c : Order} (hc : orderOf i = some c) (s : State) : GaugeOk s (c.body s).1 := by
  by_cases ha : asksOnly i = true
  · obtain ⟨x, hx⟩ := asksOnly_body hc ha s
    rw [hx]; exact GaugeOk.refl s
  · cases i <;> cases hc <;> try exact absurd rfl ha
    case clearFault.refl => exact gauge_cmdClearFault s
    case resetTrack.refl => exact gauge_cmdResetTrack s
    case noticeMask.refl => exact GaugeOk.refl s
    all_goals exact GaugeOk.of (by simp)

theorem kept_order {i : Instr} {c : Order} (hc : orderOf i = some c) {s : State} (h : Kept s) : Kept (c.answer s) :=
  kept_answer h (inv_order hc h.blocks) (gaugeOk_order hc s)

/-! ## The encoder and the speed windows -/

theorem inv_beltMoves {s : State} (h : BlockInv s) : BlockInv (beltMoves s) := by
  unfold beltMoves
  split
  · next hs =>
    have hr := h.run
    exact inv_setRun h ⟨hr.belt, by simpa [hs] using hr.stall, hr.settle, hr.rule, hr.lap, hr.cause, hr.idle, hr.park, hr.wake⟩
  · exact h

theorem gaugeInv_beltMoves {s : State} (h : GaugeInv s) : GaugeInv (beltMoves s) := by
  rw [beltMoves_eq]; exact ⟨h.forward, h.replies, h.pos⟩

theorem kept_beltMoves {s : State} (h : Kept s) : Kept (beltMoves s) := ⟨inv_beltMoves h.blocks, gaugeInv_beltMoves h.gauge⟩

/-- A change of the position unit within its ranges. -/
theorem kept_setPos {s : State} {x : Pos} (h : Kept s) (hx : PosOk x) : Kept (s.setPos x) :=
  ⟨inv_setPos h.blocks, h.gauge.forward, h.gauge.replies, hx⟩

/-- Past the end of its range the odometer holds 40 bits again, whatever they are (R3, log 1). -/
theorem kept_advance {s : State} (h : Kept s) : Kept (advance s) := by
  have hp := h.gauge.pos
  unfold advance
  dsimp only
  split
  · next hlt => exact kept_setPos (kept_setPos h ⟨hp.odo, hp.tally, hp.v⟩) ⟨hlt, hp.tally, hp.v⟩
  · have hk := kept_setPos (x := { s.pos with
      winCount := s.pos.winCount + 1, odo := (Config.odometerAfterEnd s.free).toNat }) h
      ⟨(Config.odometerAfterEnd s.free).isLt, hp.tally, hp.v⟩
    exact ⟨inv_setFree hk.blocks, hk.gauge.forward, hk.gauge.replies, hk.gauge.pos⟩

theorem kept_countForward {s : State} (h : Kept s) : Kept (countForward s) := by
  unfold countForward
  split
  · have hp := h.gauge.pos
    have hk : Kept (beltMoves (s.setPos { s.pos with enc := EncPair.forward s.pos.enc })) :=
      kept_beltMoves (kept_setPos h ⟨hp.odo, hp.tally, hp.v⟩)
    have hq := hk.gauge.pos
    dsimp only
    split
    · exact kept_setPos hk ⟨hq.odo, Nat.le_trans (Nat.sub_le _ _) hq.tally, hq.v⟩
    · exact kept_advance hk
  · exact h

theorem kept_reverse {s : State} (h : Kept s) : Kept (reverse s) := by
  unfold reverse
  split
  · have hp := h.gauge.pos
    have hk : Kept (beltMoves (s.setPos { s.pos with
        enc := EncPair.backward s.pos.enc, tally := satInc 255 s.pos.tally })) :=
      kept_beltMoves (kept_setPos h ⟨hp.odo, satInc_le, hp.v⟩)
    dsimp only
    split
    · exact hk.of_core (inv_reportFault (by simp) hk.blocks) (core_reportFault _ _ _)
    · exact hk
  · exact h

theorem kept_illegal {s : State} (h : Kept s) : Kept (illegal s) := by
  unfold illegal
  split
  · exact kept_setPos h ⟨h.gauge.pos.odo, h.gauge.pos.tally, h.gauge.pos.v⟩
  · exact h

theorem kept_windowEnd {s : State} (h : Kept s) : Kept (windowEnd s) := by
  unfold windowEnd
  split
  · have hk := kept_setPos (x := { s.pos with
      v := min (4 * s.pos.winCount) 1000, winCount := 0, vref := vrefOf s.params (min (4 * s.pos.winCount) 1000)
      overspd := decide (overspeedLimit s.params < min (4 * s.pos.winCount) 1000) }) h
      ⟨h.gauge.pos.odo, h.gauge.pos.tally, Nat.min_le_right _ _⟩
    dsimp only
    split
    · exact hk.of_core (inv_notify hk.blocks) (core_notify _ _)
    · exact hk
  · exact h

/-! ## Resets and the port's start -/

theorem inv_atReset : BlockInv State.reset := by
  have hlanes : ∀ l ∈ State.reset.lan.lanes.toList,
      l.occ ≤ 15 ∧ l.streak ≤ 2 ∧ l.verify.length ≤ Config.maxVerify ∧ l.reported = l.computed := by decide
  refine ⟨⟨rfl, rfl, by decide, by decide, by decide, by decide, by decide, by decide, by decide⟩,
    ⟨by decide, by decide, by decide, by decide, by decide⟩, ⟨by decide, by decide⟩, fun l hl => ?_, by decide, by decide,
    by decide⟩
  obtain ⟨hocc, hstreak, hverify, hreported⟩ := hlanes l hl
  exact ⟨hocc, hstreak, hverify, hreported⟩

/-- The values after power-on are in their ranges. -/
theorem kept_powerOn (s : State) : Kept (powerOn s) :=
  ⟨inv_setPending (inv_setFree (inv_setPos (inv_setHeld inv_atReset))), Nat.zero_le _, Nat.zero_le _,
    Nat.two_pow_pos 40, Nat.zero_le _, Nat.zero_le _⟩

/-- A change of what holds the part, and of the encoder reference. -/
theorem kept_setHeldEnc {s : State} {x : Held} {e : EncPair} (h : Kept s) :
    Kept { s with held := x, pos := { s.pos with enc := e } } :=
  ⟨inv_setPos (inv_setHeld h.blocks), h.gauge.forward, h.gauge.replies, h.gauge.pos.odo, h.gauge.pos.tally, h.gauge.pos.v⟩

/-- The end of a cause changes what holds the part, and the encoder reference at most (R186). -/
theorem endReset_rest (c : ResetCause) (pair : EncPair) (s : State) :
    ∃ held enc, endReset c pair s = { s with held := held, pos := { s.pos with enc := enc } } := by
  unfold endReset
  cases c <;> dsimp only <;> split
  all_goals first | exact ⟨_, pair, rfl⟩ | exact ⟨_, s.pos.enc, rfl⟩

theorem kept_endReset {c : ResetCause} {pair : EncPair} {s : State} (h : Kept s) : Kept (endReset c pair s) := by
  obtain ⟨held, enc, he⟩ := endReset_rest c pair s
  rw [he]; exact kept_setHeldEnc h

/-- A change of the ring port that keeps the control queue's destinations apart and the two other queues in their room. -/
theorem kept_setRng {s : State} {x : Rng} (h : Kept s) (hc : (x.control.map (·.dst)).Nodup)
    (hf : x.forward.length ≤ Config.maxForward) (hr : x.replies.length ≤ Config.maxReplies) : Kept (s.setRng x) :=
  ⟨inv_setRng h.blocks hc, hf, hr, h.gauge.pos⟩

theorem kept_startPort {s : State} (h : Kept s) : Kept (startPort s) := by
  unfold startPort
  split
  · exact kept_setRng h h.blocks.control h.gauge.forward h.gauge.replies
  · exact h

/-! ## Reception -/

/-- The link report changes CMD and what hangs on it: IND's points and the notices (R207). -/
theorem linkReport_rest (s : State) : ∃ cmd ind ntq, linkReport s = { s with cmd := cmd, ind := ind, ntq := ntq } := by
  unfold linkReport
  split
  · rw [notify_eq]
    dsimp only
    split <;> exact ⟨_, _, _, rfl⟩
  · dsimp only
    split
    · exact ⟨s.cmd, s.ind, s.ntq, rfl⟩
    · exact ⟨_, s.ind, s.ntq, rfl⟩

theorem inv_linkReport {s : State} (h : BlockInv s) : BlockInv (linkReport s) := by
  unfold linkReport
  split
  · have h1 := inv_notify (n := .hostless false) (inv_indLook (inv_setCmd (x := { s.cmd with hostless := false }) h))
    dsimp only
    split
    · exact h1
    · exact inv_setCmd h1
  · dsimp only
    split
    · exact h
    · exact inv_setCmd h

theorem kept_linkReport {s : State} (h : Kept s) : Kept (linkReport s) := by
  have hb := inv_linkReport h.blocks
  obtain ⟨_, _, _, he⟩ := linkReport_rest s
  rw [he] at hb ⊢
  exact ⟨hb, h.gauge.forward, h.gauge.replies, h.gauge.pos⟩

theorem kept_forwardCopy {x : Frame} {s : State} (h : Kept s) : Kept (forwardCopy x s) := by
  unfold forwardCopy
  split
  · next hroom => exact kept_setRng h h.blocks.control (by simpa using hroom) h.gauge.replies
  · exact kept_setRng h h.blocks.control h.gauge.forward h.gauge.replies

/-- A station frame that is received is taken as the row of its kind and code is (R193). -/
theorem takeStation_eq (x : Frame) (s : State) : ∃ i f, takeStation x s = stationFrame x.src f (frameAct i) s := by
  unfold takeStation
  split
  · by_cases hc : byteAt x.payload 0 = 1
    · exact ⟨.eyeLead x.src, .eye, by simp only [hc, if_true]; rfl⟩
    · exact ⟨.eyeTrail x.src, .eye, by simp only [hc, if_false]; rfl⟩
  · exact ⟨.tag x.src (if byteAt x.payload 0 = 1 then some (wordAt x.payload 1) else Option.none), .tag, rfl⟩
  · by_cases h1 : byteAt x.payload 0 = 1
    · exact ⟨.entry x.src, .lane, by simp only [h1, if_true]; rfl⟩
    · by_cases h2 : byteAt x.payload 0 = 2
      · exact ⟨.removal x.src, .lane, by simp only [h2]; rfl⟩
      · by_cases h3 : byteAt x.payload 0 = 3
        · exact ⟨.haltOn x.src, .lane, by simp only [h3]; rfl⟩
        · exact ⟨.haltOff x.src, .lane, by simp only [h1, h2, h3, if_false, decide_false]; rfl⟩
  · by_cases h1 : byteAt x.payload 0 = 1
    · exact ⟨.atOpen x.src, .gate, by simp only [h1, if_true]; rfl⟩
    · by_cases h2 : byteAt x.payload 0 = 2
      · exact ⟨.atClosed x.src, .gate, by simp only [h2]; rfl⟩
      · exact ⟨.driveFault x.src, .gate, by simp only [h1, h2, if_false]; rfl⟩
  · by_cases h1 : byteAt x.payload 0 = 1
    · exact ⟨.inductReady x.src (wordAt x.payload 1) (byteAt x.payload 3), .induct, by simp only [h1, if_true]; rfl⟩
    · by_cases h2 : byteAt x.payload 0 = 2
      · exact ⟨.released x.src, .induct, by simp only [h2]; rfl⟩
      · exact ⟨.inductEmpty x.src, .induct, by simp only [h1, h2, if_false]; rfl⟩
  · by_cases h1 : byteAt x.payload 0 = 1
    · exact ⟨.spurReady x.src (wordAt x.payload 1) (byteAt x.payload 3), .spur, by simp only [h1, if_true]; rfl⟩
    · by_cases h2 : byteAt x.payload 0 = 2
      · exact ⟨.spurMerged x.src, .spur, by simp only [h2]; rfl⟩
      · exact ⟨.spurEmpty x.src, .spur, by simp only [h1, h2, if_false]; rfl⟩

theorem kept_frame {src : Nat} {f : FrameKind} (i : Instr) {s : State} (h : Kept s) :
    Kept (stationFrame src f (frameAct i) s) :=
  kept_stationFrame h (fun x k p => inv_frameAct i x k p h.blocks) fun x k p => core_frameAct i x k p s

theorem kept_takeCommand {p : List Byte} {s : State} (h : Kept s) : Kept (takeCommand p s) := by
  unfold takeCommand
  exact kept_answer h (inv_executeOp h.blocks) (gauge_executeOp _ _ _)

theorem kept_consume {x : Frame} {s : State} (h : Kept s) : Kept (consume x s) := by
  unfold consume
  split
  · obtain ⟨i, f, he⟩ := takeStation_eq x s
    rw [he]; exact kept_frame i h
  · split
    · split
      · exact kept_takeCommand h
      · exact ⟨inv_countCmdDrop h.blocks, h.gauge.of_gauge (gauge_countCmdDrop s)⟩
    · split
      · exact h.of_core (inv_countUnmapped h.blocks) (core_countUnmapped s)
      · exact h

theorem kept_route {x : Frame} {s : State} (h : Kept s) : Kept (route x s) := by
  unfold route
  repeat' split
  · exact h
  · exact kept_setRng h h.blocks.control h.gauge.forward h.gauge.replies
  · exact kept_consume h
  · exact kept_forwardCopy (kept_consume h)
  · exact kept_forwardCopy h

theorem kept_receive {missing : Bool} {bs : List Byte} {s : State} (h : Kept s) : Kept (receive missing bs s) := by
  unfold receive
  split
  · split
    · exact kept_setRng h h.blocks.control h.gauge.forward h.gauge.replies
    · split
      · exact kept_route (kept_takeReached (kept_linkReport h))
      · exact kept_route h
  · exact h

/-! ## Transmission -/

theorem kept_beginSending {x : Frame} {k : SentAs} {s : State} (h : Kept s) : Kept (beginSending x k s) :=
  kept_setRng h h.blocks.control h.gauge.forward h.gauge.replies

theorem kept_setNtq {s : State} {x : Ntq} (h : Kept s) (hx : x.queue.length ≤ Config.maxNotices) : Kept (s.setNtq x) :=
  ⟨inv_setNtq h.blocks hx, h.gauge.forward, h.gauge.replies, h.gauge.pos⟩

theorem kept_examineOverflow {s : State} (h : Kept s) : Kept (examineOverflow s) := by
  unfold examineOverflow
  split
  · next hc =>
    refine kept_setNtq h ?_
    simp only [List.length_append, List.length_singleton, hc.1]
    decide
  · exact h

theorem kept_sendForward {s t : State} (h : Kept s) (ht : sendForward s = some t) : Kept t := by
  unfold sendForward at ht
  split at ht
  · next x xs hq =>
    cases ht
    refine kept_beginSending (kept_setRng h h.blocks.control ?_ h.gauge.replies)
    have := h.gauge.forward
    rw [hq] at this
    exact Nat.le_of_succ_le this
  · cases ht

theorem kept_sendOwn {s t : State} (h : Kept s) (ht : sendOwn s = some t) : Kept t := by
  unfold sendOwn at ht
  split at ht
  · next c cs hq =>
    cases ht
    refine kept_beginSending (kept_setRng h ?_ h.gauge.forward h.gauge.replies)
    have := h.blocks.control
    rw [hq] at this
    exact (List.nodup_cons.mp this).2
  · next r rs _ hq =>
    cases ht
    refine kept_beginSending (kept_setRng h h.blocks.control h.gauge.forward ?_)
    have := h.gauge.replies
    rw [hq] at this
    exact Nat.le_of_succ_le this
  · next n ns _ _ hq =>
    cases ht
    refine kept_beginSending (kept_examineOverflow (kept_setNtq h ?_))
    have := h.blocks.notices
    rw [hq] at this
    exact Nat.le_of_succ_le this
  · cases ht

/-- What holds whichever frame is chosen: the first, or the other, or none (R197). -/
theorem choice_holds {P : State → Prop} {s : State} {a b : Option State} (h : P s) (ha : ∀ t, a = some t → P t)
    (hb : ∀ t, b = some t → P t) : P ((a.or b).getD s) := by
  rcases a with _ | t
  · rcases b with _ | t
    · exact h
    · exact hb t rfl
  · exact ha t rfl

theorem kept_transmit {s : State} (h : Kept s) : Kept (transmit s) := by
  unfold transmit
  split
  · split
    · exact choice_holds h (fun _ => kept_sendForward h) (fun _ => kept_sendOwn h)
    · exact choice_holds h (fun _ => kept_sendOwn h) (fun _ => kept_sendForward h)
  · exact h

theorem kept_finishSending {s : State} (h : Kept s) : Kept (finishSending s) := by
  have hs : Kept (s.setRng { s.rng with sending := Option.none }) :=
    kept_setRng h h.blocks.control h.gauge.forward h.gauge.replies
  unfold finishSending
  split
  · exact h
  · dsimp only
    split
    · exact hs.of_core (inv_indLook (inv_setInd hs.blocks)) rfl
    · exact kept_powerOn _
    · exact hs

/-! ## Every row, every step -/

theorem kept_inputAct {i : Instr} {act : State → State} (ha : inputAct i = some act) {s : State} (h : Kept s) :
    Kept (act s) := by
  cases i <;> cases ha
  case forwardCount.refl => exact kept_countForward h
  case reverseCount.refl => exact kept_reverse h
  case speedWindowEnd.refl => exact kept_windowEnd h
  case ringFrame.refl => exact kept_receive h
  case transmitStart.refl => exact kept_transmit h
  case transmitEnd.refl => exact kept_finishSending h

/-- The rows by class: a belt point, a row that takes the reached points first, or one of the four that do neither. -/
theorem row_cases (i : Instr) : beltPoint i = true ∨ takesPointsFirst i = true ∨
    (∃ c, i = .resetAssert c) ∨ (∃ c p, i = .resetRelease c p) ∨ i = .ringPortStart ∨ i = .illegalStep := by
  cases i <;> simp [beltPoint, takesPointsFirst]

theorem kept_exec {i : Instr} {s t : State} (h : Kept s) (ht : exec i s = .next t) : Kept t := by
  obtain hb | hf | ⟨c, rfl⟩ | ⟨c, p, rfl⟩ | rfl | rfl := row_cases i
  · rw [exec_beltPoint hb] at ht
    cases ht
    exact kept_takePoint i h
  · have hr := kept_takeReached h
    obtain ⟨c, hc⟩ | ⟨src, f, hf⟩ | ⟨act, ha⟩ | ⟨act, ha⟩ := takesFirst_cases hf
    · rw [exec_order hc] at ht; cases ht; exact kept_order hc hr
    · rw [exec_frame hf] at ht; cases ht; exact kept_frame i hr
    · rw [exec_timer ha] at ht; cases ht; exact kept_timerAct ha hr
    · rw [exec_input ha] at ht; cases ht; exact kept_inputAct ha hr
  · cases ht; exact kept_powerOn _
  · cases ht; exact kept_endReset h
  · cases ht; exact kept_startPort h
  · cases ht; exact kept_illegal h

theorem kept_step {s t : State} (h : Kept s) (ht : step s = .next t) : Kept t := by
  rcases hq : s.pending with _ | ⟨i, is⟩
  · rw [step_empty hq] at ht
    rcases hn : nextDue s with _ | p
    · rw [idle_of_none hn] at ht; cases ht; exact h
    · rw [idle_of_due hn] at ht; cases ht; exact kept_takePoint p h
  · rw [step_front hq] at ht
    have hp : Kept (s.setPending is) := ⟨inv_setPending h.blocks, h.gauge.forward, h.gauge.replies, h.gauge.pos⟩
    exact kept_exec hp ht

/-- Settles O4: both parts of the invariant are kept by every row and by the idle step. -/
theorem everyStepKeepsTheInvariant : Obligations.EveryStepKeepsTheInvariant :=
  fun _ _ h ht => (kept_step (Kept.of_inv h) ht).inv

end Sys2Proof.Machine
end

section
/-! PROOFS. The spur's books: what MRG holds, its merge point apart. Only MRG's own operations change them: one lemma per
operation that leaves them alone. -/

namespace Sys2Proof.Machine

/-- What MRG holds, its merge point apart: every unit may ask MRG to compute that afresh, and only MRG changes the rest. -/
def State.spurBook (s : State) : Mrg := { s.mrg with mergePoint := Option.none }

theorem spurBook_of_planCore {s t : State} (h : t.planCore = s.planCore) : t.spurBook = s.spurBook := by
  simp only [State.planCore, Prod.mk.injEq] at h
  unfold State.spurBook
  rw [h.2.2.2.2.2.1]

/-! ## Updates -/

@[simp] theorem spurBook_setHeld (s : State) (x : Held) : (s.setHeld x).spurBook = s.spurBook := rfl
@[simp] theorem spurBook_setPos (s : State) (x : Pos) : (s.setPos x).spurBook = s.spurBook := rfl
@[simp] theorem spurBook_setParams (s : State) (x : Params) : (s.setParams x).spurBook = s.spurBook := rfl
@[simp] theorem spurBook_setSgt (s : State) (x : Sgt) : (s.setSgt x).spurBook = s.spurBook := rfl
@[simp] theorem spurBook_setTrk (s : State) (x : Trk) : (s.setTrk x).spurBook = s.spurBook := rfl
@[simp] theorem spurBook_setOrd (s : State) (x : OrdTable) : (s.setOrd x).spurBook = s.spurBook := rfl
@[simp] theorem spurBook_setFpl (s : State) (x : Fpl) : (s.setFpl x).spurBook = s.spurBook := rfl
@[simp] theorem spurBook_setGtc (s : State) (x : Gtc) : (s.setGtc x).spurBook = s.spurBook := rfl
@[simp] theorem spurBook_setLan (s : State) (x : Lan) : (s.setLan x).spurBook = s.spurBook := rfl
@[simp] theorem spurBook_setInd (s : State) (x : Ind) : (s.setInd x).spurBook = s.spurBook := rfl
@[simp] theorem spurBook_setReg (s : State) (x : Reg) : (s.setReg x).spurBook = s.spurBook := rfl
@[simp] theorem spurBook_setRun (s : State) (x : Run) : (s.setRun x).spurBook = s.spurBook := rfl
@[simp] theorem spurBook_setCmd (s : State) (x : Cmd) : (s.setCmd x).spurBook = s.spurBook := rfl
@[simp] theorem spurBook_setNtq (s : State) (x : Ntq) : (s.setNtq x).spurBook = s.spurBook := rfl
@[simp] theorem spurBook_setRng (s : State) (x : Rng) : (s.setRng x).spurBook = s.spurBook := rfl
@[simp] theorem spurBook_setFree (s : State) (x : Nat) : (s.setFree x).spurBook = s.spurBook := rfl
@[simp] theorem spurBook_setPending (s : State) (x : List Instr) : (s.setPending x).spurBook = s.spurBook := rfl
@[simp] theorem spurBook_setMrg (s : State) (x : Mrg) :
    (s.setMrg x).spurBook = { x with mergePoint := Option.none } := rfl

/-! ## Operations of the blocks -/

@[simp] theorem spurBook_notify (n : Notice) (s : State) : (notify n s).spurBook = s.spurBook := by
  unfold notify; repeat' split
  all_goals rfl
@[simp] theorem spurBook_placeControl (c : Ctl) (s : State) : (placeControl c s).spurBook = s.spurBook :=
  spurBook_of_planCore (planCore_placeControl c s)
@[simp] theorem spurBook_placeForKind (k : StationKind) (c : CtlKind) (s : State) : (placeForKind k c s).spurBook = s.spurBook := by
  unfold placeForKind; split <;> simp
@[simp] theorem spurBook_modRec (id : Nat) (f : Rec → Rec) (s : State) : (modRec id f s).spurBook = s.spurBook := rfl
@[simp] theorem spurBook_reseat (id : Nat) (a : Int) (s : State) : (reseat id a s).spurBook = s.spurBook := by
  unfold reseat; split <;> rfl
@[simp] theorem spurBook_putEntry (e : Entry) (s : State) : (putEntry e s).spurBook = s.spurBook := rfl
@[simp] theorem spurBook_removeEntry (t : Nat) (s : State) : (removeEntry t s).spurBook = s.spurBook := rfl
@[simp] theorem spurBook_setEntryState (t : Nat) (x : EntryState) (s : State) : (setEntryState t x s).spurBook = s.spurBook := rfl
@[simp] theorem spurBook_settleEntry (r : Rec) (x : EntryFate) (s : State) : (settleEntry r x s).spurBook = s.spurBook := by
  unfold settleEntry; repeat' split
  all_goals rfl
@[simp] theorem spurBook_setQueue (g : Nat) (q : List Fire) (s : State) : (setQueue g q s).spurBook = s.spurBook := rfl
@[simp] theorem spurBook_setGate (g : Nat) (x : Gate) (s : State) : (setGate g x s).spurBook = s.spurBook := rfl
@[simp] theorem spurBook_modLane (n : Nat) (f : Lane → Lane) (s : State) : (modLane n f s).spurBook = s.spurBook := rfl
@[simp] theorem spurBook_sendLamp (n : Nat) (b : Bool) (s : State) : (sendLamp n b s).spurBook = s.spurBook := by
  unfold sendLamp; split <;> simp
@[simp] theorem spurBook_setEye (i : Nat) (e : Eye) (s : State) : (setEye i e s).spurBook = s.spurBook := rfl
@[simp] theorem spurBook_driveGate (g : Nat) (b : Bool) (s : State) : (driveGate g b s).spurBook = s.spurBook :=
  spurBook_of_planCore (planCore_driveGate g b s)
@[simp] theorem spurBook_openForFire (g : Nat) (s : State) : (openForFire g s).spurBook = s.spurBook :=
  spurBook_of_planCore (planCore_openForFire g s)
@[simp] theorem spurBook_closeIfOpen (g : Nat) (s : State) : (closeIfOpen g s).spurBook = s.spurBook :=
  spurBook_of_planCore (planCore_closeIfOpen g s)
@[simp] theorem spurBook_decideGates (gs : List Nat) (s : State) : (decideGates gs s).spurBook = s.spurBook :=
  spurBook_of_planCore (planCore_decideGates gs s)
@[simp] theorem spurBook_moveClose (g : Nat) (x : Fire) (s : State) : (moveClose g x s).spurBook = s.spurBook :=
  spurBook_of_planCore (planCore_moveClose g x s)
@[simp] theorem spurBook_planReq (id : Nat) (s : State) : (planReq id s).spurBook = s.spurBook :=
  spurBook_of_planCore (planCore_planReq id s)
@[simp] theorem spurBook_finishDetach (l : List Nat) (p : Planned) (s : State) : (finishDetach l p s).spurBook = s.spurBook :=
  spurBook_of_planCore (planCore_finishDetach l p s)
@[simp] theorem spurBook_shadowRecheck (id : Nat) (s : State) : (shadowRecheck id s).spurBook = s.spurBook :=
  spurBook_of_planCore (planCore_shadowRecheck id s)
@[simp] theorem spurBook_withdrawLane (g : Nat) (s : State) : (withdrawLane g s).spurBook = s.spurBook :=
  spurBook_of_planCore (planCore_withdrawLane g s)
@[simp] theorem spurBook_planLane (g : Nat) (s : State) : (planLane g s).spurBook = s.spurBook :=
  spurBook_of_planCore (planCore_planLane g s)
@[simp] theorem spurBook_detach (id : Nat) (s : State) : (detach id s).st.spurBook = s.spurBook :=
  spurBook_of_planCore (planCore_detach id s)

/-! ## Slots and run control -/

@[simp] theorem spurBook_indLook (s : State) : (indLook s).spurBook = s.spurBook := rfl
@[simp] theorem spurBook_mrgLook (s : State) : (mrgLook s).spurBook = s.spurBook := rfl
@[simp] theorem spurBook_notifySome (n : Option Notice) (s : State) : (notifySome n s).spurBook = s.spurBook := by
  unfold notifySome; split <;> simp
@[simp] theorem spurBook_examineNew (r : Ready) (s : State) : (examineNew r s).spurBook = s.spurBook := by
  simp [examineNew]
@[simp] theorem spurBook_reexamine (s : State) : (reexamine s).spurBook = s.spurBook := by
  unfold reexamine; dsimp only; repeat' split
  all_goals simp
@[simp] theorem spurBook_runIdle (s : State) : (runIdle s).spurBook = s.spurBook := by
  unfold runIdle; repeat' split
  all_goals rfl
@[simp] theorem spurBook_listChange (s : State) : (listChange s).spurBook = s.spurBook := by simp [listChange]
@[simp] theorem spurBook_enterState (n : RunState) (r : Option Rule) (c : StateCause) (s : State) :
    (enterState n r c s).spurBook = s.spurBook := by simp [enterState]
@[simp] theorem spurBook_reportFault (c : FaultCause) (d : Nat) (s : State) : (reportFault c d s).spurBook = s.spurBook := by
  unfold reportFault; repeat' split
  all_goals simp
@[simp] theorem spurBook_endLap (c : StateCause) (s : State) : (endLap c s).spurBook = s.spurBook := by
  unfold endLap; dsimp only; split <;> simp
@[simp] theorem spurBook_lapCheck (s : State) : (lapCheck s).spurBook = s.spurBook := by
  unfold lapCheck; split <;> simp
@[simp] theorem spurBook_wakeEyes (s : State) : (wakeEyes s).spurBook = s.spurBook := rfl
@[simp] theorem spurBook_sendLamps (s : State) : (sendLamps s).spurBook = s.spurBook :=
  foldl_keeps State.spurBook _ (fun t n => spurBook_sendLamp n _ t) _ s
@[simp] theorem spurBook_broadcastWake (s : State) : (broadcastWake s).spurBook = s.spurBook := by simp [broadcastWake]
@[simp] theorem spurBook_beginWake (c : StateCause) (s : State) : (beginWake c s).spurBook = s.spurBook := by simp [beginWake]
@[simp] theorem spurBook_resumeFrom (c : StateCause) (s : State) : (resumeFrom c s).spurBook = s.spurBook := by
  unfold resumeFrom; repeat' split
  all_goals simp
@[simp] theorem spurBook_runReady (s : State) : (runReady s).spurBook = s.spurBook := by
  unfold runReady; split <;> simp
@[simp] theorem spurBook_enterDark (r : Option Rule) (c : StateCause) (s : State) : (enterDark r c s).spurBook = s.spurBook := by
  simp [enterDark]

/-! ## The tracking list -/

@[simp] theorem spurBook_loadDeadline (id p : Nat) (x : Int) (w : Nat) (s : State) :
    (loadDeadline id p x w s).spurBook = s.spurBook := by
  unfold loadDeadline; split <;> simp
@[simp] theorem spurBook_matchDeadline (id p : Nat) (x : Int) (s : State) : (matchDeadline id p x s).spurBook = s.spurBook := by
  simp [matchDeadline]
@[simp] theorem spurBook_moveRec (id : Nat) (d : Int) (s : State) : (moveRec id d s).spurBook = s.spurBook := by
  unfold moveRec; repeat' split
  all_goals simp
@[simp] theorem spurBook_correct (id : Nat) (d : Int) (s : State) : (correct id d s).spurBook = s.spurBook := by
  unfold correct; split <;> simp
@[simp] theorem spurBook_passOrigin (r : Rec) (s : State) : (passOrigin r s).spurBook = s.spurBook := by simp [passOrigin]
@[simp] theorem spurBook_removeRec (id : Nat) (x : EntryFate) (s : State) : (removeRec id x s).spurBook = s.spurBook := by
  unfold removeRec; dsimp only; split <;> simp
@[simp] theorem spurBook_roleToReturn (id : Nat) (r : Reason) (x : EntryFate) (s : State) :
    (roleToReturn id r x s).spurBook = s.spurBook := by
  unfold roleToReturn; dsimp only; repeat' split
  all_goals simp
@[simp] theorem spurBook_loseRec (id : Nat) (c : LostCause) (s : State) : (loseRec id c s).spurBook = s.spurBook := by
  unfold loseRec; dsimp only; split <;> simp
@[simp] theorem spurBook_markUnsure (s : State) : (markUnsure s).spurBook = s.spurBook := by
  unfold markUnsure
  exact foldl_keeps State.spurBook _ (fun t x => by simp) _ s
@[simp] theorem spurBook_linkNew (q : InsertReq) (r : Rec) (t : Nat) (s : State) : (linkNew q r t s).1.spurBook = s.spurBook := by
  unfold linkNew; dsimp only; repeat' split
  all_goals simp
@[simp] theorem spurBook_settleNew (q : InsertReq) (r : Rec) (s : State) : (settleNew q r s).1.spurBook = s.spurBook := by
  unfold settleNew; repeat' split
  all_goals simp
@[simp] theorem spurBook_insertRec (q : InsertReq) (s : State) : (insertRec q s).1.spurBook = s.spurBook := by
  unfold insertRec; dsimp only; repeat' split
  all_goals simp

/-! ## Lanes and sightings -/

@[simp] theorem spurBook_laneUpdate (n : Nat) (f : Lane → Lane) (s : State) : (laneUpdate n f s).spurBook = s.spurBook := by
  unfold laneUpdate; dsimp only; repeat' split
  all_goals simp
@[simp] theorem spurBook_raiseOccupancy (n : Nat) (s : State) : (raiseOccupancy n s).spurBook = s.spurBook := by
  simp [raiseOccupancy]
@[simp] theorem spurBook_deliver (n id : Nat) (c l : Bool) (s : State) : (deliver n id c l s).spurBook = s.spurBook := by
  unfold deliver; split <;> simp
@[simp] theorem spurBook_deliverUnconfirmed (n : Nat) (e : VerifyEntry) (s : State) :
    (deliverUnconfirmed n e s).spurBook = s.spurBook := by simp [deliverUnconfirmed]
@[simp] theorem spurBook_takeEntry (n : Nat) (s : State) : (takeEntry n s).spurBook = s.spurBook := by
  unfold takeEntry; dsimp only; split <;> simp
@[simp] theorem spurBook_enterVerify (n : Nat) (c : Int) (l : Bool) (s : State) (id : Nat) :
    (enterVerify n c l s id).spurBook = s.spurBook := by
  unfold enterVerify; dsimp only; repeat' split
  all_goals simp
@[simp] theorem spurBook_applyLapLimit (id : Nat) (s : State) : (applyLapLimit id s).spurBook = s.spurBook := by
  unfold applyLapLimit; repeat' split
  all_goals simp
@[simp] theorem spurBook_failedDivert (id : Nat) (s : State) : (failedDivert id s).spurBook = s.spurBook := by
  unfold failedDivert; dsimp only; repeat' split
  all_goals simp
@[simp] theorem spurBook_handOver (id : Nat) (s : State) : (handOver id s).spurBook = s.spurBook := by
  unfold handOver; repeat' split
  all_goals simp
@[simp] theorem spurBook_relocate (id : Nat) (x : Int) (p i : Nat) (s : State) : (relocate id x p i s).spurBook = s.spurBook := by
  unfold relocate; dsimp only; split <;> simp
@[simp] theorem spurBook_gateFault (g : Nat) (c : GateCause) (s : State) : (gateFault g c s).spurBook = s.spurBook := by
  unfold gateFault; dsimp only; split <;> simp
@[simp] theorem spurBook_clearFaulted (n : Nat) (s : State) : (clearFaulted n s).spurBook = s.spurBook := by simp [clearFaulted]
@[simp] theorem spurBook_clearDoubt (id : Nat) (s : State) : (clearDoubt id s).spurBook = s.spurBook := by
  unfold clearDoubt; dsimp only; split <;> simp
@[simp] theorem spurBook_sizeCheck (id : Nat) (s : State) : (sizeCheck id s).spurBook = s.spurBook := by
  unfold sizeCheck; dsimp only; repeat' split
  all_goals simp
@[simp] theorem spurBook_setLength (id : Nat) (l : Option Nat) (s : State) : (setLength id l s).spurBook = s.spurBook := by
  unfold setLength; split <;> simp
@[simp] theorem spurBook_matchRead (id : Nat) (d : Int) (x : Sighting) (s : State) : (matchRead id d x s).spurBook = s.spurBook := by
  simp [matchRead]
@[simp] theorem spurBook_takeDoubt (id : Nat) (x : Sighting) (s : State) : (takeDoubt id x s).spurBook = s.spurBook := by
  unfold takeDoubt; dsimp only; repeat' split
  all_goals simp
@[simp] theorem spurBook_matchNoread (id : Nat) (d : Int) (x : Sighting) (s : State) :
    (matchNoread id d x s).spurBook = s.spurBook := by simp [matchNoread]
@[simp] theorem spurBook_countStray (s : State) : (countStray s).spurBook = s.spurBook := rfl
theorem spurBook_sightInsert (x : Sighting) (r : Role) (w : Reason) (f : State → State) (s : State)
    (hf : ∀ t, (f t).spurBook = t.spurBook) : (sightInsert x r w f s).1.spurBook = s.spurBook := by
  have h := spurBook_insertRec (sightingReq x r w) s
  unfold sightInsert
  split <;> simp_all
@[simp] theorem spurBook_reportPhantom (x : Sighting) (s : State) : (reportPhantom x s).spurBook = s.spurBook := by
  simp [reportPhantom]
@[simp] theorem spurBook_sightNew (x : Sighting) (s : State) : (sightNew x s).1.spurBook = s.spurBook := by
  unfold sightNew
  split
  · rfl
  · split
    · split
      · exact spurBook_sightInsert _ _ _ _ _ fun _ => rfl
      · exact spurBook_sightInsert _ _ _ _ _ fun _ => by simp
    · exact spurBook_sightInsert _ _ _ _ _ fun _ => by simp
@[simp] theorem spurBook_resolve (x : Sighting) (s : State) : (resolve x s).1.spurBook = s.spurBook := by
  unfold resolve; repeat' split
  all_goals simp
@[simp] theorem spurBook_endWindow (i : Nat) (w : ReaderWindow) (s : State) : (endWindow i w s).spurBook = s.spurBook := by
  unfold endWindow; dsimp only; repeat' split
  all_goals simp
@[simp] theorem spurBook_countSighting (x : Sighting) (s : State) : (countSighting x s).spurBook = s.spurBook := by
  unfold countSighting; dsimp only; repeat' split
  all_goals simp
@[simp] theorem spurBook_crowdOne (id : Nat) (s : State) : (crowdOne id s).spurBook = s.spurBook := by
  unfold crowdOne; dsimp only; repeat' split
  all_goals simp
@[simp] theorem spurBook_crowdPair (i g : Nat) (p c : Option Nat) (s : State) : (crowdPair i g p c s).spurBook = s.spurBook := by
  unfold crowdPair; dsimp only
  rw [spurBook_notify]
  exact foldl_keeps State.spurBook _ (fun t id => spurBook_crowdOne id t) _ s
@[simp] theorem spurBook_modEye (i : Nat) (f : Eye → Eye) (s : State) : (modEye i f s).spurBook = s.spurBook := by
  unfold modEye; split <;> simp
@[simp] theorem spurBook_resolvePass (i : Nat) (e : Eye) (r l : Option Nat) (s : State) :
    (resolvePass i e r l s).1.spurBook = s.spurBook := by
  unfold resolvePass; dsimp only; split <;> simp
@[simp] theorem spurBook_openPass (i x : Nat) (s : State) : (openPass i x s).spurBook = s.spurBook := by simp [openPass]
@[simp] theorem spurBook_takeLead (i x : Nat) (s : State) : (takeLead i x s).spurBook = s.spurBook := by
  unfold takeLead; dsimp only; repeat' split
  all_goals simp
@[simp] theorem spurBook_deliverLength (id l : Nat) (s : State) : (deliverLength id l s).spurBook = s.spurBook := by
  unfold deliverLength; repeat' split
  all_goals simp
@[simp] theorem spurBook_takeTrail (i x : Nat) (s : State) : (takeTrail i x s).spurBook = s.spurBook := by
  unfold takeTrail; dsimp only; repeat' split
  all_goals simp
@[simp] theorem spurBook_takeTag (i x : Nat) (r : Option Nat) (s : State) : (takeTag i x r s).spurBook = s.spurBook := by
  unfold takeTag; dsimp only; repeat' split
  all_goals simp
@[simp] theorem spurBook_takeTagLimit (i : Nat) (s : State) : (takeTagLimit i s).spurBook = s.spurBook := by
  unfold takeTagLimit; split <;> simp
end Sys2Proof.Machine
end

section
/-! PROOFS. Every step keeps what the units compute in its range (O5). -/

namespace Sys2Proof.Machine

/-! ## The debt -/

/-- The merge debt is in its range (R166). -/
def DebtOk (s : State) : Prop := -8 ≤ s.mrg.debt ∧ s.mrg.debt ≤ 8

theorem DebtOk.of_book {s t : State} (h : DebtOk s) (hb : t.spurBook = s.spurBook) : DebtOk t := by
  have hd := congrArg Mrg.debt hb
  change t.mrg.debt = s.mrg.debt at hd
  unfold DebtOk
  rw [hd]; exact h

theorem debtOk_intervalDue {s : State} (h : DebtOk s) : DebtOk (intervalDue s) := by
  have hup : ∀ d : Int, -8 ≤ d ∧ d ≤ 8 → -8 ≤ debtUp d ∧ debtUp d ≤ 8 := by
    intro d hd; unfold debtUp; split <;> omega
  have hforce : ∀ u : State, (forceMerge u).mrg.debt = u.mrg.debt := by
    intro u
    unfold forceMerge
    repeat' split
    · rw [notify_eq]; rfl
    · rfl
    · rfl
  unfold intervalDue whenDue
  repeat' split
  · unfold DebtOk; rw [hforce]; exact hup _ h
  · exact h
  · exact h

theorem debtOk_repeat {f : State → State} (hf : ∀ t, DebtOk t → DebtOk (f t)) (n : Nat) {s : State} (h : DebtOk s) :
    DebtOk (Nat.repeat f n s) := by
  induction n with
  | zero => exact h
  | succ n ih => exact hf _ ih

theorem debtOk_startAccrual {s : State} (h : DebtOk s) : DebtOk (startAccrual s) := by
  unfold startAccrual
  split
  · exact h
  · exact debtOk_repeat (fun _ => debtOk_intervalDue) _ h

theorem debtOk_accrueIfReady {s : State} (h : DebtOk s) : DebtOk (accrueIfReady s) := by
  unfold accrueIfReady
  split
  · exact debtOk_startAccrual h
  · exact h

theorem debtOk_pauseAccrual {s : State} (h : DebtOk s) : DebtOk (pauseAccrual s) := by
  unfold pauseAccrual
  split <;> exact h

theorem debtOk_lowerDebt {s : State} (h : DebtOk s) : DebtOk (lowerDebt s) := by
  obtain ⟨h1, h2⟩ := h
  show -8 ≤ debtDown s.mrg.debt ∧ debtDown s.mrg.debt ≤ 8
  unfold debtDown
  split <;> omega

theorem debtOk_withdrawRequest {s : State} (h : DebtOk s) : DebtOk (withdrawRequest s) := by
  unfold withdrawRequest
  split <;> exact h

/-! ### Points -/

@[simp] theorem spurBook_passBy (r : Rec) (s : State) : (passBy r s).spurBook = s.spurBook := by
  unfold passBy; dsimp only; repeat' split
  all_goals simp
@[simp] theorem spurBook_removeHole (s : State) : (removeHole s).spurBook = s.spurBook := by
  unfold removeHole; split <;> simp
@[simp] theorem spurBook_moveDeadlineOn (r : Rec) (s : State) : (moveDeadlineOn r s).spurBook = s.spurBook := rfl

theorem debtOk_whenDue {p : Option Int} {act : State → State} {s : State} (h : DebtOk s) (ha : DebtOk (act s)) :
    DebtOk (whenDue p act s) := by
  unfold whenDue
  split
  · exact ha
  · exact h

theorem debtOk_mergeGo {b : Bool} {s : State} (h : DebtOk s) : DebtOk (mergeGo b s) := by
  unfold mergeGo
  split
  · have hp : DebtOk (pauseAccrual (placeForKind .merge .mergeGo s)) := debtOk_pauseAccrual (h.of_book (by simp))
    refine DebtOk.of_book ?_ ((spurBook_runIdle _).trans (spurBook_mrgLook _))
    exact hp
  · exact h

@[simp] theorem spurBook_originPoint (id : Nat) (s : State) : (originPoint id s).spurBook = s.spurBook := by
  unfold originPoint; split
  · exact whenDue_keeps State.spurBook _ _ s fun t => foldl_keeps State.spurBook _ (fun u x => by simp) _ t
  · rfl
@[simp] theorem spurBook_deadlinePoint (id : Nat) (s : State) : (deadlinePoint id s).spurBook = s.spurBook := by
  unfold deadlinePoint; split
  · exact whenDue_keeps State.spurBook _ _ s fun t => by split <;> simp
  · rfl
@[simp] theorem spurBook_watchPoint (id : Nat) (s : State) : (watchPoint id s).spurBook = s.spurBook := by
  unfold watchPoint; split
  · exact whenDue_keeps State.spurBook _ _ s fun t => by split <;> simp
  · rfl
@[simp] theorem spurBook_jamDue (i : Nat) (s : State) : (jamDue i s).spurBook = s.spurBook := by
  unfold jamDue; split
  · exact whenDue_keeps State.spurBook _ _ s fun t => by simp
  · rfl
@[simp] theorem spurBook_tagLimitDue (i : Nat) (s : State) : (tagLimitDue i s).spurBook = s.spurBook := by
  unfold tagLimitDue; split
  · exact whenDue_keeps State.spurBook _ _ s fun t => by simp
  · rfl
@[simp] theorem spurBook_openStartPoint (g : Nat) (s : State) : (openStartPoint g s).spurBook = s.spurBook := by
  unfold openStartPoint; split <;> simp
@[simp] theorem spurBook_checkFirePoint (g : Nat) (s : State) : (checkFirePoint g s).spurBook = s.spurBook := by
  unfold checkFirePoint; dsimp only; repeat' split
  all_goals simp
@[simp] theorem spurBook_closeStartPoint (g : Nat) (s : State) : (closeStartPoint g s).spurBook = s.spurBook := by
  have hv : ∀ (l : List Nat) (x : Fire) (t : State), (l.foldl (enterVerify g x.c x.lateGate) t).spurBook = t.spurBook :=
    fun l x t => foldl_keeps State.spurBook _ (fun u id => by simp) l t
  unfold closeStartPoint; dsimp only; repeat' split
  all_goals simp [hv]
@[simp] theorem spurBook_verifyPoint (n : Nat) (s : State) : (verifyPoint n s).spurBook = s.spurBook := by
  unfold verifyPoint; split <;> simp
@[simp] theorem spurBook_releaseDue (s : State) : (releaseDue s).spurBook = s.spurBook :=
  whenDue_keeps State.spurBook _ _ s fun t => by dsimp only; repeat' split
                                                 all_goals simp
@[simp] theorem spurBook_confirmDue (s : State) : (confirmDue s).spurBook = s.spurBook := by
  unfold confirmDue; split
  · exact whenDue_keeps State.spurBook _ _ s fun t => by simp
  · rfl
@[simp] theorem spurBook_recomputeGap (s : State) : (recomputeGap s).spurBook = s.spurBook := by
  unfold recomputeGap; dsimp only; split <;> simp
@[simp] theorem spurBook_sampleDue (s : State) : (sampleDue s).spurBook = s.spurBook :=
  whenDue_keeps State.spurBook _ _ s fun t => by simp
@[simp] theorem spurBook_settleDue (s : State) : (settleDue s).spurBook = s.spurBook :=
  whenDue_keeps State.spurBook _ _ s fun t => by
    unfold enterResuming; dsimp only; repeat' split
    all_goals simp
@[simp] theorem spurBook_resumeEndDue (s : State) : (resumeEndDue s).spurBook = s.spurBook := by
  refine whenDue_keeps State.spurBook _ _ s fun t => ?_
  have hl : ∀ (l : List Nat) (u : State), (l.foldl (fun u id => loseRec id .resume u) u).spurBook = u.spurBook :=
    fun l u => foldl_keeps State.spurBook _ (fun v id => by simp) l u
  dsimp only; split <;> simp [hl]

theorem debtOk_takePoint (p : Instr) {s : State} (h : DebtOk s) : DebtOk (takePoint p s) := by
  cases p <;> try exact h
  case originPassage id => exact h.of_book (spurBook_originPoint id s)
  case sightingDeadline id => exact h.of_book (spurBook_deadlinePoint id s)
  case passageWatch id => exact h.of_book (spurBook_watchPoint id s)
  case jamPoint i => exact h.of_book (spurBook_jamDue i s)
  case tagLimit i => exact h.of_book (spurBook_tagLimitDue i s)
  case openStart g => exact h.of_book (spurBook_openStartPoint g s)
  case checkPoint g => exact h.of_book (spurBook_checkFirePoint g s)
  case closeStart g => exact h.of_book (spurBook_closeStartPoint g s)
  case verifyDeadline n => exact h.of_book (spurBook_verifyPoint n s)
  case releasePoint => exact h.of_book (spurBook_releaseDue s)
  case confirmPoint => exact h.of_book (spurBook_confirmDue s)
  case samplePoint => exact h.of_book (spurBook_sampleDue s)
  case settlePoint => exact h.of_book (spurBook_settleDue s)
  case resumeEndPoint => exact h.of_book (spurBook_resumeEndDue s)
  case intervalPoint => exact debtOk_intervalDue h
  case holePoint =>
    show DebtOk (holeDue s)
    unfold holeDue
    split
    · next l _ =>
      refine debtOk_whenDue h ?_
      dsimp only
      have hi : DebtOk (insertRec ⟨.hole, .none, 0, now s, Option.none, l, false⟩ s).1 :=
        h.of_book (spurBook_insertRec _ s)
      split
      · exact hi
      · exact hi
    · exact h
  case mergePoint =>
    refine debtOk_whenDue h ?_
    dsimp only
    split
    · exact debtOk_mergeGo h
    · exact h
  case mergeConfirmPoint =>
    show DebtOk (mergeConfirmDue s)
    unfold mergeConfirmDue
    split
    · refine debtOk_whenDue h ?_
      refine DebtOk.of_book ?_ ((spurBook_runIdle _).trans ((spurBook_mrgLook _).trans (spurBook_notify _ _)))
      exact h
    · exact h
  case arrivalPoint =>
    refine debtOk_whenDue h ?_
    have hg : DebtOk (if s.mrg.ready.isSome && s.mrg.grant.isNone && s.run.st = .running then mergeGo true s else s) := by
      split
      · exact debtOk_mergeGo h
      · exact h
    refine DebtOk.of_book ?_ ((spurBook_mrgLook _).trans (spurBook_removeHole _))
    exact hg

/-! ### Station frames -/

@[simp] theorem spurBook_insertMerged (t : Option Nat) (l x : Nat) (s : State) : (insertMerged t l x s).spurBook = s.spurBook := by
  unfold insertMerged; dsimp only; split <;> simp

theorem debtOk_takeSpurReady {t l : Nat} {s : State} (h : DebtOk s) : DebtOk (takeSpurReady t l s) := by
  have hr : DebtOk (runReady (runIdle (s.setMrg { s.mrg with
      ready := some ⟨readNumber t, l⟩, last := some ⟨readNumber t, l⟩ }))) := by
    refine DebtOk.of_book ?_ ((spurBook_runReady _).trans (spurBook_runIdle _))
    exact h
  unfold takeSpurReady
  refine DebtOk.of_book ?_ (spurBook_mrgLook _)
  split
  · exact hr
  · exact debtOk_startAccrual hr

theorem debtOk_takeMerged {x : Nat} {s : State} (h : DebtOk s) : DebtOk (takeMerged x s) := by
  unfold takeMerged
  split
  · refine DebtOk.of_book ?_ ((spurBook_runIdle _).trans ((spurBook_mrgLook _).trans (spurBook_insertMerged _ _ _ _)))
    exact debtOk_lowerDebt h
  · split
    · exact h
    · refine DebtOk.of_book ?_ (spurBook_insertMerged _ _ _ _)
      have hl := debtOk_lowerDebt h
      split
      · refine DebtOk.of_book ?_ ((spurBook_runIdle _).trans (spurBook_mrgLook _))
        exact debtOk_pauseAccrual hl
      · exact hl

theorem debtOk_takeSpurEmpty {s : State} (h : DebtOk s) : DebtOk (takeSpurEmpty s) := by
  refine DebtOk.of_book ?_ (spurBook_runIdle _)
  refine debtOk_withdrawRequest ⟨?_, ?_⟩
  · show -8 ≤ min s.mrg.debt 0
    have := h.1; omega
  · show min s.mrg.debt 0 ≤ 8
    omega

@[simp] theorem spurBook_takeRemoval (n : Nat) (s : State) : (takeRemoval n s).spurBook = s.spurBook := by
  unfold takeRemoval; split <;> simp
@[simp] theorem spurBook_setHalted (b : Bool) (n : Nat) (s : State) : (setHalted b n s).spurBook = s.spurBook := by
  simp [setHalted]
@[simp] theorem spurBook_spuriousFeedback (g : Nat) (b : Bool) (x : GateState) (s : State) :
    (spuriousFeedback g b x s).spurBook = s.spurBook := by simp [spuriousFeedback]
@[simp] theorem spurBook_takeAtOpen (g : Nat) (s : State) : (takeAtOpen g s).spurBook = s.spurBook := by
  unfold takeAtOpen; repeat' split
  all_goals simp
@[simp] theorem spurBook_takeAtClosed (g : Nat) (s : State) : (takeAtClosed g s).spurBook = s.spurBook := by
  unfold takeAtClosed; dsimp only; repeat' split
  all_goals simp
@[simp] theorem spurBook_takeDriveFault (g : Nat) (s : State) : (takeDriveFault g s).spurBook = s.spurBook := by
  unfold takeDriveFault; repeat' split
  all_goals simp
@[simp] theorem spurBook_takeReady (t l : Nat) (s : State) : (takeReady t l s).spurBook = s.spurBook := by simp [takeReady]
@[simp] theorem spurBook_takeEmpty (s : State) : (takeEmpty s).spurBook = s.spurBook := by
  unfold takeEmpty; split <;> simp
@[simp] theorem spurBook_confirmAnswer (o : Release) (a : Answer) (s : State) :
    (confirmAnswer o a s).spurBook = s.spurBook := by
  unfold confirmAnswer; split <;> simp
@[simp] theorem spurBook_takeReleased (x : Nat) (s : State) : (takeReleased x s).spurBook = s.spurBook := by
  unfold takeReleased; dsimp only; repeat' split
  all_goals simp

theorem debtOk_frameAct (i : Instr) (x : Station) (k p : Nat) {s : State} (h : DebtOk s) : DebtOk (frameAct i x k p s) := by
  have hs : ∀ act : Nat → Nat → State → State, (∀ a b, (act a b s).spurBook = s.spurBook) →
      DebtOk (sightingFrame act x k p s) := by
    intro act ha
    unfold sightingFrame
    split
    · exact h
    · exact h.of_book (ha _ _)
  cases i <;> try exact h
  case eyeLead => exact hs _ fun a b => spurBook_takeLead a b s
  case eyeTrail => exact hs _ fun a b => spurBook_takeTrail a b s
  case tag src read => exact hs _ fun a b => spurBook_takeTag a b read s
  case entry => exact h.of_book (spurBook_takeEntry _ s)
  case removal => exact h.of_book (spurBook_takeRemoval _ s)
  case haltOn => exact h.of_book (spurBook_setHalted _ _ s)
  case haltOff => exact h.of_book (spurBook_setHalted _ _ s)
  case atOpen => exact h.of_book (spurBook_takeAtOpen _ s)
  case atClosed => exact h.of_book (spurBook_takeAtClosed _ s)
  case driveFault => exact h.of_book (spurBook_takeDriveFault _ s)
  case inductReady src t l => exact h.of_book (spurBook_takeReady t l s)
  case inductEmpty => exact h.of_book (spurBook_takeEmpty s)
  case released => exact h.of_book (spurBook_takeReleased p s)
  case spurReady => exact debtOk_takeSpurReady h
  case spurMerged => exact debtOk_takeMerged h
  case spurEmpty => exact debtOk_takeSpurEmpty h

end Sys2Proof.Machine
end

section
/-! PROOFS. The ranges: points, timers, frames, commands and the encoder keep them (O5). -/

namespace Sys2Proof.Machine

/-! ## The ranges, G apart -/

/-- The ranges, but for G, which a change of S, Gmin or Gmax leaves to be computed afresh (R152). -/
structure RangesMid (s : State) : Prop where
  params  : ParamsOk s.params
  loaded  : ∀ x ∈ s.pos.map.toList, stationOk x = true
  force   : ∀ m, s.pos.inForce = some m → ∀ x ∈ m.toList, stationOk x = true
  speed   : s.params.vnom ≤ s.pos.vref ∧ s.pos.vref ≤ s.params.vmax
  spacing : s.reg.s ≤ 1023
  debt    : DebtOk s

theorem RangesOk.mid {s : State} (h : RangesOk s) : RangesMid s :=
  ⟨h.params, h.loaded, h.force, h.speed, h.spacing, h.debt⟩

theorem RangesMid.ok {s : State} (h : RangesMid s) (hg : s.reg.g = gapTarget s.params s.reg.s) : RangesOk s :=
  ⟨h.params, h.loaded, h.force, h.speed, h.spacing, hg, h.debt⟩

theorem RangesMid.of_core {s t : State} (h : RangesMid s) (hc : t.core = s.core) (hd : DebtOk t) : RangesMid t := by
  simp only [State.core, Prod.mk.injEq] at hc
  obtain ⟨_, hpos, hparams, hreg, _⟩ := hc
  exact ⟨hparams ▸ h.params, hpos ▸ h.loaded, hpos ▸ h.force, by rw [hpos, hparams]; exact h.speed, hreg ▸ h.spacing, hd⟩

theorem RangesOk.of_core {s t : State} (h : RangesOk s) (hc : t.core = s.core) (hd : DebtOk t) : RangesOk t := by
  refine (h.mid.of_core hc hd).ok ?_
  simp only [State.core, Prod.mk.injEq] at hc
  obtain ⟨_, _, hparams, hreg, _⟩ := hc
  rw [hparams, hreg]; exact h.target

/-- What leaves the core and the spur's books alone keeps the ranges. -/
theorem RangesOk.of_books {s t : State} (h : RangesOk s) (hc : t.core = s.core) (hb : t.spurBook = s.spurBook) :
    RangesOk t := h.of_core hc (DebtOk.of_book h.debt hb)

/-- What changes none of the parameters, the maps, the reference speed, the regulator and the debt. -/
theorem RangesOk.of_fields {s t : State} (h : RangesOk s) (hp : t.params = s.params) (hm : t.pos.map = s.pos.map)
    (hf : t.pos.inForce = s.pos.inForce) (hv : t.pos.vref = s.pos.vref) (hr : t.reg = s.reg) (hd : t.mrg.debt = s.mrg.debt) :
    RangesOk t :=
  ⟨hp ▸ h.params, hm ▸ h.loaded, hf ▸ h.force, by rw [hp, hv]; exact h.speed, hr ▸ h.spacing, by rw [hr, hp]; exact h.target,
    by rw [hd]; exact h.debt⟩

/-- Computing G afresh restores its place among the ranges (R152). -/
theorem ranges_recomputeGap {s : State} (h : RangesMid s) : RangesOk (recomputeGap s) := by
  have hc := recomputeGap_core s
  simp only [State.core, Prod.mk.injEq] at hc
  obtain ⟨_, hpos, hparams, hreg, _⟩ := hc
  have hd : DebtOk (recomputeGap s) := h.debt.of_book (spurBook_recomputeGap s)
  refine RangesMid.ok ⟨hparams ▸ h.params, hpos ▸ h.loaded, hpos ▸ h.force, ?_, ?_, hd⟩ ?_
  · rw [hpos, hparams]; exact h.speed
  · rw [hreg]; exact h.spacing
  · rw [hreg, hparams]

/-! ## Points, timers and frames -/

theorem clampS_le (x : Int) : clampS x ≤ 1023 := by
  unfold clampS; omega

theorem ranges_sampleDue {s : State} (h : RangesOk s) : RangesOk (sampleDue s) := by
  unfold sampleDue whenDue
  split
  · refine ranges_recomputeGap ⟨h.params, h.loaded, h.force, h.speed, ?_, h.debt⟩
    simp only [State.setReg_fields]
    split
    · exact clampS_le _
    · exact h.spacing
  · exact h

theorem ranges_takePoint (p : Instr) {s : State} (h : RangesOk s) : RangesOk (takePoint p s) := by
  by_cases hp : p = .samplePoint
  · subst hp; exact ranges_sampleDue h
  · exact h.of_core (core_takePoint hp s) (debtOk_takePoint p h.debt)

theorem ranges_drain (n : Nat) {s : State} (h : RangesOk s) : RangesOk (drain n s) := by
  induction n generalizing s with
  | zero => exact h
  | succ n ih =>
    unfold drain
    split
    · exact ih (ranges_takePoint _ h)
    · exact h

theorem ranges_takeReached {s : State} (h : RangesOk s) : RangesOk (takeReached s) := by
  unfold takeReached
  split
  · exact ranges_drain _ h
  · exact h

theorem spurBook_timerAct {i : Instr} {act : State → State} (ha : timerAct i = some act) (s : State) :
    (act s).spurBook = s.spurBook := by
  cases i <;> cases ha
  case feedbackTimerExpiry.refl => unfold feedbackExpiry; repeat' split
                                   all_goals simp
  case stallTimerExpiry.refl => unfold stallExpiry; split <;> simp
  case idleTimerExpiry.refl => unfold idleExpiry; split <;> simp
  case parkTimerExpiry.refl => unfold parkExpiry; dsimp only; repeat' split
                               all_goals simp
  case wakeWaitExpiry.refl => unfold wakeExpiry; split <;> simp
  case linkTimerExpiry.refl => unfold linkExpiry; split <;> simp

theorem ranges_timerAct {i : Instr} {act : State → State} (ha : timerAct i = some act) {s : State} (h : RangesOk s) :
    RangesOk (act s) := by
  by_cases hl : i = .linkTimerExpiry
  · subst hl; cases ha
    obtain ⟨_, _, _, he⟩ := linkExpiry_rest s
    rw [he]; exact h.of_fields rfl rfl rfl rfl rfl rfl
  · exact h.of_books (core_timerAct ha hl s) (spurBook_timerAct ha s)

theorem ranges_frame {src : Nat} {f : FrameKind} (i : Instr) {s : State} (h : RangesOk s) :
    RangesOk (stationFrame src f (frameAct i) s) := by
  refine h.of_core (core_stationFrame _ _ _ _ fun x k p => core_frameAct i x k p s) ?_
  unfold stationFrame
  repeat' split
  · exact debtOk_frameAct i _ _ _ h.debt
  · exact h.debt
  · exact h.debt
  · exact h.debt

/-! ## Parameters and records -/

/-- A value in its range leaves the parameters in theirs (R11, R204). -/
theorem paramsOk_put {p : Params} {i v : Nat} (h : ParamsOk p) (hv : paramOk p i v = true) : ParamsOk (p.put i v) := by
  obtain ⟨loop, window, speeds, gaps, target, gain, sample, accrual, lead, confirm, jam, limits, stall, idle, park, wake,
    link, mgmt⟩ := h
  unfold paramOk at hv
  split at hv <;> simp at hv
  all_goals constructor
  all_goals simp only [Params.put]
  all_goals first | assumption | omega

/-- The parameters that bound Vref and G are written by their own numbers only. -/
theorem put_bounds {i : Nat} (h : i ∉ [2, 3, 4, 5]) (p : Params) (v : Nat) : (p.put i v).vnom = p.vnom ∧
    (p.put i v).vmax = p.vmax ∧ (p.put i v).gmin = p.gmin ∧ (p.put i v).gmax = p.gmax := by
  unfold Params.put
  split <;> simp_all

/-- A parameter that bounds neither Vref nor G leaves the ranges as they are. -/
theorem ranges_put {i v : Nat} {s : State} (h : RangesOk s) (hv : paramOk s.params i v = true) (hi : i ∉ [2, 3, 4, 5]) :
    RangesOk (s.setParams (s.params.put i v)) := by
  obtain ⟨hvnom, hvmax, hgmin, hgmax⟩ := put_bounds hi s.params v
  refine ⟨paramsOk_put h.params hv, h.loaded, h.force, ?_, h.spacing, ?_, h.debt⟩
  · show (s.params.put i v).vnom ≤ s.pos.vref ∧ s.pos.vref ≤ (s.params.put i v).vmax
    rw [hvnom, hvmax]; exact h.speed
  · show s.reg.g = min ((s.params.put i v).gmin + s.reg.s / 4) (s.params.put i v).gmax
    rw [hgmin, hgmax]; exact h.target

/-- Vnom and Vmax bring Vref between them (R6). -/
theorem vrefOf_within {p : Params} (h : ParamsOk p) (v : Nat) : p.vnom ≤ vrefOf p v ∧ vrefOf p v ≤ p.vmax := by
  have := h.speeds
  unfold vrefOf
  omega

/-- What each parameter's effect does to the ranges: Vnom and Vmax bring Vref along, Gmin and Gmax bring G along (R6, R152). -/
theorem ranges_paramEffect {i v : Nat} {s : State} (h : RangesOk s) (hv : paramOk s.params i v = true) :
    RangesOk (paramEffect i v (s.setParams (s.params.put i v))) := by
  have hp := paramsOk_put h.params hv
  unfold paramEffect
  split
  · exact ⟨hp, h.loaded, h.force, vrefOf_within hp _, h.spacing, h.target, h.debt⟩
  · exact ⟨hp, h.loaded, h.force, vrefOf_within hp _, h.spacing, h.target, h.debt⟩
  · exact ranges_recomputeGap ⟨hp, h.loaded, h.force, h.speed, h.spacing, h.debt⟩
  · exact ranges_recomputeGap ⟨hp, h.loaded, h.force, h.speed, h.spacing, h.debt⟩
  · rw [moveInterval_eq]
    exact (ranges_put h hv (by decide)).of_fields rfl rfl rfl rfl rfl rfl
  · exact (ranges_put h hv (by decide)).of_books (core_runIdle _) (spurBook_runIdle _)
  · rw [loadParkLimit_eq]
    exact (ranges_put h hv (by decide)).of_fields rfl rfl rfl rfl rfl rfl
  · exact (ranges_put h hv (by decide)).of_fields rfl rfl rfl rfl rfl rfl
  · next h2 h3 h4 h5 _ _ _ _ => exact ranges_put h hv (by simp; tauto)

theorem ranges_setCmd {s : State} {x : Cmd} (h : RangesOk s) : RangesOk (s.setCmd x) := h.of_fields rfl rfl rfl rfl rfl rfl

theorem ranges_loadRecord {bs : List Byte} {s : State} (h : RangesOk s) : RangesOk (loadRecord bs s).2 := by
  have hstation : ∀ i, RangesOk (loadStation i bs s).2 := by
    intro i
    unfold loadStation
    split
    · split
      · next hx => exact ⟨h.params, vset_forall h.loaded hx i, h.force, h.speed, h.spacing, h.target, h.debt⟩
      · exact h
    · exact h
  have hlane : ∀ i, RangesOk (loadLane i bs s).2 := by
    intro i
    unfold loadLane
    repeat' split
    · exact h.of_books (core_laneUpdate _ _ _) (spurBook_laneUpdate _ _ _)
    · exact h
    · exact h
  have hparam : ∀ i, RangesOk (loadParam i bs s).2 := by
    intro i
    unfold loadParam
    dsimp only
    repeat' split
    · exact h
    · next hv => exact ranges_paramEffect h hv
    · exact h
  unfold loadRecord
  dsimp only
  split
  · refine ranges_setCmd ?_
    split
    · exact hstation _
    · exact hlane _
    · exact hparam _
  · exact h

theorem ranges_loadRecords {rs : List (List Byte)} {n : Nat} {s : State} (h : RangesOk s) :
    RangesOk (loadRecords rs n s).2.2 := by
  induction rs generalizing n s with
  | nil => exact h
  | cons r rs ih =>
    have h1 := ranges_loadRecord (bs := r) h
    unfold loadRecords
    split
    · next he => rw [he] at h1; exact ih h1
    · next he => rw [he] at h1; exact h1

theorem ranges_cmdPutRecords {bs : List Byte} {s : State} (h : RangesOk s) : RangesOk (cmdPutRecords bs s).1 := by
  unfold cmdPutRecords refuse
  dsimp only
  repeat' split
  all_goals first | exact h | exact ranges_loadRecords h

/-! ## The commands that leave the core and the spur's books alone -/

@[simp] theorem core_leaveFault (c : StateCause) (s : State) : (leaveFault c s).core = s.core := by simp [leaveFault]
@[simp] theorem spurBook_leaveFault (c : StateCause) (s : State) : (leaveFault c s).spurBook = s.spurBook := by
  simp [leaveFault]
@[simp] theorem core_tellInd (t : Nat) (s : State) : (tellInd t s).core = s.core := by
  unfold tellInd; repeat' split
  all_goals simp
@[simp] theorem spurBook_tellInd (t : Nat) (s : State) : (tellInd t s).spurBook = s.spurBook := by
  unfold tellInd; repeat' split
  all_goals simp
@[simp] theorem core_amend (r : Rec) (old e : Entry) (s : State) : (amend r old e s).1.core = s.core := by
  unfold amend; dsimp only; split <;> simp
@[simp] theorem spurBook_amend (r : Rec) (old e : Entry) (s : State) : (amend r old e s).1.spurBook = s.spurBook := by
  unfold amend; dsimp only; split <;> simp

theorem ranges_cmdPark {s : State} (h : RangesOk s) : RangesOk (cmdPark s).1 := by
  unfold cmdPark refuse; dsimp only; repeat' split
  all_goals exact h.of_books (by simp) (by simp)
theorem ranges_cmdResume {s : State} (h : RangesOk s) : RangesOk (cmdResume s).1 := by
  unfold cmdResume refuse; dsimp only; repeat' split
  all_goals exact h.of_books (by simp) (by simp)
theorem ranges_cmdDark {s : State} (h : RangesOk s) : RangesOk (cmdDark s).1 := by
  unfold cmdDark refuse; dsimp only; repeat' split
  all_goals exact h.of_books (by simp) (by simp)
theorem ranges_cmdOrderPut {t : Nat} {ref : Ref} {l p k hd : Nat} {s : State} (h : RangesOk s) :
    RangesOk (cmdOrderPut t ref l p k hd s).1 := by
  unfold cmdOrderPut refuse; dsimp only; repeat' split
  all_goals exact h.of_books (by simp) (by simp)
theorem ranges_cmdOrderCancel {t : Nat} {s : State} (h : RangesOk s) : RangesOk (cmdOrderCancel t s).1 := by
  unfold cmdOrderCancel refuse; dsimp only; repeat' split
  all_goals exact h.of_books (by simp) (by simp)
theorem ranges_cmdLaneOpen {n : Nat} {s : State} (h : RangesOk s) : RangesOk (cmdLaneOpen n s).1 := by
  unfold cmdLaneOpen refuse recoverGate; dsimp only; repeat' split
  all_goals exact h.of_books (by simp) (by simp)
theorem ranges_cmdLaneClose {n : Nat} {s : State} (h : RangesOk s) : RangesOk (cmdLaneClose n s).1 := by
  unfold cmdLaneClose refuse; dsimp only; split
  all_goals exact h.of_books (by simp) (by simp)
theorem ranges_cmdLaneClear {n : Nat} {s : State} (h : RangesOk s) : RangesOk (cmdLaneClear n s).1 := by
  unfold cmdLaneClear refuse; dsimp only; split
  all_goals exact h.of_books (by simp) (by simp)
theorem ranges_cmdInductSkip {s : State} (h : RangesOk s) : RangesOk (cmdInductSkip s).1 := by
  unfold cmdInductSkip refuse; dsimp only; repeat' split
  all_goals exact h.of_books (by simp) (by simp)

/-! ## The other commands -/

theorem ranges_zeroTally {s : State} (h : RangesOk s) : RangesOk (zeroTally s) := h.of_fields rfl rfl rfl rfl rfl rfl

theorem ranges_cmdClearFault {s : State} (h : RangesOk s) : RangesOk (cmdClearFault s).1 := by
  unfold cmdClearFault refuse
  split
  · exact h
  · exact (ranges_zeroTally h).of_books (core_leaveFault _ _) (spurBook_leaveFault _ _)

theorem ranges_cmdRegulate {m v : Nat} {s : State} (h : RangesOk s) : RangesOk (cmdRegulate m v s).1 := by
  unfold cmdRegulate refuse
  split
  · next mode _ =>
    split
    · next hok =>
      refine ranges_recomputeGap ⟨h.params, h.loaded, h.force, h.speed, ?_, h.debt⟩
      simp only [State.setReg_fields]
      split
      · next hm => simpa [regulateOk, hm] using hok
      · exact h.spacing
    · exact h
  · exact h

theorem ranges_clearCounters {g i : Nat} {s : State} (h : RangesOk s) : RangesOk (clearCounters g i s) := by
  unfold clearCounters
  split <;> exact h.of_fields rfl rfl rfl rfl rfl rfl

theorem ranges_cmdQueryCounters {g i c : Nat} {s : State} (h : RangesOk s) : RangesOk (cmdQueryCounters g i c s).1 := by
  unfold cmdQueryCounters refuse
  repeat' split
  · exact h
  · exact h
  · exact ranges_clearCounters h
  · exact h

/-! ### START -/

@[simp] theorem core_dropEntries (s : State) : (dropEntries s).core = s.core := by
  unfold dropEntries; dsimp only; rw [foldl_keeps State.core _ fun t e => core_notify _ t]; rfl
@[simp] theorem spurBook_dropEntries (s : State) : (dropEntries s).spurBook = s.spurBook := by
  unfold dropEntries; dsimp only; rw [foldl_keeps State.spurBook _ fun t e => spurBook_notify _ t]; rfl
theorem core_setControl (s : State) (q : List Ctl) : (s.setRng { s.rng with control := q }).core = s.core := rfl
@[simp] theorem core_pruneControl (s : State) : (pruneControl s).core = s.core := by
  unfold pruneControl; dsimp only; split <;> simp [core_setControl]
@[simp] theorem spurBook_pruneControl (s : State) : (pruneControl s).spurBook = s.spurBook := by
  unfold pruneControl; dsimp only; split <;> simp
@[simp] theorem core_emptyQueues (s : State) : (emptyQueues s).core = s.core := rfl
@[simp] theorem spurBook_emptyQueues (s : State) : (emptyQueues s).spurBook = s.spurBook := rfl
@[simp] theorem core_startGates (s : State) : (startGates s).core = s.core :=
  foldl_keeps State.core _ (fun t g => by unfold startGate; split <;> simp) _ s
@[simp] theorem spurBook_startGates (s : State) : (startGates s).spurBook = s.spurBook :=
  foldl_keeps State.spurBook _ (fun t g => by unfold startGate; split <;> simp) _ s
@[simp] theorem core_startLanes (s : State) : (startLanes s).core = s.core := by
  unfold startLanes; rw [core_sendLamps]; exact foldl_keeps State.core _ (fun t n => core_laneUpdate n _ t) _ s
@[simp] theorem spurBook_startLanes (s : State) : (startLanes s).spurBook = s.spurBook := by
  unfold startLanes; rw [spurBook_sendLamps]; exact foldl_keeps State.spurBook _ (fun t n => spurBook_laneUpdate n _ t) _ s
@[simp] theorem core_initEyes (s : State) : (initEyes s).core = s.core := by
  unfold initEyes; split <;> rfl
@[simp] theorem spurBook_initEyes (s : State) : (initEyes s).spurBook = s.spurBook := by
  unfold initEyes; split <;> rfl
@[simp] theorem core_startEyes (s : State) : (startEyes s).core = s.core := by
  unfold startEyes; dsimp only; split <;> simp
@[simp] theorem spurBook_startEyes (s : State) : (startEyes s).spurBook = s.spurBook := by
  unfold startEyes; dsimp only; split <;> simp
@[simp] theorem core_accrueIfReady (s : State) : (accrueIfReady s).core = s.core := by
  unfold accrueIfReady; split <;> simp

/-- The state in which the map loaded is in force, before the blocks' start actions (R14). -/
def State.mapped (s : State) : State := s.setPos { s.pos with inForce := some s.pos.map }

theorem core_startBlocks (s : State) : (startBlocks s).core = s.mapped.core := by
  simp [startBlocks, State.mapped]

theorem debtOk_startBlocks {s : State} (h : DebtOk s) : DebtOk (startBlocks s) := by
  have hb : ∀ u : State, (sendLamps (wakeEyes (broadcastWake u))).spurBook = u.spurBook := fun u => by simp
  refine DebtOk.of_book (debtOk_accrueIfReady ?_) (hb _)
  exact h.of_book (by simp)

theorem ranges_cmdStart {s : State} (h : RangesOk s) : RangesOk (cmdStart s).1 := by
  have hm : RangesOk s.mapped := by
    refine ⟨h.params, h.loaded, ?_, h.speed, h.spacing, h.target, h.debt⟩
    rintro m hm
    cases hm; exact h.loaded
  have hs : RangesOk (startBlocks s) := hm.of_core (core_startBlocks s) (debtOk_startBlocks h.debt)
  unfold cmdStart refuse
  dsimp only
  repeat' split
  · exact h
  · exact h
  · exact h
  · exact hs.of_books (by simp) (by simp)

/-! ### TO CONFIG and RESET TRACK -/

theorem debtOk_configMrg (s : State) : DebtOk (configMrg s) := by
  have h0 : ∀ u : State, u.mrg.debt = 0 → DebtOk u := fun u hu => by unfold DebtOk; rw [hu]; decide
  unfold configMrg
  refine DebtOk.of_book ?_ (spurBook_mrgLook _)
  split
  · exact (h0 _ rfl).of_book (spurBook_removeHole _)
  · exact h0 _ rfl

theorem ranges_configMrg {s : State} (h : RangesOk s) : RangesOk (configMrg s) := by
  refine h.of_core ?_ (debtOk_configMrg s)
  unfold configMrg; dsimp only; split <;> simp

theorem ranges_configInd {s : State} (h : RangesOk s) : RangesOk (configInd s) :=
  h.of_books (by simp [configInd]) (by simp [configInd])

theorem ranges_wakeForConfig {s : State} (h : RangesOk s) : RangesOk (wakeForConfig s) := by
  unfold wakeForConfig
  split
  · exact h.of_books (by simp) (by simp)
  · exact h

theorem ranges_initEyes {s : State} (h : RangesOk s) : RangesOk (initEyes s) :=
  h.of_books (core_initEyes s) (spurBook_initEyes s)

theorem ranges_enterState {n : RunState} {rl : Option Rule} {c : StateCause} {s : State} (h : RangesOk s) :
    RangesOk (enterState n rl c s) := h.of_books (core_enterState n rl c s) (spurBook_enterState n rl c s)

theorem ranges_setRun {s : State} {x : Run} (h : RangesOk s) : RangesOk (s.setRun x) := h.of_fields rfl rfl rfl rfl rfl rfl

theorem ranges_cmdToConfig {s : State} (h : RangesOk s) : RangesOk (cmdToConfig s).1 := by
  unfold cmdToConfig refuse
  dsimp only
  repeat' split
  · exact h
  · exact h
  · exact ranges_configMrg (ranges_configInd (ranges_initEyes (ranges_enterState (ranges_setRun (ranges_wakeForConfig h)))))

theorem core_trackTrk (s : State) : (trackTrk s).core = s.core := by
  unfold trackTrk; dsimp only; rw [core_setTrk]
  exact foldl_keeps State.core _ (fun t r => core_settleEntry r _ t) _ s

theorem core_trackGates (s : State) : (trackGates s).core = s.core :=
  foldl_keeps State.core _ (fun t g => by unfold trackGate; repeat' split
                                          all_goals simp) _ s

theorem core_trackSlots (s : State) : (trackSlots s).core = s.core := by
  unfold trackSlots; dsimp only; split <;> simp

theorem debtOk_trackSlots (s : State) : DebtOk (trackSlots s) := by
  have h0 : ∀ u : State, u.mrg.debt = 0 → DebtOk u := fun u hu => by unfold DebtOk; rw [hu]; decide
  unfold trackSlots
  dsimp only
  split
  · exact h0 _ rfl
  · exact debtOk_accrueIfReady (h0 _ rfl)

theorem core_trackLanes (s : State) : (trackLanes s).core = s.core := rfl
theorem core_trackEyes (s : State) : (trackEyes s).core = s.core := rfl

/-- Before REG starts afresh a tracking reset leaves the core as it was (R188). -/
theorem core_trackUnits (s : State) :
    (listChange (trackSlots (trackEyes (trackLanes (trackGates (emptyQueues (trackTrk s))))))).core = s.core := by
  rw [core_listChange, core_trackSlots, core_trackEyes, core_trackLanes, core_trackGates, core_emptyQueues, core_trackTrk]

theorem ranges_trackReg {s : State} (h : RangesOk s) : RangesOk (trackReg s) :=
  ranges_recomputeGap ⟨h.params, h.loaded, h.force, h.speed, Nat.zero_le _, h.debt⟩

theorem ranges_trackRun {s : State} (h : RangesOk s) : RangesOk (trackRun s) := by
  unfold trackRun
  dsimp only
  split
  · exact h.of_books (by simp) (by simp)
  · exact ranges_setRun h

theorem ranges_trackReset {s : State} (h : RangesOk s) : RangesOk (trackReset s) := by
  have hu : RangesOk (listChange (trackSlots (trackEyes (trackLanes (trackGates (emptyQueues (trackTrk s))))))) :=
    h.of_core (core_trackUnits s) ((debtOk_trackSlots _).of_book (spurBook_listChange _))
  exact ranges_trackRun (ranges_trackReg (ranges_zeroTally hu))

theorem ranges_cmdResetTrack {s : State} (h : RangesOk s) : RangesOk (cmdResetTrack s).1 := by
  unfold cmdResetTrack refuse
  dsimp only
  repeat' split
  all_goals first | exact h | exact ranges_trackReset h

/-! ## Every command, every row, every step -/

/-- The body of every command keeps the ranges. -/
theorem ranges_order {i : Instr} {c : Order} (hc : orderOf i = some c) {s : State} (h : RangesOk s) :
    RangesOk (c.body s).1 := by
  by_cases ha : asksOnly i = true
  · obtain ⟨x, hx⟩ := asksOnly_body hc ha s
    rw [hx]; exact ranges_setCmd h
  · cases i <;> cases hc <;> try exact absurd rfl ha
    case putRecords.refl => exact ranges_cmdPutRecords h
    case start.refl => exact ranges_cmdStart h
    case park.refl => exact ranges_cmdPark h
    case resume.refl => exact ranges_cmdResume h
    case dark.refl => exact ranges_cmdDark h
    case clearFault.refl => exact ranges_cmdClearFault h
    case toConfig.refl => exact ranges_cmdToConfig h
    case resetTrack.refl => exact ranges_cmdResetTrack h
    case orderPut.refl => exact ranges_cmdOrderPut h
    case orderCancel.refl => exact ranges_cmdOrderCancel h
    case laneSetOpen.refl => exact ranges_cmdLaneOpen h
    case laneSetClose.refl => exact ranges_cmdLaneClose h
    case laneClear.refl => exact ranges_cmdLaneClear h
    case regulate.refl => exact ranges_cmdRegulate h
    case inductSkip.refl => exact ranges_cmdInductSkip h
    case noticeMask.refl => exact h.of_fields rfl rfl rfl rfl rfl rfl
    case queryCounters.refl => exact ranges_cmdQueryCounters h

theorem ranges_answer {op : Nat} {tag : Byte} {resets : Bool} {body : State → Executed} {s : State} (h : RangesOk s)
    (hb : RangesOk (body s).1) : RangesOk (answer op tag resets body s) :=
  answer_holds (fun _ _ ht => ht.of_fields rfl rfl rfl rfl rfl rfl) (fun _ ht => ht.of_fields rfl rfl rfl rfl rfl rfl)
    (fun _ => ranges_takeReached) h hb

/-- A COMMAND frame executes what a row executes, or is refused for its form (section 10.7). -/
theorem executeOp_cases (op : Nat) (a : List Byte) (s : State) :
    (executeOp op a s).1 = s ∨ ∃ i c, orderOf i = some c ∧ executeOp op a s = c.body s := by
  unfold executeOp
  repeat' split
  · exact .inl rfl
  · exact .inr ⟨.heartbeat 0, _, rfl, rfl⟩
  · exact .inr ⟨.setPointer 0 _ _, _, rfl, rfl⟩
  · exact .inr ⟨.putRecords 0 _, _, rfl, rfl⟩
  · exact .inr ⟨.start 0, _, rfl, rfl⟩
  · exact .inr ⟨.park 0, _, rfl, rfl⟩
  · exact .inr ⟨.resume 0, _, rfl, rfl⟩
  · exact .inr ⟨.dark 0, _, rfl, rfl⟩
  · exact .inr ⟨.clearFault 0, _, rfl, rfl⟩
  · exact .inr ⟨.toConfig 0, _, rfl, rfl⟩
  · exact .inr ⟨.resetTrack 0, _, rfl, rfl⟩
  · exact .inr ⟨.resetDevice 0, _, rfl, rfl⟩
  · exact .inl rfl
  · exact .inr ⟨.orderPut 0 _ _ _ _ _ _, _, rfl, rfl⟩
  · exact .inr ⟨.orderCancel 0 _, _, rfl, rfl⟩
  · exact .inr ⟨.orderQuery 0 _, _, rfl, rfl⟩
  · exact .inr ⟨.laneSetOpen 0 _, _, rfl, rfl⟩
  · exact .inr ⟨.laneSetClose 0 _, _, rfl, rfl⟩
  · exact .inl rfl
  · exact .inr ⟨.laneClear 0 _, _, rfl, rfl⟩
  · exact .inr ⟨.regulate 0 _ _, _, rfl, rfl⟩
  · exact .inr ⟨.inductSkip 0, _, rfl, rfl⟩
  · exact .inr ⟨.noticeMask 0 _, _, rfl, rfl⟩
  · exact .inr ⟨.queryStatus 0, _, rfl, rfl⟩
  · exact .inr ⟨.queryLane 0 _, _, rfl, rfl⟩
  · exact .inr ⟨.queryTote 0 _, _, rfl, rfl⟩
  · exact .inr ⟨.queryCounters 0 _ _ _, _, rfl, rfl⟩
  · exact .inl rfl

theorem ranges_takeCommand {p : List Byte} {s : State} (h : RangesOk s) : RangesOk (takeCommand p s) := by
  unfold takeCommand
  refine ranges_answer h ?_
  obtain he | ⟨i, c, hc, he⟩ := executeOp_cases (byteAt p 0) (p.drop 2) s
  · rw [he]; exact h
  · rw [he]; exact ranges_order hc h

theorem ranges_setRng {s : State} {x : Rng} (h : RangesOk s) : RangesOk (s.setRng x) := h.of_fields rfl rfl rfl rfl rfl rfl

theorem ranges_consume {x : Frame} {s : State} (h : RangesOk s) : RangesOk (consume x s) := by
  unfold consume
  split
  · obtain ⟨i, f, he⟩ := takeStation_eq x s
    rw [he]; exact ranges_frame i h
  · split
    · split
      · exact ranges_takeCommand h
      · exact ranges_setRng h
    · split
      · exact ranges_setRng h
      · exact h

theorem ranges_forwardCopy {x : Frame} {s : State} (h : RangesOk s) : RangesOk (forwardCopy x s) := by
  unfold forwardCopy
  split <;> exact ranges_setRng h

theorem ranges_route {x : Frame} {s : State} (h : RangesOk s) : RangesOk (route x s) := by
  unfold route
  repeat' split
  · exact h
  · exact ranges_setRng h
  · exact ranges_consume h
  · exact ranges_forwardCopy (ranges_consume h)
  · exact ranges_forwardCopy h

theorem ranges_receive {missing : Bool} {bs : List Byte} {s : State} (h : RangesOk s) : RangesOk (receive missing bs s) := by
  unfold receive
  split
  · split
    · exact ranges_setRng h
    · split
      · obtain ⟨_, _, _, he⟩ := linkReport_rest s
        refine ranges_route (ranges_takeReached ?_)
        rw [he]; exact h.of_fields rfl rfl rfl rfl rfl rfl
      · exact ranges_route h
  · exact h

theorem ranges_beginSending {x : Frame} {k : SentAs} {s : State} (h : RangesOk s) : RangesOk (beginSending x k s) :=
  ranges_setRng h

theorem ranges_sendForward {s t : State} (h : RangesOk s) (ht : sendForward s = some t) : RangesOk t := by
  unfold sendForward at ht
  split at ht <;> cases ht
  exact ranges_beginSending (ranges_setRng h)

theorem ranges_sendOwn {s t : State} (h : RangesOk s) (ht : sendOwn s = some t) : RangesOk t := by
  unfold sendOwn at ht
  split at ht <;> cases ht
  · exact ranges_beginSending (ranges_setRng h)
  · exact ranges_beginSending (ranges_setRng h)
  · refine ranges_beginSending ?_
    unfold examineOverflow
    split <;> exact h.of_fields rfl rfl rfl rfl rfl rfl

theorem ranges_transmit {s : State} (h : RangesOk s) : RangesOk (transmit s) := by
  unfold transmit
  split
  · split
    · exact choice_holds h (fun _ => ranges_sendForward h) (fun _ => ranges_sendOwn h)
    · exact choice_holds h (fun _ => ranges_sendOwn h) (fun _ => ranges_sendForward h)
  · exact h

/-- The values after power-on are in their ranges. -/
theorem ranges_powerOn (s : State) : RangesOk (powerOn s) := by
  have hmap : ∀ x ∈ State.reset.pos.map.toList, stationOk x = true := by decide
  have hp : ParamsOk State.reset.params := by constructor <;> decide
  have hr : RangesOk State.reset :=
    ⟨hp, hmap, fun _ hm => (by cases hm), ⟨by decide, by decide⟩, by decide, by decide, ⟨by decide, by decide⟩⟩
  exact hr.of_fields rfl rfl rfl rfl rfl rfl

theorem ranges_finishSending {s : State} (h : RangesOk s) : RangesOk (finishSending s) := by
  unfold finishSending
  split
  · exact h
  · dsimp only
    split
    · exact h.of_fields rfl rfl rfl rfl rfl rfl
    · exact ranges_powerOn _
    · exact ranges_setRng h

theorem ranges_countForward {s : State} (h : RangesOk s) : RangesOk (countForward s) := by
  unfold countForward advance
  dsimp only
  rw [beltMoves_eq]
  repeat' split
  all_goals exact h.of_fields rfl rfl rfl rfl rfl rfl

theorem ranges_reverse {s : State} (h : RangesOk s) : RangesOk (reverse s) := by
  unfold reverse
  dsimp only
  split
  · rw [beltMoves_eq]
    split
    · refine RangesOk.of_books ?_ (core_reportFault _ _ _) (spurBook_reportFault _ _ _)
      exact h.of_fields rfl rfl rfl rfl rfl rfl
    · exact h.of_fields rfl rfl rfl rfl rfl rfl
  · exact h

theorem ranges_windowEnd {s : State} (h : RangesOk s) : RangesOk (windowEnd s) := by
  have hw : RangesOk (s.setPos { s.pos with
      v := min (4 * s.pos.winCount) 1000, winCount := 0, vref := vrefOf s.params (min (4 * s.pos.winCount) 1000)
      overspd := decide (overspeedLimit s.params < min (4 * s.pos.winCount) 1000) }) :=
    ⟨h.params, h.loaded, h.force, vrefOf_within h.params _, h.spacing, h.target, h.debt⟩
  unfold windowEnd
  dsimp only
  split
  · split
    · exact hw.of_books (core_notify _ _) (spurBook_notify _ _)
    · exact hw
  · exact h

theorem ranges_inputAct {i : Instr} {act : State → State} (ha : inputAct i = some act) {s : State} (h : RangesOk s) :
    RangesOk (act s) := by
  cases i <;> cases ha
  case forwardCount.refl => exact ranges_countForward h
  case reverseCount.refl => exact ranges_reverse h
  case speedWindowEnd.refl => exact ranges_windowEnd h
  case ringFrame.refl => exact ranges_receive h
  case transmitStart.refl => exact ranges_transmit h
  case transmitEnd.refl => exact ranges_finishSending h

theorem ranges_exec {i : Instr} {s t : State} (h : RangesOk s) (ht : exec i s = .next t) : RangesOk t := by
  obtain hb | hf | ⟨c, rfl⟩ | ⟨c, p, rfl⟩ | rfl | rfl := row_cases i
  · rw [exec_beltPoint hb] at ht
    cases ht
    exact ranges_takePoint i h
  · have hr := ranges_takeReached h
    obtain ⟨c, hc⟩ | ⟨src, f, hf⟩ | ⟨act, ha⟩ | ⟨act, ha⟩ := takesFirst_cases hf
    · rw [exec_order hc] at ht; cases ht; exact ranges_answer hr (ranges_order hc hr)
    · rw [exec_frame hf] at ht; cases ht; exact ranges_frame i hr
    · rw [exec_timer ha] at ht; cases ht; exact ranges_timerAct ha hr
    · rw [exec_input ha] at ht; cases ht; exact ranges_inputAct ha hr
  · cases ht; exact ranges_powerOn _
  · cases ht
    obtain ⟨_, _, he⟩ := endReset_rest c p s
    rw [he]; exact h.of_fields rfl rfl rfl rfl rfl rfl
  · cases ht
    unfold startPort
    split
    · exact ranges_setRng h
    · exact h
  · cases ht
    unfold illegal
    split
    · exact h.of_fields rfl rfl rfl rfl rfl rfl
    · exact h

/-- Settles O5: every row and the idle step keep the ranges. -/
theorem everyStepKeepsTheRanges : Obligations.EveryStepKeepsTheRanges := by
  intro s t h ht
  rcases hq : s.pending with _ | ⟨i, is⟩
  · rw [step_empty hq] at ht
    rcases hn : nextDue s with _ | p
    · rw [idle_of_none hn] at ht; cases ht; exact h
    · rw [idle_of_due hn] at ht; cases ht; exact ranges_takePoint p h
  · rw [step_front hq] at ht
    have hp : RangesOk (s.setPending is) := h.of_fields rfl rfl rfl rfl rfl rfl
    exact ranges_exec hp ht

end Sys2Proof.Machine
end

section
/-! PROOFS. The thirteen checks of the map, and the check of the gaps (O55, R12, R13). -/

namespace Sys2Proof.Machine

/-! ## The used records, by their indices -/

/-- An index holds a used record. -/
def usedAt (m : StationMap) (i : Nat) : Bool := (recAt m i).kind ≠ .unused

/-- The used records below an index, with their indices. -/
def usedBelow (m : StationMap) (n : Nat) : List (Station × Nat) :=
  ((List.range n).filter (usedAt m)).map fun i => (recAt m i, i)

theorem stationsOf_eq (m : StationMap) : stationsOf m = (List.range 28).map fun i => (recAt m i, i) := by
  refine List.ext_getElem (by simp [stationsOf, Config.stations]) fun i h _ => ?_
  have hi : i < 28 := by simpa [stationsOf, Config.stations] using h
  simp [stationsOf, recAt, vget, Config.stations, hi]

theorem usedOf_eq (m : StationMap) : usedOf m = usedBelow m 28 := by
  simp only [usedOf, stationsOf_eq, List.filter_map, usedBelow]
  rfl

theorem lt_of_usedAt {m : StationMap} {i : Nat} (h : usedAt m i = true) : i < 28 := by
  by_contra hi
  have hempty : recAt m i = Station.empty := by
    rw [recAt, vget, List.getD_eq_default]
    simpa [Config.stations] using hi
  simp [usedAt, hempty, Station.empty] at h

theorem usedBelow_succ (m : StationMap) (n : Nat) :
    usedBelow m (n + 1) = usedBelow m n ++ if usedAt m n then [(recAt m n, n)] else [] := by
  cases h : usedAt m n <;> simp [usedBelow, List.range_succ, h]

theorem mem_usedBelow {m : StationMap} {n : Nat} {x : Station × Nat} :
    x ∈ usedBelow m n ↔ x.2 < n ∧ (recAt m x.2).kind ≠ .unused ∧ x.1 = recAt m x.2 := by
  obtain ⟨y, i⟩ := x
  simp only [usedBelow, List.mem_map, List.mem_filter, List.mem_range, Prod.mk.injEq, usedAt, decide_eq_true_eq]
  constructor
  · rintro ⟨_, ⟨hi, hu⟩, rfl, rfl⟩
    exact ⟨hi, hu, rfl⟩
  · rintro ⟨hi, hu, rfl⟩
    exact ⟨i, ⟨hi, hu⟩, rfl, rfl⟩

/-! ## The first index with a property -/

/-- The first index of the map with a used record that has a property. -/
def firstUsed (m : StationMap) (q : Nat → Bool) : Option Nat := (List.range 28).find? fun i => usedAt m i && q i

theorem firstUsed_iff {m : StationMap} {q : Nat → Bool} {P : Nat → Station → Prop}
    (h : ∀ i, usedAt m i = true → (q i = true ↔ P i (recAt m i))) (i : Nat) : firstUsed m q = some i ↔ Lowest m P i := by
  simp only [firstUsed, List.find?_range_eq_some, List.mem_range, Bool.and_eq_true, Bool.not_eq_true', Lowest]
  have used (j : Nat) : usedAt m j = true ↔ (recAt m j).kind ≠ .unused := by simp [usedAt]
  constructor
  · rintro ⟨⟨hu, hq⟩, hi, low⟩
    refine ⟨hi, (used i).mp hu, (h i hu).mp hq, fun j hj hju hP => ?_⟩
    have := low j hj
    simp [(used j).mpr hju, (h j ((used j).mpr hju)).mpr hP] at this
  · rintro ⟨hi, hu, hP, low⟩
    refine ⟨⟨(used i).mpr hu, (h i ((used i).mpr hu)).mpr hP⟩, hi, fun j hj => ?_⟩
    by_contra hj'
    simp only [Bool.not_eq_false, Bool.and_eq_true] at hj'
    exact low j hj ((used j).mp hj'.1) ((h j hj'.1).mp hj'.2)

theorem firstUsed_eq_none {m : StationMap} {q : Nat → Bool} {P : Station → Prop}
    (h : ∀ i, usedAt m i = true → (q i = true ↔ P (recAt m i))) (hu : ∀ x, P x → x.kind ≠ .unused) :
    firstUsed m q = none ↔ ∀ i < 28, ¬P (recAt m i) := by
  simp only [firstUsed, List.find?_eq_none, List.mem_range, Bool.and_eq_true, not_and]
  constructor
  · intro none i hi hP
    have hused : usedAt m i = true := by simpa [usedAt] using hu _ hP
    exact none i hi hused ((h i hused).mpr hP)
  · exact fun none i hi hused hq => none i hi ((h i hused).mp hq)

theorem firstWith_usedOf (m : StationMap) (p : Station → Bool) :
    firstWith (usedOf m) p = firstUsed m fun i => p (recAt m i) := by
  simp only [firstWith, usedOf_eq, usedBelow, List.find?_map, List.find?_filter, firstUsed, Option.map_map,
    Function.comp_def, Option.map_id', Bool.decide_and, Bool.decide_coe]

theorem firstWith_iff {m : StationMap} {p : Station → Bool} {P : Nat → Station → Prop}
    (h : ∀ i, p (recAt m i) = true ↔ P i (recAt m i)) (i : Nat) : firstWith (usedOf m) p = some i ↔ Lowest m P i := by
  rw [firstWith_usedOf]
  exact firstUsed_iff (fun j _ => h j) i

/-! ## A record at fault by itself, or with respect to those before it -/

/-- The index of the first record that is at fault by itself, or with respect to one before it. -/
def firstFault (own : Station → Bool) (clash : Station → Station → Bool) :
    List (Station × Nat) → List (Station × Nat) → Option Nat
  | _, [] => none
  | seen, x :: xs =>
      if own x.1 || seen.any (fun y => clash y.1 x.1) then some x.2 else firstFault own clash (seen ++ [x]) xs

theorem laterOf_eq (clash : Station → Station → Bool) (l seen : List (Station × Nat)) :
    laterOf clash seen l = firstFault (fun _ => false) clash seen l := by
  induction l generalizing seen with
  | nil => rfl
  | cons x xs ih => simp only [laterOf, firstFault, Bool.false_or, ih]

theorem addressFault_eq (mgmt : Nat) (l seen : List (Station × Nat)) :
    addressFault mgmt seen l = firstFault (ownAddressFault mgmt) sharesAddress seen l := by
  induction l generalizing seen with
  | nil => rfl
  | cons x xs ih => simp only [addressFault, firstFault, ih]

theorem firstFault_append (own : Station → Bool) (clash : Station → Station → Bool) (x : Station × Nat)
    (l seen : List (Station × Nat)) : firstFault own clash seen (l ++ [x]) =
      (firstFault own clash seen l).or
        (if own x.1 || (seen ++ l).any (fun y => clash y.1 x.1) then some x.2 else none) := by
  induction l generalizing seen with
  | nil => simp only [List.nil_append, firstFault, List.append_nil, Option.none_or]
  | cons y l ih =>
      simp only [List.cons_append, firstFault, ih, List.append_assoc]
      split <;> rfl

theorem firstFault_usedBelow (m : StationMap) (own : Station → Bool) (clash : Station → Station → Bool) (n : Nat) :
    firstFault own clash [] (usedBelow m n) = (List.range n).find? fun i =>
      usedAt m i && (own (recAt m i) || (usedBelow m i).any fun y => clash y.1 (recAt m i)) := by
  induction n with
  | zero => rfl
  | succ n ih =>
      rw [usedBelow_succ, List.range_succ, List.find?_append, ← ih]
      cases hu : usedAt m n with
      | false => simp [hu]
      | true =>
          simp only [if_true, firstFault_append, List.nil_append, List.find?_singleton, hu, Bool.true_and]

theorem firstFault_iff {m : StationMap} {own : Station → Bool} {clash : Station → Station → Bool}
    {P : Nat → Station → Prop} (h : ∀ i, P i (recAt m i) ↔ own (recAt m i) = true ∨
      ∃ j < i, (recAt m j).kind ≠ .unused ∧ clash (recAt m j) (recAt m i) = true) (i : Nat) :
    firstFault own clash [] (usedOf m) = some i ↔ Lowest m P i := by
  rw [usedOf_eq, firstFault_usedBelow]
  refine firstUsed_iff (q := fun i => own (recAt m i) || (usedBelow m i).any fun y => clash y.1 (recAt m i))
    (fun k _ => ?_) i
  rw [h, Bool.or_eq_true, List.any_eq_true]
  refine or_congr Iff.rfl ⟨?_, ?_⟩
  · rintro ⟨⟨x, j⟩, hx, hc⟩
    obtain ⟨hj, hu, hxj⟩ := mem_usedBelow.mp hx
    exact ⟨j, hj, hu, hxj ▸ hc⟩
  · rintro ⟨j, hj, hu, hc⟩
    exact ⟨(recAt m j, j), mem_usedBelow.mpr ⟨hj, hu, rfl⟩, hc⟩

/-! ## Counts of a kind -/

theorem countP_range_lt {q : Nat → Bool} {i n : Nat} (hi : i < n) (hq : q i = true) :
    (List.range i).countP q < (List.range n).countP q := by
  have hle : (List.range (i + 1)).countP q ≤ (List.range n).countP q := (List.range_sublist.mpr hi).countP_le
  simp only [List.range_succ, List.countP_append, List.countP_singleton, hq, if_true] at hle
  omega

theorem filter_range_getElem? (q : Nat → Bool) (n k i : Nat) :
    ((List.range n).filter q)[k]? = some i ↔ i < n ∧ q i = true ∧ (List.range i).countP q = k := by
  induction n with
  | zero => simp
  | succ n ih =>
      rw [List.range_succ, List.filter_append, List.getElem?_append, ← List.countP_eq_length_filter]
      by_cases hk : k < (List.range n).countP q
      · rw [if_pos hk, ih]
        refine and_congr_left fun ⟨_, hc⟩ => ⟨fun h => by omega, fun h => ?_⟩
        rcases Nat.lt_succ_iff_lt_or_eq.mp h with h | rfl
        · exact h
        · omega
      · have last : (i < n + 1 ∧ q i = true ∧ (List.range i).countP q = k) ↔
            i = n ∧ q n = true ∧ (List.range n).countP q = k := by
          constructor
          · rintro ⟨hi, hq, hc⟩
            rcases Nat.lt_succ_iff_lt_or_eq.mp hi with hin | rfl
            · have := countP_range_lt hin hq
              omega
            · exact ⟨rfl, hq, hc⟩
          · rintro ⟨rfl, hq, hc⟩
            exact ⟨Nat.lt_succ_self _, hq, hc⟩
        rw [if_neg hk, last]
        cases hq : q n with
        | false => simp [hq]
        | true =>
            rw [List.filter_cons_of_pos hq, List.filter_nil, List.getElem?_singleton]
            split
            · next h => simp only [Option.some.injEq, true_and]; omega
            · next h => simp only [reduceCtorEq, true_and, false_iff]; omega

/-- An index holds a record of a kind. -/
def ofKind (m : StationMap) (k : StationKind) (i : Nat) : Bool := (recAt m i).kind = k

theorem usedBelow_filter_kind {k : StationKind} (hk : k ≠ .unused) (m : StationMap) :
    (((usedBelow m 28).filter fun x => x.1.kind = k).map (·.2)) = (List.range 28).filter (ofKind m k) := by
  have both (i : Nat) : (ofKind m k i && usedAt m i) = ofKind m k i := by
    by_cases h : (recAt m i).kind = k
    · simp [ofKind, usedAt, h, hk]
    · simp [ofKind, h]
  simp only [usedBelow, List.filter_map, List.filter_filter, List.map_map]
  calc _ = ((List.range 28).filter fun i => ofKind m k i && usedAt m i).map id := rfl
    _ = _ := by simp [both]

theorem countFault_iff {k : StationKind} (hk : k ≠ .unused) (m : StationMap) (most i : Nat) :
    countFault (usedOf m) k most = some i ↔ CountFails m k most i := by
  have total : (countOf (usedOf m) fun x => x.kind = k) = (List.range 28).countP (ofKind m k) := by
    rw [countOf, List.countP_eq_length_filter, ← List.length_map (·.2), usedOf_eq, usedBelow_filter_kind hk,
      List.countP_eq_length_filter]
  have none_iff : (List.range 28).countP (ofKind m k) = 0 ↔ ∀ j < 28, (recAt m j).kind ≠ k := by
    simp [List.countP_eq_zero, ofKind]
  have beyond : (i < 28 ∧ (recAt m i).kind = k ∧ (List.range i).countP (fun j => (recAt m j).kind = k) = most) ↔
      ((List.range 28).filter (ofKind m k))[most]? = some i := by
    rw [filter_range_getElem?]
    simp only [ofKind, decide_eq_true_eq]
    rfl
  rw [CountFails, beyond, ← none_iff]
  simp only [countFault, total, nthIndex]
  rw [usedOf_eq, usedBelow_filter_kind hk]
  by_cases h0 : (List.range 28).countP (ofKind m k) = 0
  · have hnil : (List.range 28).filter (ofKind m k) = [] := by
      rwa [List.countP_eq_length_filter, List.length_eq_zero_iff] at h0
    simp [h0, hnil, eq_comm]
  · by_cases hm : most < (List.range 28).countP (ofKind m k)
    · have hlen : most < ((List.range 28).filter (ofKind m k)).length := by rwa [← List.countP_eq_length_filter]
      simp [h0, hm, List.getElem?_eq_getElem hlen]
    · have hlen : ((List.range 28).filter (ofKind m k)).length ≤ most := by
        rw [← List.countP_eq_length_filter]
        omega
      simp [h0, hm, List.getElem?_eq_none hlen]

/-! ## The checks in order -/

/-- Each check of a list, with its code from `k` on, reports an index just where the check of that code fails, as long as
every check before it passes. -/
def Agrees (fails : Nat → Nat → Prop) : List (Nat × Option Nat) → Nat → Prop
  | [], k => ∀ c, k ≤ c → ∀ i, ¬fails c i
  | (c, o) :: l, k => c = k ∧ (∀ i, o = some i ↔ fails k i) ∧ ((∀ i, ¬fails k i) → Agrees fails l (k + 1))

theorem Agrees.findSome? {fails : Nat → Nat → Prop} : ∀ {l : List (Nat × Option Nat)} {k : Nat}, Agrees fails l k →
    (∀ i c, l.findSome? (fun c => c.2.map fun i => (i, c.1)) = some (i, c) ↔
      k ≤ c ∧ fails c i ∧ ∀ b, k ≤ b → b < c → ∀ j, ¬fails b j) ∧
    (l.findSome? (fun c => c.2.map fun i => (i, c.1)) = none ↔ ∀ c, k ≤ c → ∀ i, ¬fails c i)
  | [], k, h => by
      simp only [List.findSome?_nil, reduceCtorEq, false_iff, true_iff]
      exact ⟨fun i c ⟨hk, hf, _⟩ => h c hk i hf, h⟩
  | (c, some j) :: l, k, ⟨hc, hfails, _⟩ => by
      subst hc
      have hj : fails c j := (hfails j).mp rfl
      simp only [List.findSome?_cons, Option.map_some, Option.some.injEq, Prod.mk.injEq, reduceCtorEq, false_iff]
      refine ⟨fun i d => ⟨?_, ?_⟩, fun none => none c le_rfl j hj⟩
      · rintro ⟨rfl, rfl⟩
        exact ⟨le_rfl, hj, fun b hb hlt => by omega⟩
      · rintro ⟨hle, hd, before⟩
        rcases Nat.lt_or_ge c d with hlt | hge
        · exact absurd hj (before c le_rfl hlt j)
        · obtain rfl : c = d := by omega
          exact ⟨Option.some.inj ((hfails i).mpr hd), rfl⟩
  | (c, none) :: l, k, ⟨hc, hfails, later⟩ => by
      subst hc
      have passes (i : Nat) : ¬fails c i := fun h => nomatch (hfails i).mpr h
      obtain ⟨found, missing⟩ := (later passes).findSome?
      simp only [List.findSome?_cons, Option.map_none, found, missing]
      refine ⟨fun i d => ⟨?_, ?_⟩, fun none d hd => ?_, fun none d hd => none d (by omega)⟩
      · rintro ⟨hlt, hd, before⟩
        refine ⟨by omega, hd, fun b hb hbd => ?_⟩
        rcases Nat.lt_or_ge c b with h | h
        · exact before b h hbd
        · obtain rfl : c = b := by omega
          exact passes
      · rintro ⟨hle, hd, before⟩
        refine ⟨?_, hd, fun b hb => before b (by omega)⟩
        rcases Nat.lt_or_ge c d with h | h
        · exact h
        · obtain rfl : c = d := by omega
          exact absurd hd (passes i)
      · rcases Nat.lt_or_ge c d with h | h
        · exact none d h
        · obtain rfl : c = d := by omega
          exact passes

/-! ## The merge point of a map that holds one merge station -/

/-- The position that the checks take for a kind: that of its first record. -/
def posOfKind (m : StationMap) (k : StationKind) : Nat :=
  (((usedOf m).find? fun x => x.1.kind = k).map (·.1.pos)).getD 0

theorem mem_usedOf {m : StationMap} {x : Station × Nat} :
    x ∈ usedOf m ↔ x.2 < 28 ∧ (recAt m x.2).kind ≠ .unused ∧ x.1 = recAt m x.2 := by
  rw [usedOf_eq]
  exact mem_usedBelow

theorem onlyMerge_of_passes {m : StationMap} (h : ∀ i, ¬CountFails m .merge 1 i) {i j : Nat} (hi : i < 28)
    (hj : j < 28) (hki : (recAt m i).kind = .merge) (hkj : (recAt m j).kind = .merge) : i = j := by
  have low {a b : Nat} (ha : a < 28) (hka : (recAt m a).kind = .merge) (hkb : (recAt m b).kind = .merge) (hlt : a < b)
      (hb : b < 28) : False := by
    have hc : 0 < (List.range b).countP fun j => decide ((recAt m j).kind = .merge) := by
      rw [List.countP_pos_iff]
      exact ⟨a, List.mem_range.mpr hlt, by simpa using hka⟩
    obtain ⟨x, hx⟩ : ∃ x, ((List.range 28).filter fun j => decide ((recAt m j).kind = .merge))[1]? = some x := by
      have := countP_range_lt (q := fun j => decide ((recAt m j).kind = .merge)) hb (by simpa using hkb)
      exact ⟨_, List.getElem?_eq_getElem (by rw [← List.countP_eq_length_filter]; omega)⟩
    obtain ⟨hx28, hkx, hcx⟩ := (filter_range_getElem? _ _ _ _).mp hx
    exact h x (.inr ⟨hx28, by simpa using hkx, hcx⟩)
  rcases Nat.lt_trichotomy i j with hlt | heq | hlt
  · exact (low hi hki hkj hlt hj).elim
  · exact heq
  · exact (low hj hkj hki hlt hi).elim

theorem posOfKind_merge {m : StationMap} (h : ∀ i, ¬CountFails m .merge 1 i) {i : Nat} (hi : i < 28)
    (hk : (recAt m i).kind = .merge) : posOfKind m .merge = (recAt m i).pos := by
  have hfound : ((usedOf m).find? fun x => x.1.kind = .merge).isSome := by
    rw [List.find?_isSome]
    exact ⟨(recAt m i, i), mem_usedOf.mpr ⟨hi, by simp [hk], rfl⟩, by simpa using hk⟩
  obtain ⟨x, hx⟩ := Option.isSome_iff_exists.mp hfound
  obtain ⟨hj, _, hrec⟩ := mem_usedOf.mp (List.mem_of_find?_eq_some hx)
  have hkx : (recAt m x.2).kind = .merge := by simpa [hrec] using List.find?_some hx
  rw [posOfKind, hx, Option.map_some, Option.getD_some, hrec, onlyMerge_of_passes h hi hj hk hkx]

theorem exists_merge_of_passes {m : StationMap} (h : ∀ i, ¬CountFails m .merge 1 i) :
    ∃ i < 28, (recAt m i).kind = .merge := by
  by_contra none
  exact h 28 (.inl ⟨rfl, fun j hj hk => none ⟨j, hj, hk⟩⟩)

/-! ## The checks that speak of lanes, readers and addresses -/

theorem mem_laneDiverters {m : StationMap} {q : Nat} :
    q ∈ ((usedOf m).filter fun x => x.1.kind = .laneDiverter).map (·.1.pos) ↔
      ∃ k < 28, (recAt m k).kind = .laneDiverter ∧ (recAt m k).pos = q := by
  simp only [List.mem_map, List.mem_filter, mem_usedOf, decide_eq_true_eq]
  constructor
  · rintro ⟨⟨x, k⟩, ⟨⟨hk, _, hx⟩, hkind⟩, rfl⟩
    simp only at hx hkind hk
    exact ⟨k, hk, hx ▸ hkind, hx ▸ rfl⟩
  · rintro ⟨k, hk, hkind, rfl⟩
    exact ⟨(recAt m k, k), ⟨⟨hk, by simp [hkind], rfl⟩, hkind⟩, rfl⟩

theorem noLane_iff (m : StationMap) (i : Nat) :
    (if (((usedOf m).filter fun x => x.1.kind = .laneDiverter).map (·.1.pos)).isEmpty then some 28 else none) = some i ↔
      i = 28 ∧ ∀ j < 28, (recAt m j).kind ≠ .laneDiverter := by
  have hempty : (((usedOf m).filter fun x => x.1.kind = .laneDiverter).map (·.1.pos)).isEmpty = true ↔
      ∀ j < 28, (recAt m j).kind ≠ .laneDiverter := by
    rw [List.isEmpty_iff, List.eq_nil_iff_forall_not_mem]
    simp only [mem_laneDiverters, not_exists, not_and]
    exact ⟨fun h j hj hk => h _ j hj hk rfl, fun h _ j hj hk => absurd hk (h j hj)⟩
  rw [Option.ite_none_right_eq_some, hempty, Option.some.injEq, and_comm, eq_comm (a := 28)]

theorem readerAhead_iff (m : StationMap) (i : Nat) :
    (if (usedOf m).any (fun x => x.1.kind = .reader &&
        (((usedOf m).filter fun x => x.1.kind = .laneDiverter).map (·.1.pos)).all fun q => x.1.pos < q)
      then none else some 28) = some i ↔
    i = 28 ∧ ¬∃ j < 28, (recAt m j).kind = .reader ∧
      ∀ k < 28, (recAt m k).kind = .laneDiverter → (recAt m j).pos < (recAt m k).pos := by
  have hany : (usedOf m).any (fun x => x.1.kind = .reader &&
        (((usedOf m).filter fun x => x.1.kind = .laneDiverter).map (·.1.pos)).all fun q => x.1.pos < q) = true ↔
      ∃ j < 28, (recAt m j).kind = .reader ∧
        ∀ k < 28, (recAt m k).kind = .laneDiverter → (recAt m j).pos < (recAt m k).pos := by
    simp only [List.any_eq_true, mem_usedOf, Bool.and_eq_true, decide_eq_true_eq, List.all_eq_true, mem_laneDiverters]
    constructor
    · rintro ⟨⟨x, j⟩, ⟨hj, _, hx⟩, hkind, ahead⟩
      simp only at hx hkind hj ahead
      exact ⟨j, hj, hx ▸ hkind, fun k hk hkk => hx ▸ ahead _ ⟨k, hk, hkk, rfl⟩⟩
    · rintro ⟨j, hj, hkind, ahead⟩
      refine ⟨(recAt m j, j), ⟨hj, by simp [hkind], rfl⟩, hkind, ?_⟩
      rintro _ ⟨k, hk, hkk, rfl⟩
      exact ahead k hk hkk
  rw [Option.ite_none_left_eq_some, hany, Option.some.injEq, and_comm, eq_comm (a := 28)]

theorem addresses_eq (x : Station) : x.addresses = addressesOf x := by
  simp [Station.addresses, addressesOf, Station.isDiverter]

theorem ownAddressFault_iff (mgmt : Nat) (x : Station) : ownAddressFault mgmt x = true ↔
    mgmt ∈ addressesOf x ∨ (2 ≤ (addressesOf x).length ∧ x.prim = x.sec) := by
  rw [ownAddressFault, addresses_eq, Bool.or_eq_true, List.contains_iff_mem, Bool.and_eq_true, decide_eq_true_eq]
  have hlen : 2 ≤ (addressesOf x).length ↔ x.isDiverter = true := by
    simp only [addressesOf, Station.isDiverter, Bool.or_eq_true, decide_eq_true_eq]
    split <;> simp_all
  rw [hlen]

theorem sharesAddress_iff (x y : Station) : sharesAddress x y = true ↔ ∃ a ∈ addressesOf y, a ∈ addressesOf x := by
  simp only [sharesAddress, addresses_eq, List.any_eq_true, List.contains_iff_mem]
  exact exists_congr fun a => and_comm

/-- The check of the sides of the merge point (10), where the check of the merge stations passes. -/
theorem sides_iff {m : StationMap} (h : ∀ i, ¬CountFails m .merge 1 i) (i : Nat) :
    firstWith (usedOf m) (fun x => (x.kind = .laneDiverter && posOfKind m .merge ≤ x.pos) ||
        (x.kind = .returnDiverter && x.pos ≤ posOfKind m .merge)) = some i ↔
      Lowest m (fun _ x => ∃ j < 28, (recAt m j).kind = .merge ∧
        ((x.kind = .laneDiverter ∧ (recAt m j).pos ≤ x.pos) ∨ (x.kind = .returnDiverter ∧ x.pos ≤ (recAt m j).pos))) i := by
  obtain ⟨k, hk, hkind⟩ := exists_merge_of_passes h
  refine firstWith_iff (fun i => ?_) i
  rw [posOfKind_merge h hk hkind]
  simp only [Bool.or_eq_true, Bool.and_eq_true, decide_eq_true_eq]
  constructor
  · exact fun hside => ⟨k, hk, hkind, hside⟩
  · rintro ⟨j, hj, hjk, hside⟩
    rwa [onlyMerge_of_passes h hk hj hkind hjk]

/-- The check of the merge point against the spur lead (13), where the check of the merge stations passes. -/
theorem spurLead_iff {m : StationMap} (h : ∀ i, ¬CountFails m .merge 1 i) (p : Params) (i : Nat) :
    firstWith (usedOf m) (fun x => x.kind = .merge && posOfKind m .merge ≤ p.spurLead) = some i ↔
      Lowest m (fun _ x => x.kind = .merge ∧ x.pos ≤ p.spurLead) i := by
  rw [firstWith_usedOf]
  refine firstUsed_iff (fun j hj => ?_) i
  simp only [Bool.and_eq_true, decide_eq_true_eq]
  refine and_congr_right fun hk => ?_
  rw [posOfKind_merge h (lt_of_usedAt hj) hk]

theorem laneTwice_iff (m : StationMap) (i : Nat) :
    laterOf (fun x y => x.kind = .laneDiverter && y.kind = .laneDiverter && x.lane = y.lane) [] (usedOf m) = some i ↔
      Lowest m (fun i x => x.kind = .laneDiverter ∧
        ∃ j < i, (recAt m j).kind = .laneDiverter ∧ (recAt m j).lane = x.lane) i := by
  rw [laterOf_eq]
  refine firstFault_iff (fun j => ?_) i
  simp only [Bool.and_eq_true, decide_eq_true_eq, Bool.false_eq_true, false_or]
  constructor
  · rintro ⟨hk, k, hlt, hkk, hl⟩
    exact ⟨k, hlt, by simp [hkk], ⟨hkk, hk⟩, hl⟩
  · rintro ⟨k, hlt, _, ⟨hkk, hk⟩, hl⟩
    exact ⟨hk, k, hlt, hkk, hl⟩

theorem placeTwice_iff (m : StationMap) (i : Nat) :
    laterOf (fun x y => x.pos = y.pos) [] (usedOf m) = some i ↔
      Lowest m (fun i x => ∃ j < i, (recAt m j).kind ≠ .unused ∧ (recAt m j).pos = x.pos) i := by
  rw [laterOf_eq]
  refine firstFault_iff (fun j => ?_) i
  simp only [decide_eq_true_eq, Bool.false_eq_true, false_or]

theorem addressFault_iff (mgmt : Nat) (m : StationMap) (i : Nat) :
    addressFault mgmt [] (usedOf m) = some i ↔
      Lowest m (fun i x => mgmt ∈ addressesOf x ∨ (2 ≤ (addressesOf x).length ∧ x.prim = x.sec) ∨
        ∃ j < i, (recAt m j).kind ≠ .unused ∧ ∃ a ∈ addressesOf x, a ∈ addressesOf (recAt m j)) i := by
  rw [addressFault_eq]
  refine firstFault_iff (fun j => ?_) i
  simp only [ownAddressFault_iff, sharesAddress_iff, or_assoc]

/-! ## O55 -/

theorem mapChecks_agree (p : Params) (m : StationMap) : Agrees (CheckFails p m) (mapChecks p (usedOf m)) 1 := by
  refine ⟨rfl, countFault_iff (by decide) m 1, fun _ => ⟨rfl, ?induct, fun _ =>
    ⟨rfl, countFault_iff (by decide) m 1, fun hmerge => ⟨rfl, countFault_iff (by decide) m 1, fun _ =>
    ⟨rfl, noLane_iff m, fun _ => ⟨rfl, ?lane, fun _ => ⟨rfl, countFault_iff (by decide) m 8, fun _ =>
    ⟨rfl, ?loop, fun _ => ⟨rfl, ?place, fun _ => ⟨rfl, ?sides, fun _ => ⟨rfl, readerAhead_iff m, fun _ =>
    ⟨rfl, ?address, fun _ => ⟨rfl, ?spur, fun _ => ?beyond⟩⟩⟩⟩⟩⟩⟩⟩⟩⟩⟩⟩⟩
  case induct => exact firstWith_iff (P := fun _ x => x.kind = .induct ∧ x.pos ≠ 0) (by simp)
  case loop => exact firstWith_iff (P := fun _ x => p.loopLen ≤ x.pos) (by simp)
  case lane => exact laneTwice_iff m
  case place => exact placeTwice_iff m
  case sides => exact sides_iff hmerge
  case address => exact addressFault_iff p.mgmtAddr m
  case spur => exact spurLead_iff hmerge p
  case beyond =>
    intro c hc i
    match c with
    | 0 => exact id
    | n + 14 => exact id

/-- The check of one diverter's margins and swing against the least gap (R13). -/
def GapTooSmall (p : Params) (x : Station) : Prop :=
  (x.kind = .laneDiverter ∨ x.kind = .returnDiverter) ∧
    p.gmin < x.lead + x.trail + (max x.so x.sc * p.vmax + 999) / 1000

theorem gapCheck_iff (p : Params) (x : Station) :
    (x.isDiverter && p.gmin < x.lead + x.trail + swing (max x.so x.sc) p.vmax) = true ↔ GapTooSmall p x := by
  rw [GapTooSmall, Bool.and_eq_true]
  exact and_congr (by simp [Station.isDiverter]) decide_eq_true_iff

/-- Settles O55: the checks agree one by one with the table of R12, those that take the merge point from its first record
because the check of the merge stations has passed before them. -/
theorem theMapChecksOfStart : Obligations.TheMapChecksOfStart := by
  intro p m
  obtain ⟨found, passed⟩ := (mapChecks_agree p m).findSome?
  refine ⟨fun i c => ?_, ?_, fun i => ?_, ?_⟩
  · refine (found i c).trans ⟨?_, ?_⟩
    · rintro ⟨_, hc, before⟩
      refine ⟨hc, fun b hb j => ?_⟩
      rcases Nat.eq_zero_or_pos b with rfl | hpos
      · exact id
      · exact before b hpos hb j
    · rintro ⟨hc, before⟩
      refine ⟨?_, hc, fun b _ hb => before b hb⟩
      rcases Nat.eq_zero_or_pos c with rfl | hpos
      · exact hc.elim
      · exact hpos
  · refine passed.trans ⟨fun h c i => ?_, fun h c _ => h c⟩
    rcases Nat.eq_zero_or_pos c with rfl | hpos
    · exact id
    · exact h c hpos i
  · exact firstWith_iff (P := fun _ x => GapTooSmall p x) (fun j => gapCheck_iff p _) i
  · rw [gapFault, firstWith_usedOf]
    refine firstUsed_eq_none (P := GapTooSmall p) (fun j _ => gapCheck_iff p _) ?_
    rintro x ⟨hk | hk, _⟩ <;> simp [hk]

end Sys2Proof.Machine
end

section
/-! PROOFS. The planner by its three deeds: what keeps under a change of a queue, the marks of a plan and a gate's drive
keeps under every plan. -/

namespace Sys2Proof.Machine

/-! ## Relations that the planner keeps -/

/-- A relation between states that holds over every deed of the planner: a queue that it writes, the marks that a plan
leaves in records (R97), and a gate that it drives (R109). -/
structure Planning (R : State → State → Prop) : Prop where
  refl  : ∀ s, R s s
  trans : ∀ {s t u}, R s t → R t u → R s u
  queue : ∀ g q s, R s (setQueue g q s)
  mark  : ∀ s d why ids, R s (markPlan s d why ids)
  drive : ∀ g b s, R s (driveGate g b s)

namespace Planning
variable {R : State → State → Prop}

theorem foldl {α : Type} (h : Planning R) {f : State → α → State} (hf : ∀ t a, R t (f t a)) (l : List α) (s : State) :
    R s (l.foldl f s) := by
  induction l generalizing s with
  | nil => exact h.refl s
  | cons a l ih => exact h.trans (hf s a) (ih _)

theorem closeIfOpen (h : Planning R) (g : Nat) (s : State) : R s (closeIfOpen g s) := by
  unfold Machine.closeIfOpen
  split
  · split
    · exact h.drive g false s
    · exact h.refl s
  · exact h.refl s

theorem decideGate (h : Planning R) (g : Nat) (s : State) : R s (decideGate g s) := by
  unfold Machine.decideGate
  split
  · exact h.refl s
  · exact h.closeIfOpen g s

theorem decideGates (h : Planning R) (gs : List Nat) (s : State) : R s (decideGates gs s) :=
  h.foldl (fun t g => h.decideGate g t) gs s

theorem dropFires (h : Planning R) (g : Nat) (p : Fire → Bool) (s : State) : R s (dropFires g p s) := h.queue g _ s

theorem detach (h : Planning R) (id : Nat) (s : State) : R s (detach id s).st := by
  unfold Machine.detach
  split
  · exact h.refl s
  · split
    · exact h.dropFires _ _ s
    · exact h.queue _ _ s

theorem gather (h : Planning R) (ids : List Nat) (s : State) : R s (gather ids s).st := by
  unfold Machine.gather
  suffices ∀ p : Planned, R p.st (ids.foldl (fun p id =>
      let q := Machine.detach id p.st
      (⟨q.st, p.left ++ q.left, p.gates ++ q.gates⟩ : Planned)) p).st from this ⟨s, [], []⟩
  induction ids with
  | nil => exact fun p => h.refl p.st
  | cons id ids ih =>
      intro p
      rw [List.foldl_cons]
      exact h.trans (h.detach id p.st) (ih ⟨(Machine.detach id p.st).st, p.left ++ _, p.gates ++ _⟩)

theorem moveClose (h : Planning R) (g : Nat) (x : Fire) (s : State) : R s (moveClose g x s) := by
  unfold Machine.moveClose
  split
  · exact h.refl s
  · dsimp only
    split
    · exact h.refl s
    · exact h.queue _ _ s

theorem planRecord (h : Planning R) (r : Rec) (g : Nat) (d : Station) (s : State) : R s (planRecord r g d s).st := by
  unfold Machine.planRecord
  dsimp only
  split
  · exact h.mark ..
  · split
    · exact h.trans (h.gather _ s) (h.mark ..)
    · exact h.trans (h.trans (h.gather _ s) (h.queue _ _ _)) (h.mark ..)

theorem planOne_go (h : Planning R) (id : Nat) (s : State) (r : Rec) : R s (planOne.go id s r).st := by
  unfold planOne.go
  dsimp only
  split
  · exact h.detach id s
  · split
    · exact h.detach id s
    · exact h.trans (h.detach id s) (h.planRecord ..)

theorem planOne (h : Planning R) (id : Nat) (s : State) : R s (planOne id s).st := by
  unfold Machine.planOne
  split
  · exact h.refl s
  · split
    · exact h.refl s
    · split
      · split
        · exact h.moveClose ..
        · exact h.planOne_go ..
      · exact h.planOne_go ..

theorem planWork (h : Planning R) (n : Nat) (ids gs : List Nat) (s : State) : R s (planWork n ids gs s) := by
  induction n generalizing ids gs s with
  | zero => exact h.decideGates gs s
  | succ n ih =>
      cases ids with
      | nil => exact h.decideGates gs s
      | cons id ids =>
          unfold Machine.planWork
          split
          · exact ih _ _ _
          · exact h.trans (h.planOne id s) (ih _ _ _)

theorem planReq (h : Planning R) (id : Nat) (s : State) : R s (planReq id s) :=
  h.trans (h.planOne id s) (h.planWork _ _ _ _)

theorem finishDetach (h : Planning R) (l : List Nat) (p : Planned) (s : State) : R s (finishDetach l p s) := h.planWork _ _ _ s

theorem shadowRecheck (h : Planning R) (id : Nat) (s : State) : R s (shadowRecheck id s) := by
  unfold Machine.shadowRecheck
  split
  · exact h.refl s
  · split
    · exact h.refl s
    · exact h.trans (h.foldl (fun t g => h.dropFires g _ t) _ s) (h.planWork _ _ _ _)

theorem withdrawLane (h : Planning R) (g : Nat) (s : State) : R s (withdrawLane g s) := by
  unfold Machine.withdrawLane
  dsimp only
  split
  · exact h.refl s
  · exact h.trans (h.dropFires g _ s) (h.planWork _ _ _ _)

theorem planLane (h : Planning R) (g : Nat) (s : State) : R s (planLane g s) := by
  refine h.foldl (fun t id => ?_) _ s
  split
  · exact h.refl t
  · exact h.planReq id t

end Planning

/-! ## The gate commands of the planner -/

/-- In the step from `s` to `t` gate commands alone have been placed, and only at the primaries of gates: a lamp command in
the queue has stood there, and a command that goes to no primary stands where it stood. -/
structure GateCommandsOnly (s t : State) : Prop where
  force : t.pos.inForce = s.pos.inForce
  lamps : ∀ c ∈ t.rng.control, c.kind = .lampOn ∨ c.kind = .lampOff → c ∈ s.rng.control
  stand : ∀ c ∈ s.rng.control, (∀ m x, gateRec s m = some x → x.prim ≠ c.dst) → c ∈ t.rng.control

theorem gateRec_of_force {s t : State} (h : t.pos.inForce = s.pos.inForce) (n : Nat) : gateRec t n = gateRec s n := by
  unfold gateRec inForce
  rw [h]

theorem GateCommandsOnly.of_quiet {s t : State} (hp : t.pos = s.pos) (hr : t.rng = s.rng) : GateCommandsOnly s t :=
  ⟨by rw [hp], fun c hc _ => hr ▸ hc, fun c hc _ => hr ▸ hc⟩

/-- The control queue after a command is placed: the command, and those for other destinations. -/
theorem mem_placeControl (c y : Ctl) (s : State) :
    y ∈ (placeControl c s).rng.control ↔ y = c ∨ (y.dst ≠ c.dst ∧ y ∈ s.rng.control) := by
  have hplaced := placed_placeControl c s
  by_cases hd : y.dst = c.dst
  · have only : y ∈ (placeControl c s).rng.control → y = c := by
      unfold placeControl
      dsimp only
      split
      · intro h
        obtain ⟨z, _, hz⟩ := List.mem_map.mp h
        split at hz
        · exact hz.symm
        · next hne => exact absurd (hz ▸ hd) hne
      · next hnone =>
          intro h
          rcases List.mem_append.mp h with h | h
          · exact absurd (List.any_eq_true.mpr ⟨y, h, by simpa using hd⟩) hnone
          · exact List.mem_singleton.mp h
    constructor
    · exact fun h => .inl (only h)
    · rintro (rfl | ⟨hne, _⟩)
      · exact hplaced.stands
      · exact absurd hd hne
  · rw [hplaced.others y hd]
    constructor
    · exact fun h => .inr ⟨hd, h⟩
    · rintro (rfl | ⟨_, h⟩)
      · exact absurd rfl hd
      · exact h

theorem gateCommandsOnly_driveGate (g : Nat) (b : Bool) (s : State) : GateCommandsOnly s (driveGate g b s) := by
  unfold driveGate
  split
  · next d x hd _ =>
      let c : Ctl := ⟨d.prim, if b then .gateOpen else .gateClose⟩
      have hc : ¬(c.kind = .lampOn ∨ c.kind = .lampOff) := by cases b <;> simp [c]
      refine ⟨congrArg (fun t => t.pos.inForce) (placeControl_rest c s), fun y hy hk => ?_, fun y hy hno => ?_⟩
      · rcases (mem_placeControl c y s).mp hy with rfl | ⟨_, hy⟩
        · exact absurd hk hc
        · exact hy
      · exact (mem_placeControl c y s).mpr (.inr ⟨fun h => hno g d hd h.symm, hy⟩)
  · exact .of_quiet rfl rfl

theorem planning_gateCommandsOnly : Planning GateCommandsOnly where
  refl _ := .of_quiet rfl rfl
  trans h₁ h₂ := ⟨h₂.force.trans h₁.force, fun c hc hk => h₁.lamps c (h₂.lamps c hc hk) hk,
    fun c hc hno => h₂.stand c (h₁.stand c hc hno) fun m x hx => hno m x (gateRec_of_force h₁.force m ▸ hx)⟩
  queue _ _ _ := .of_quiet rfl rfl
  mark _ _ _ _ := .of_quiet rfl rfl
  drive := gateCommandsOnly_driveGate

/-! ## The lamp of a lane update -/

/-- A lane update before its plans: the lane changed, the lamp where it crosses FULL, and the LANE notice (R118, R122,
R125). -/
def laneNoted (n : Nat) (f : Lane → Lane) (s : State) : State :=
  let l := f (laneOf s n)
  let u := modLane n (fun _ => { l with reported := l.computed }) s
  let v := if (laneOf s n).full = l.full then u else sendLamp n l.full u
  if (laneOf s n).reported = l.computed then v else notify (.lane n l.computed l.faulted l.occ) v

theorem gateCommandsOnly_laneUpdate (n : Nat) (f : Lane → Lane) (s : State) :
    GateCommandsOnly (laneNoted n f s) (laneUpdate n f s) := by
  have plan (b c : Bool) (u : State) : GateCommandsOnly u
      (let v := if b then withdrawLane n u else u
       if c then planLane n v else v) := by
    have hb : GateCommandsOnly u (if b then withdrawLane n u else u) := by
      cases b
      · exact .of_quiet rfl rfl
      · exact planning_gateCommandsOnly.withdrawLane n u
    cases c
    · exact hb
    · exact planning_gateCommandsOnly.trans hb (planning_gateCommandsOnly.planLane n _)
  exact plan _ _ (laneNoted n f s)

theorem sendLamp_mapped {n : Nat} {b : Bool} {s : State} {d : Station} (h : gateRec s n = some d) :
    sendLamp n b s = modLane n (fun l => { l with lampOn := b }) (placeControl ⟨d.sec, lampFor b⟩ s) := by
  simp only [sendLamp, h]
  rfl

theorem sendLamp_unmapped {n : Nat} {b : Bool} {s : State} (h : gateRec s n = none) : sendLamp n b s = s := by
  simp only [sendLamp, h]

theorem rng_notify (x : Notice) (s : State) : (notify x s).rng = s.rng := by rw [notify_rest]

theorem gateRec_modLane (n m : Nat) (f : Lane → Lane) (s : State) : gateRec (modLane n f s) m = gateRec s m := rfl

theorem rng_laneNoted_same {n : Nat} {f : Lane → Lane} {s : State}
    (h : (f (laneOf s n)).full = (laneOf s n).full ∨ gateRec s n = none) : (laneNoted n f s).rng = s.rng := by
  simp only [laneNoted, apply_ite State.rng, rng_notify, ite_self]
  rcases h with h | h
  · exact if_pos h.symm
  · rw [sendLamp_unmapped ((gateRec_modLane ..).trans h)]
    exact ite_self _

theorem rng_laneNoted_crossed {n : Nat} {f : Lane → Lane} {s : State} {d : Station}
    (h : (f (laneOf s n)).full ≠ (laneOf s n).full) (hd : gateRec s n = some d) :
    (laneNoted n f s).rng = (placeControl ⟨d.sec, lampFor (f (laneOf s n)).full⟩ s).rng := by
  simp only [laneNoted, apply_ite State.rng, rng_notify, ite_self]
  rw [if_neg (Ne.symm h), sendLamp_mapped ((gateRec_modLane ..).trans hd)]
  exact rng_placeControl_congr _ rfl

theorem pos_laneNoted (n : Nat) (f : Lane → Lane) (s : State) : (laneNoted n f s).pos = s.pos := by
  have h : (laneNoted n f s).core = s.core := by
    unfold laneNoted
    dsimp only
    repeat' split
    all_goals simp
  exact congrArg (·.2.1) h

theorem laneFull_eq (s : State) (n : Nat) : laneFull s n = (laneOf s n).full := rfl

/-- The lamp follows a lane update that leaves the lamp's own field alone. -/
theorem lampFollows_laneUpdate (n : Nat) (f : Lane → Lane) (s : State) (hn : n < Config.lanes)
    (hf : (f (laneOf s n)).lampOn = (laneOf s n).lampOn) : LampFollows n s (laneUpdate n f s) := by
  have hlane := laneOf_laneUpdate n f s hn
  have hfull : laneFull (laneUpdate n f s) n = (f (laneOf s n)).full := by rw [laneFull_eq, hlane]; rfl
  have hplans := gateCommandsOnly_laneUpdate n f s
  constructor
  · rw [hfull, laneFull_eq]
    intro hne d hd
    have hrng := rng_laneNoted_crossed hne hd
    refine ⟨?_, fun hno => hplans.stand _ ?_ ?_, fun c hc hk => ?_⟩
    · rw [hlane]
      simp [lampAfter, Ne.symm hne, hd]
    · rw [hrng]
      exact (mem_placeControl _ _ _).mpr (.inl rfl)
    · exact fun m x hx => hno m x ((gateRec_of_force (congrArg (·.inForce) (pos_laneNoted n f s)) m).symm.trans hx)
    · have hc' := hplans.lamps c hc hk
      rw [hrng] at hc'
      exact ((mem_placeControl _ _ _).mp hc').imp_right And.right
  · rw [hfull, laneFull_eq]
    intro hsame
    refine ⟨?_, fun c hc hk => rng_laneNoted_same hsame ▸ hplans.lamps c hc hk⟩
    rw [hlane]
    rcases hsame with h | h
    · simp [lampAfter, h, hf]
    · simp [lampAfter, h, hf]

/-- A lane update with the list and the gate's queue empty has nothing to plan. -/
theorem laneUpdate_of_empty (n : Nat) (f : Lane → Lane) (s : State) (hn : n < Config.lanes) (ht : s.trk.list = [])
    (hq : queueOf s n = []) : LaneChanged n (f (laneOf s n)) s (laneUpdate n f s) := by
  obtain ⟨u, hu, heq⟩ := laneUpdate_changed n f s hn
  have htu : u.trk.list = [] := by rw [hu.rest]; exact ht
  have hqu : queueOf u n = [] := by rw [hu.rest]; exact hq
  have hw : withdrawLane n u = u := by simp [withdrawLane, hqu]
  have hp : plannedInTurn n u = u := by simp [plannedInTurn, htu]
  have : laneUpdate n f s = u := by
    rw [heq]
    simp only [hw, ite_self, hp]
  rwa [this]

/-- A lane change does not see the command state. -/
theorem LaneChanged.withCmd {n : Nat} {l : Lane} {s u : State} (h : LaneChanged n l s u) (x y : Cmd) (hxy : x = y) :
    LaneChanged n l (s.setCmd x) (u.setCmd y) := by
  subst hxy
  refine ⟨h.lane, h.others, fun hne d hd => ?_, h.dark, ?_, ?_⟩
  · obtain ⟨hl, hp⟩ := h.lamp hne d hd
    exact ⟨hl, hp.stands, hp.others, hp.rest⟩
  · refine h.notice.trans ?_
    show (if _ then s.ntq else _) = if _ then s.ntq else _
    congr 1
    exact (ntq_notify_congr _ (s := s) (t := s.setCmd x) rfl rfl).symm
  · rw [h.rest]
    rfl

end Sys2Proof.Machine
end

section
/-! PROOFS. The loading commands: SET POINTER, NOTICE MASK and PUT RECORDS (O52, O53). -/

namespace Sys2Proof.Machine

/-! ## A command that CMD takes -/

/-- A command that CMD takes is executed, the points that it sets at the odometer are taken, and it is answered. -/
theorem exec_taken {i : Instr} {c : Order} (hc : orderOf i = some c) {s : State} (h : Takes s c.tag)
    (hr : c.resets = false) :
    exec i s = .next ((takeReached (c.body s).1).replied c.op c.tag (c.body s).2.1 (c.body s).2.2) := by
  rw [exec_order hc, takeReached_of_none h.settled, Order.answer, answer_takes h, hr]
  rfl

/-- A command that sets no point at the odometer. -/
theorem exec_taken_quiet {i : Instr} {c : Order} (hc : orderOf i = some c) {s : State} (h : Takes s c.tag)
    (hr : c.resets = false) (hq : nextDue (c.body s).1 = none) :
    exec i s = .next ((c.body s).1.replied c.op c.tag (c.body s).2.1 (c.body s).2.2) := by
  rw [exec_taken hc h hr, takeReached_of_none hq]

theorem nextDue_setCmd (s : State) (x : Cmd) : nextDue (s.setCmd x) = nextDue s :=
  nextDue_congr rfl rfl rfl rfl rfl (fun _ => rfl) rfl rfl rfl rfl

theorem nextDue_setNtq (s : State) (x : Ntq) : nextDue (s.setNtq x) = nextDue s :=
  nextDue_congr rfl rfl rfl rfl rfl (fun _ => rfl) rfl rfl rfl rfl

theorem nextDue_setMap (s : State) (m : StationMap) : nextDue (s.setPos { s.pos with map := m }) = nextDue s :=
  nextDue_congr rfl rfl rfl rfl rfl (fun _ => rfl) rfl rfl rfl rfl

theorem bytesOf_one (n : Nat) : bytesOf 1 n = [BitVec.ofNat 8 n] := by simp [bytesOf]

theorem loadData_eq (n : Nat) (s : State) :
    loadData n s = [BitVec.ofNat 8 n, BitVec.ofNat 8 s.cmd.table.code, BitVec.ofNat 8 s.cmd.index] := by
  simp [loadData, bytesOf_one]

/-! ## PUT RECORDS by the records that it writes -/

/-- The table at the pointer can be written in the run state: PARAMS in every one, the others in CONFIG (R204). -/
def Writable (s : State) : Prop := s.cmd.table = .params ∨ s.run.st = .config

/-- What PUT RECORDS answers to the outcome of its records. -/
def loadReply (x : Option Result × Nat × State) : Executed := (x.2.2, x.1.getD .done, loadData x.2.1 x.2.2)

theorem recordBytes_pos (t : Table) : 0 < t.recordBytes := by cases t <;> decide

theorem cmdPutRecords_format {bs : List Byte} {s : State} (h1 : bs.length ≠ s.cmd.table.recordBytes)
    (h2 : bs.length ≠ 2 * s.cmd.table.recordBytes) : cmdPutRecords bs s = (s, .format, []) := by
  unfold cmdPutRecords
  exact if_pos ⟨h1, h2⟩

/-- A number of bytes that is one record or two. -/
def WholeRecords (s : State) (bs : List Byte) : Prop :=
  bs.length = s.cmd.table.recordBytes ∨ bs.length = 2 * s.cmd.table.recordBytes

theorem cmdPutRecords_state {bs : List Byte} {s : State} (h : WholeRecords s bs) (ht : s.cmd.table ≠ .params)
    (hs : s.run.st ≠ .config) : cmdPutRecords bs s = (s, .state, loadData 0 s) := by
  unfold cmdPutRecords
  dsimp only
  rw [if_neg (by rcases h with h | h <;> simp [h]), if_pos ⟨ht, hs⟩]

theorem cmdPutRecords_beyond {bs : List Byte} {s : State} (h : WholeRecords s bs) (hw : Writable s)
    (hb : s.cmd.table.size < s.cmd.index + bs.length / s.cmd.table.recordBytes) :
    cmdPutRecords bs s = (s, .range, loadData 0 s) := by
  have hk := recordBytes_pos s.cmd.table
  have hnum : (if bs.length = s.cmd.table.recordBytes then [bs]
      else [bs.take s.cmd.table.recordBytes, bs.drop s.cmd.table.recordBytes]).length =
      bs.length / s.cmd.table.recordBytes := by
    rcases h with h | h
    · simp [h, Nat.div_self hk]
    · rw [if_neg (by omega), h, Nat.mul_div_cancel _ hk]
      rfl
  unfold cmdPutRecords
  dsimp only
  rw [if_neg (by rcases h with h | h <;> simp [h]), if_neg (fun h => hw.elim h.1 h.2), hnum, if_pos hb]

theorem cmdPutRecords_one {bs : List Byte} {s : State} (hk : bs.length = s.cmd.table.recordBytes) (hw : Writable s)
    (hi : s.cmd.index < s.cmd.table.size) : cmdPutRecords bs s = loadReply (loadRecords [bs] 0 s) := by
  unfold cmdPutRecords
  dsimp only
  rw [if_neg (fun h => h.1 hk), if_pos hk, if_neg (fun h => hw.elim h.1 h.2), if_neg (by simpa using hi)]
  rfl

theorem cmdPutRecords_two {as bs : List Byte} {s : State} (ha : as.length = s.cmd.table.recordBytes)
    (hb : bs.length = s.cmd.table.recordBytes) (hw : Writable s) (hi : s.cmd.index + 1 < s.cmd.table.size) :
    cmdPutRecords (as ++ bs) s = loadReply (loadRecords [as, bs] 0 s) := by
  have hk := recordBytes_pos s.cmd.table
  have hlen : (as ++ bs).length = 2 * s.cmd.table.recordBytes := by rw [List.length_append]; omega
  unfold cmdPutRecords
  dsimp only
  rw [if_neg (fun h => h.2 hlen), if_neg (c := _ = _) (by omega), if_neg (fun h => hw.elim h.1 h.2), ← ha,
    List.take_left, List.drop_left, if_neg (by simp only [List.length_cons, List.length_nil]; omega)]
  rfl

theorem loadRecords_written {r : List Byte} {s t : State} (h : loadRecord r s = (none, t)) (rs : List (List Byte))
    (n : Nat) : loadRecords (r :: rs) n s = loadRecords rs (n + 1) t := by rw [loadRecords, h]

theorem loadRecords_refused {r : List Byte} {s t : State} {e : Result} (h : loadRecord r s = (some e, t))
    (rs : List (List Byte)) (n : Nat) : loadRecords (r :: rs) n s = (some e, n, t) := by rw [loadRecords, h]

theorem loadRecords_nil (n : Nat) (s : State) : loadRecords [] n s = (none, n, s) := rfl

/-! ## One record -/

theorem loadRecord_station {bs : List Byte} {x : Station} {s : State} (ht : s.cmd.table = .stations)
    (hx : stationOf bs = some x) (hok : stationOk x = true) :
    loadRecord bs s = (none, { s with pos := { s.pos with map := vset s.pos.map s.cmd.index x }
                                      cmd := { s.cmd with index := s.cmd.index + 1 } }) := by
  simp only [loadRecord, ht, loadStation, hx, hok, if_true]
  rw [← ht]
  rfl

theorem loadRecord_station_range {bs : List Byte} {s : State} (ht : s.cmd.table = .stations)
    (h : ∀ x, stationOf bs = some x → stationOk x = false) : loadRecord bs s = (some .range, s) := by
  simp only [loadRecord, ht, loadStation]
  cases hx : stationOf bs with
  | none => rfl
  | some x => simp only [h x hx, Bool.false_eq_true, if_false]

/-- A lane with a record of the table, which closes it or opens it (R115). -/
def Lane.loaded (l : Lane) (x : LaneRec) : Lane := { l with cfg := x, closed := !x.initOpen }

theorem loadRecord_lane {bs : List Byte} {x : LaneRec} {s : State} (ht : s.cmd.table = .lanes)
    (hx : laneRecOf bs = some x) (hok : laneRecOk s.cmd.index x = true) :
    loadRecord bs s = (none, (laneUpdate s.cmd.index (·.loaded x) s).setCmd { s.cmd with index := s.cmd.index + 1 }) := by
  have hcmd : (laneUpdate s.cmd.index (·.loaded x) s).cmd = s.cmd :=
    (cmd_of_core (core_laneUpdate ..))
  have hload : loadLane s.cmd.index bs s = (none, laneUpdate s.cmd.index (·.loaded x) s) := by
    simp only [loadLane, hx, hok, if_true]
    rfl
  simp only [loadRecord, ht, hload]
  rw [hcmd, ← ht]

theorem loadRecord_lane_range {bs : List Byte} {s : State} (ht : s.cmd.table = .lanes)
    (h : ∀ x, laneRecOf bs = some x → laneRecOk s.cmd.index x = false) : loadRecord bs s = (some .range, s) := by
  simp only [loadRecord, ht, loadLane]
  cases hx : laneRecOf bs with
  | none => rfl
  | some x => simp only [h x hx, Bool.false_eq_true, if_false]

/-- A parameter can be written in the run state: one that is not marked C in every one (R204). -/
def ParamWritable (s : State) (i : Nat) : Prop := configOnly i = false ∨ s.run.st = .config

theorem loadRecord_param_state {bs : List Byte} {s : State} (ht : s.cmd.table = .params)
    (hc : configOnly s.cmd.index = true) (hs : s.run.st ≠ .config) : loadRecord bs s = (some .state, s) := by
  simp [loadRecord, ht, loadParam, hc, hs]

theorem loadRecord_param_range {bs : List Byte} {s : State} (ht : s.cmd.table = .params)
    (hc : ParamWritable s s.cmd.index) (hp : paramOk s.params s.cmd.index (wordAt bs 0) = false) :
    loadRecord bs s = (some .range, s) := by
  have hn : (configOnly s.cmd.index && decide (s.run.st ≠ .config)) = false := by rcases hc with h | h <;> simp [h]
  simp only [loadRecord, ht, loadParam, hn, hp, Bool.false_eq_true, if_false]

/-! ## What a written parameter leaves alone -/

theorem withParam_tables (s : State) (i v : Nat) : (s.withParam i v).trk = s.trk ∧ (s.withParam i v).ord = s.ord ∧
    (s.withParam i v).lan = s.lan ∧ (s.withParam i v).fpl = s.fpl ∧ (s.withParam i v).gtc = s.gtc ∧
    (s.withParam i v).sgt = s.sgt ∧ (s.withParam i v).ntq = s.ntq := by
  unfold State.withParam
  dsimp only
  repeat' split
  all_goals exact ⟨rfl, rfl, rfl, rfl, rfl, rfl, rfl⟩

/-- A parameter without an effect of its own only takes the value. -/
theorem withParam_plain {i : Nat} (hi : i ∉ [2, 3, 4, 5, 9, 17, 18, 20]) (s : State) (v : Nat) :
    s.withParam i v = { s with params := s.params.put i v } := by
  unfold State.withParam
  split <;> first | rfl | (exfalso; revert hi; decide)

/-! ## The reply to PUT RECORDS -/

/-- The data of the reply when `n` records have been written (R204). -/
def putData (s : State) (n : Nat) : List Byte :=
  [BitVec.ofNat 8 n, BitVec.ofNat 8 s.cmd.table.code, BitVec.ofNat 8 (s.cmd.index + n)]

/-- A state in which `n` records of the table have been written, with the pointer past them. -/
structure Wrote (s : State) (n : Nat) (t : State) : Prop where
  table : t.cmd.table = s.cmd.table
  index : t.cmd.index = s.cmd.index + n

theorem Wrote.data {s t : State} {n : Nat} (h : Wrote s n t) : loadData n t = putData s n := by
  rw [loadData_eq, h.table, h.index, putData]

theorem exec_putRecords {tag : Byte} {bs : List Byte} {s t : State} (h : Takes s tag) {e : Option Result} {n : Nat}
    (hc : cmdPutRecords bs s = loadReply (e, n, t)) (ht : Wrote s n t) :
    exec (.putRecords tag bs) s = .next ((takeReached t).replied 3 tag (e.getD .done) (putData s n)) := by
  rw [exec_taken (i := .putRecords tag bs) (c := ⟨3, tag, false, cmdPutRecords bs⟩) rfl h rfl]
  simp only [hc, loadReply, ht.data]

theorem wrote_zero (s : State) : Wrote s 0 s := ⟨rfl, rfl⟩

theorem exec_putRecords_refused {tag : Byte} {bs : List Byte} {s : State} (h : Takes s tag) {e : Result} {d : List Byte}
    (hc : cmdPutRecords bs s = (s, e, d)) : exec (.putRecords tag bs) s = .next (s.replied 3 tag e d) := by
  have hq : nextDue (cmdPutRecords bs s).1 = none := by rw [hc]; exact h.settled
  rw [exec_taken_quiet (i := .putRecords tag bs) (c := ⟨3, tag, false, cmdPutRecords bs⟩) rfl h rfl hq]
  simp only [hc]

section Records
variable {tag : Byte} {as bs : List Byte} {s : State} (h : Takes s tag)
  (hb : bs.length = s.cmd.table.recordBytes) (hw : Writable s)
include h hb hw

theorem putRecords_written {t : State} (hi : s.cmd.index < s.cmd.table.size) (hl : loadRecord bs s = (none, t))
    (ht : Wrote s 1 t) :
    exec (.putRecords tag bs) s = .next ((takeReached t).replied 3 tag .done (putData s 1)) :=
  exec_putRecords h (by rw [cmdPutRecords_one hb hw hi, loadRecords_written hl, loadRecords_nil]) ht

theorem putRecords_refused {e : Result} (hi : s.cmd.index < s.cmd.table.size) (hl : loadRecord bs s = (some e, s)) :
    exec (.putRecords tag bs) s = .next (s.replied 3 tag e (putData s 0)) :=
  exec_putRecords_refused h (by
    rw [cmdPutRecords_one hb hw hi, loadRecords_refused hl, loadReply, (wrote_zero s).data]
    rfl)

theorem putRecords_two {t u : State} (ha : as.length = s.cmd.table.recordBytes)
    (hi : s.cmd.index + 1 < s.cmd.table.size) (hl : loadRecord as s = (none, t)) (hm : loadRecord bs t = (none, u))
    (hu : Wrote s 2 u) :
    exec (.putRecords tag (as ++ bs)) s = .next ((takeReached u).replied 3 tag .done (putData s 2)) :=
  exec_putRecords h (by
    rw [cmdPutRecords_two ha hb hw hi, loadRecords_written hl, loadRecords_written hm, loadRecords_nil]) hu

theorem putRecords_second_refused {t : State} {e : Result} (ha : as.length = s.cmd.table.recordBytes)
    (hi : s.cmd.index + 1 < s.cmd.table.size) (hl : loadRecord as s = (none, t)) (hm : loadRecord bs t = (some e, t))
    (ht : Wrote s 1 t) :
    exec (.putRecords tag (as ++ bs)) s = .next ((takeReached t).replied 3 tag e (putData s 1)) :=
  exec_putRecords h (by
    rw [cmdPutRecords_two ha hb hw hi, loadRecords_written hl, loadRecords_refused hm]) ht

end Records

/-! ## O53 -/

theorem wrote_withParam {s : State} {i : Nat} (v n : Nat) (hi : s.cmd.index + n = i + 1) :
    Wrote s n ((s.withParam i v).pointed (i + 1)) := ⟨(withParam_rest s i v).2.1, hi.symm⟩

theorem loadRecord_written {bs : List Byte} {s : State} {i : Nat} (ht : s.cmd.table = .params) (hi : s.cmd.index = i)
    (hc : ParamWritable s i) (hp : paramOk s.params i (wordAt bs 0) = true) :
    loadRecord bs s = (none, (s.withParam i (wordAt bs 0)).pointed (i + 1)) := by
  subst hi
  exact loadRecord_param ht hc hp

theorem pointHeld_mrgLook {s : State} (h : PointHeld s) : PointHeld (mrgLook s) := ⟨h.computed, h.withdrawn⟩

/-- The gap target that the spacing gives with a parameter loaded (R152). -/
def gapWith (s : State) (i v : Nat) : Nat := min ((s.params.put i v).gmin + s.reg.s / 4) (s.params.put i v).gmax

theorem withParam_gap_same {s : State} {i v : Nat} (hi : i = 4 ∨ i = 5) (h : gapWith s i v = s.reg.g) :
    s.withParam i v = { s with params := s.params.put i v } := by
  rcases hi with rfl | rfl <;> exact if_pos h

theorem withParam_gap_new {s : State} {i v : Nat} (hi : i = 4 ∨ i = 5) (h : gapWith s i v ≠ s.reg.g) :
    s.withParam i v =
      mrgLook (indLook { s with params := s.params.put i v, reg := { s.reg with g := gapWith s i v } }) := by
  rcases hi with rfl | rfl <;> exact if_neg h

theorem withParam_gap_rest {s : State} {i v : Nat} (hi : i = 4 ∨ i = 5) :
    s.withParam i v = { s with
      params := s.params.put i v
      reg := { s.reg with g := gapWith s i v }
      ind := { s.ind with
        releasePoint := (s.withParam i v).ind.releasePoint, holePoint := (s.withParam i v).ind.holePoint }
      mrg := { s.mrg with mergePoint := (s.withParam i v).mrg.mergePoint } } := by
  by_cases h : gapWith s i v = s.reg.g
  · rw [withParam_gap_same hi h, h]
  · rw [withParam_gap_new hi h]
    rfl

/-- Settles O53: each parameter by its row of the table, and the second of two records on the state that the first has
left. -/
theorem loadedParametersActAtOnce : Obligations.LoadedParametersActAtOnce := by
  intro tag bs i s h _ htab hidx hlen hi v p u data hok hcfg done
  have hw : Writable s := .inl htab
  have hb : bs.length = s.cmd.table.recordBytes := by rw [htab]; exact hlen
  have hsize : s.cmd.table.size = 22 := by rw [htab]; rfl
  have hdata (n : Nat) : putData s n = data n := by rw [putData, htab, hidx]; rfl
  have hload := loadRecord_written htab hidx hcfg hok
  have hwrote : Wrote s 1 ((s.withParam i v).pointed (i + 1)) := wrote_withParam v 1 (by omega)
  have hdone : exec (.putRecords tag bs) s = done (s.withParam i v) := by
    rw [putRecords_written h hb hw (by omega) hload hwrote, hdata]
    rfl
  obtain ⟨hparams, htable, hst, _⟩ := withParam_rest s i v
  refine ⟨?vref, fun hgap => ⟨fun hsame => ?same, _, hdone, withParam_gap_rest hgap⟩, ?interval, ?idle, ?park, ?link,
    fun hplain => ?plain, hdone, fun hgap hne => ?held, ?second⟩
  case vref => rintro (rfl | rfl) <;> exact hdone
  case same => rw [hdone, withParam_gap_same hgap hsame]
  case interval => rintro rfl; exact hdone
  case idle =>
    rintro rfl waits
    refine ⟨fun hno => ?_, fun hv hyes => ?_⟩
    · rw [hdone]
      exact congrArg done (if_neg fun hyes => hno.elim hyes.1 fun hn => hn hyes.2)
    · rw [hdone]
      exact congrArg done (if_pos ⟨hv, hyes⟩)
  case park => rintro rfl; exact hdone
  case link => rintro rfl; exact hdone
  case plain => rw [hdone, withParam_plain hplain]
  case held =>
    have hp : PointHeld (s.withParam i v) := by
      rw [withParam_gap_new hgap hne]
      exact pointHeld_mrgLook (pointHeld_indLook _)
    exact ⟨hp.computed, hp.withdrawn⟩
  case second =>
    intro cs hcs hroom w both stopped
    have htab' : ((s.withParam i v).pointed (i + 1)).cmd.table = .params := htable.trans htab
    have hst' : ((s.withParam i v).pointed (i + 1)).run.st = s.run.st := hst
    have hcs' : cs.length = s.cmd.table.recordBytes := by rw [htab]; exact hcs
    refine ⟨fun hc hp => ?_, fun hc hp => ?_, fun hc hs => ?_⟩
    · have hm := loadRecord_written (bs := cs) htab' rfl (hc.imp_right hst'.trans) (hparams.symm ▸ hp)
      rw [putRecords_two h hcs' hw hb (by omega) hload hm ⟨(withParam_rest _ _ _).2.1.trans (htab'.trans htab.symm),
        by rw [hidx]; rfl⟩, hdata]
      rfl
    · have hm := loadRecord_param_range (bs := cs) htab' (hc.imp_right hst'.trans) (hparams.symm ▸ hp)
      rw [putRecords_second_refused h hcs' hw hb (by omega) hload hm hwrote, hdata]
    · have hm := loadRecord_param_state (bs := cs) htab' hc (hst' ▸ hs)
      rw [putRecords_second_refused h hcs' hw hb (by omega) hload hm hwrote, hdata]

/-! ## O52: the pointer and the mask -/

theorem tableOf_code (t : Table) : tableOf t.code = some t := by cases t <;> rfl

theorem tableOf_none {n : Nat} (h : n < 1 ∨ 3 < n) : tableOf n = none := by
  unfold tableOf
  rw [if_neg (by omega), if_neg (by omega), if_neg (by omega)]

theorem exec_setPointer {tag : Byte} {s : State} (h : Takes s tag) {t : Table} {index : Nat} (hi : index < t.size) :
    exec (.setPointer tag t.code index) s = .next (State.replied { s with cmd := { s.cmd with table := t, index := index } }
      2 tag .done [BitVec.ofNat 8 t.code, BitVec.ofNat 8 index]) := by
  have hc : cmdSetPointer t.code index s = (s.setCmd { s.cmd with table := t, index := index }, .done,
      [BitVec.ofNat 8 t.code, BitVec.ofNat 8 index]) := by
    simp only [cmdSetPointer, tableOf_code, hi, if_true, bytesOf_one]
    rfl
  have hq : nextDue (cmdSetPointer t.code index s).1 = none := by
    rw [hc]
    exact (nextDue_setCmd s _).trans h.settled
  rw [exec_taken_quiet (i := .setPointer tag t.code index) (c := ⟨2, tag, false, cmdSetPointer t.code index⟩) rfl h rfl hq]
  simp only [hc]
  rfl

theorem exec_setPointer_range {tag : Byte} {s : State} (h : Takes s tag) {table index : Nat}
    (hc : cmdSetPointer table index s = refuse .range s) :
    exec (.setPointer tag table index) s = .next (s.replied 2 tag .range []) := by
  have hq : nextDue (cmdSetPointer table index s).1 = none := by
    rw [hc]
    exact h.settled
  rw [exec_taken_quiet (i := .setPointer tag table index) (c := ⟨2, tag, false, cmdSetPointer table index⟩) rfl h rfl hq]
  simp only [hc]
  rfl

theorem exec_noticeMask {tag : Byte} {s : State} (h : Takes s tag) (mask : Byte) :
    exec (.noticeMask tag mask) s = .next (State.replied { s with ntq := { s.ntq with mask := mask } } 18 tag .done [mask]) :=
  exec_taken_quiet (i := .noticeMask tag mask) (c := ⟨18, tag, false, cmdNoticeMask mask⟩) rfl h rfl
    ((nextDue_setNtq s _).trans h.settled)

/-! ## O52: station records -/

/-- The state with a station record written at the pointer. -/
def State.stationPut (s : State) (x : Station) : State :=
  { s with pos := { s.pos with map := vset s.pos.map s.cmd.index x }, cmd := { s.cmd with index := s.cmd.index + 1 } }

theorem nextDue_stationPut (s : State) (x : Station) : nextDue (s.stationPut x) = nextDue s :=
  nextDue_congr rfl rfl rfl rfl rfl (fun _ => rfl) rfl rfl rfl rfl

section Stations
variable {tag : Byte} {as bs : List Byte} {x y : Station} {s : State} (h : Takes s tag) (ht : s.cmd.table = .stations)
  (hs : s.run.st = .config) (hb : bs.length = 11)
include h ht hs hb

theorem putRecords_station (hi : s.cmd.index < 28) (hx : stationOf bs = some x) (hok : stationOk x = true) :
    exec (.putRecords tag bs) s = .next ((s.stationPut x).replied 3 tag .done (putData s 1)) := by
  rw [putRecords_written h (by rw [ht]; exact hb) (.inr hs) (by rw [ht]; exact hi) (loadRecord_station ht hx hok)
    ⟨rfl, rfl⟩]
  exact congrArg (fun u => Host.Outcome.next (State.replied u 3 tag .done (putData s 1)))
    (takeReached_of_none ((nextDue_stationPut s x).trans h.settled))

theorem putRecords_station_range (hi : s.cmd.index < 28) (hno : ∀ x, stationOf bs = some x → stationOk x = false) :
    exec (.putRecords tag bs) s = .next (s.replied 3 tag .range (putData s 0)) :=
  putRecords_refused h (by rw [ht]; exact hb) (.inr hs) (by rw [ht]; exact hi) (loadRecord_station_range ht hno)

theorem putRecords_stations (ha : as.length = 11) (hi : s.cmd.index + 1 < 28) (hx : stationOf as = some x)
    (hxok : stationOk x = true) (hy : stationOf bs = some y) (hyok : stationOk y = true) :
    exec (.putRecords tag (as ++ bs)) s = .next (((s.stationPut x).stationPut y).replied 3 tag .done (putData s 2)) := by
  have hm := loadRecord_station (s := s.stationPut x) ht hy hyok
  rw [putRecords_two h (by rw [ht]; exact hb) (.inr hs) (by rw [ht]; exact ha) (by rw [ht]; exact hi)
    (loadRecord_station ht hx hxok) hm ⟨rfl, rfl⟩]
  exact congrArg (fun u => Host.Outcome.next (State.replied u 3 tag .done (putData s 2))) (takeReached_of_none
    ((nextDue_stationPut _ y).trans ((nextDue_stationPut s x).trans h.settled)))

end Stations

/-! ## O52: lane records -/

/-- The state with a lane record written at the pointer. -/
def State.lanePut (s : State) (x : LaneRec) : State :=
  (laneUpdate s.cmd.index (·.loaded x) s).setCmd { s.cmd with index := s.cmd.index + 1 }

@[simp] theorem ord_laneUpdate (n : Nat) (f : Lane → Lane) (s : State) : (laneUpdate n f s).ord = s.ord := by
  have plan {u v : State} (h : v.planCore = u.planCore) : v.ord = u.ord := by
    simp only [State.planCore, Prod.mk.injEq] at h
    exact h.2.2.1
  have hw (u : State) : (withdrawLane n u).ord = u.ord := plan (planCore_withdrawLane n u)
  have hp (u : State) : (planLane n u).ord = u.ord := plan (planCore_planLane n u)
  have hn (x : Notice) (u : State) : (notify x u).ord = u.ord := by rw [notify_rest]
  have hl (b : Bool) (u : State) : (sendLamp n b u).ord = u.ord := by
    unfold sendLamp
    split
    · rw [modLane, placeControl_rest]
      rfl
    · rfl
  simp only [laneUpdate, apply_ite State.ord, hp, hw, hn, hl, ite_self]
  rfl

/-- What a lane record leaves alone. -/
structure LaneLoaded (i : Nat) (x : LaneRec) (s t : State) : Prop where
  cfg    : (laneOf t i).cfg = x
  closed : (laneOf t i).closed = !x.initOpen
  occ    : (laneOf t i).occ = (laneOf s i).occ
  others : ∀ m, m ≠ i → laneOf t m = laneOf s m
  pos    : t.pos = s.pos
  params : t.params = s.params
  ord    : t.ord = s.ord

theorem laneLoaded_lanePut (s : State) (x : LaneRec) (hi : s.cmd.index < 17) :
    LaneLoaded s.cmd.index x s (s.lanePut x) := by
  have hlane : laneOf (s.lanePut x) s.cmd.index = _ := laneOf_laneUpdate s.cmd.index (·.loaded x) s hi
  have hcore := core_laneUpdate s.cmd.index (·.loaded x) s
  simp only [State.core, Prod.mk.injEq] at hcore
  obtain ⟨_, hpos, hparams, _⟩ := hcore
  exact ⟨by rw [hlane]; rfl, by rw [hlane]; rfl, by rw [hlane]; rfl, fun m hm => laneOf_laneUpdate_ne _ m _ s hm,
    hpos, hparams, ord_laneUpdate ..⟩

theorem lampFollows_lanePut (s : State) (x : LaneRec) (hi : s.cmd.index < 17) :
    LampFollows s.cmd.index s (s.lanePut x) := by
  have h := lampFollows_laneUpdate s.cmd.index (·.loaded x) s hi rfl
  exact ⟨h.crossed, h.stayed⟩

theorem laneChanged_lanePut (s : State) (x : LaneRec) (hi : s.cmd.index < 17) (ht : s.trk.list = [])
    (hq : queueOf s s.cmd.index = []) :
    LaneChanged s.cmd.index ((laneOf s s.cmd.index).loaded x) (s.setCmd { s.cmd with index := s.cmd.index + 1 })
      (s.lanePut x) :=
  (laneUpdate_of_empty s.cmd.index (·.loaded x) s hi ht hq).withCmd _ _ rfl

section Lanes
variable {tag : Byte} {as bs : List Byte} {x y : LaneRec} {s : State} (h : Takes s tag) (ht : s.cmd.table = .lanes)
  (hs : s.run.st = .config) (hb : bs.length = 5)
include h ht hs hb

theorem putRecords_lane (hi : s.cmd.index < 17) (hx : laneRecOf bs = some x) (hok : laneRecOk s.cmd.index x = true) :
    exec (.putRecords tag bs) s = .next ((takeReached (s.lanePut x)).replied 3 tag .done (putData s 1)) :=
  putRecords_written h (by rw [ht]; exact hb) (.inr hs) (by rw [ht]; exact hi) (loadRecord_lane ht hx hok) ⟨rfl, rfl⟩

theorem putRecords_lane_range (hi : s.cmd.index < 17)
    (hno : ∀ x, laneRecOf bs = some x → laneRecOk s.cmd.index x = false) :
    exec (.putRecords tag bs) s = .next (s.replied 3 tag .range (putData s 0)) :=
  putRecords_refused h (by rw [ht]; exact hb) (.inr hs) (by rw [ht]; exact hi) (loadRecord_lane_range ht hno)

theorem putRecords_lanes (ha : as.length = 5) (hi : s.cmd.index + 1 < 17) (hx : laneRecOf as = some x)
    (hxok : laneRecOk s.cmd.index x = true) (hy : laneRecOf bs = some y) (hyok : laneRecOk (s.cmd.index + 1) y = true) :
    exec (.putRecords tag (as ++ bs)) s =
      .next ((takeReached ((s.lanePut x).lanePut y)).replied 3 tag .done (putData s 2)) :=
  putRecords_two h (by rw [ht]; exact hb) (.inr hs) (by rw [ht]; exact ha) (by rw [ht]; exact hi)
    (loadRecord_lane ht hx hxok) (loadRecord_lane (s := s.lanePut x) ht hy hyok) ⟨rfl, rfl⟩

end Lanes

/-! ## O52 -/

/-- Settles O52: by the table that the pointer names, each with one record and with two. -/
theorem loadingCommands : Obligations.LoadingCommands := by
  intro tag s h
  refine ⟨?pointer, fun table index hout => ?noTable, exec_noticeMask h, fun bs => ?_⟩
  case pointer =>
    rintro _ index t rfl
    refine ⟨exec_setPointer h, fun hout => exec_setPointer_range h ?_⟩
    simp only [cmdSetPointer, tableOf_code, if_neg (Nat.not_lt.mpr hout)]
  case noTable => exact exec_setPointer_range h (by simp only [cmdSetPointer, tableOf_none hout])
  intro k i data
  refine ⟨?format, ?refused, ?station, ?stations, ?lane, ?lanes, ?param, ?params⟩
  case format => exact fun h1 h2 => exec_putRecords_refused h (cmdPutRecords_format h1 h2)
  case refused =>
    refine fun hwhole => ⟨fun ht hs => ?_, fun hw hbeyond => ?_⟩
    · rw [exec_putRecords_refused h (cmdPutRecords_state hwhole ht hs), (wrote_zero s).data]
      rfl
    · rw [exec_putRecords_refused h (cmdPutRecords_beyond hwhole hw hbeyond), (wrote_zero s).data]
      rfl
  case station =>
    exact fun ht hs hb hi => ⟨fun x hx hok => putRecords_station h ht hs hb hi hx hok,
      putRecords_station_range h ht hs hb hi⟩
  case stations =>
    exact fun as x y ht hs ha hb hi hx hxok hy hyok => putRecords_stations h ht hs hb ha hi hx hxok hy hyok
  case lane =>
    refine fun ht hs hb hi => ⟨fun x hx hok => ?_, putRecords_lane_range h ht hs hb hi⟩
    have hl := laneLoaded_lanePut s x hi
    exact ⟨s.lanePut x, putRecords_lane h ht hs hb hi hx hok, hl.cfg, hl.closed, hl.occ, hl.others, rfl, hl.pos, hl.params,
      hl.ord, lampFollows_lanePut s x hi, laneChanged_lanePut s x hi⟩
  case lanes =>
    intro as x y ht hs ha hb hi hx hxok hy hyok
    have hl := laneLoaded_lanePut s x (by omega)
    have hm := laneLoaded_lanePut (s.lanePut x) y hi
    have hfirst : laneOf ((s.lanePut x).lanePut y) s.cmd.index = laneOf (s.lanePut x) s.cmd.index :=
      hm.others _ (Nat.ne_of_lt (Nat.lt_succ_self _))
    have hsecond : laneOf (s.lanePut x) (i + 1) = laneOf s (i + 1) := hl.others _ (Nat.ne_of_gt (Nat.lt_succ_self _))
    refine ⟨(s.lanePut x).lanePut y, putRecords_lanes h ht hs hb ha hi hx hxok hy hyok, hfirst ▸ hl.cfg, hfirst ▸ hl.closed,
      hfirst ▸ hl.occ, hm.cfg, hm.closed, hm.occ.trans (congrArg Lane.occ hsecond), fun m h1 h2 => ?_, rfl,
      hm.pos.trans hl.pos, hm.params.trans hl.params, hm.ord.trans hl.ord, fun htrk hq1 hq2 => ?_⟩
    · exact (hm.others m h2).trans (hl.others m h1)
    · have hfst := laneChanged_lanePut s x (by omega) htrk hq1
      have htrk' : (s.lanePut x).trk.list = [] := by rw [hfst.rest]; exact htrk
      have hq' : queueOf (s.lanePut x) (i + 1) = [] := by rw [hfst.rest]; exact hq2
      have hsnd := laneChanged_lanePut (s.lanePut x) y hi htrk' hq'
      exact ⟨s.lanePut x, hfst, hsecond ▸ hsnd⟩
  case param =>
    intro ht hb hi v
    have hb' : bs.length = s.cmd.table.recordBytes := by rw [ht]; exact hb
    have hi' : s.cmd.index < s.cmd.table.size := by rw [ht]; exact hi
    refine ⟨fun hc hs => putRecords_refused h hb' (.inl ht) hi' (loadRecord_param_state ht hc hs),
      fun hc hp => putRecords_refused h hb' (.inl ht) hi' (loadRecord_param_range ht hc hp), fun hc hp => ?_⟩
    have hput := putRecords_written h hb' (.inl ht) hi' (loadRecord_written ht rfl hc hp) (wrote_withParam v 1 rfl)
    refine ⟨⟨_, hput, (withParam_rest s i v).1, rfl, withParam_tables s i v⟩, fun hplain => ?_⟩
    rw [hput, withParam_plain hplain]
    rfl
  case params =>
    intro as ht ha hb hi p hc hp hp2
    have ha' : as.length = s.cmd.table.recordBytes := by rw [ht]; exact ha
    have hb' : bs.length = s.cmd.table.recordBytes := by rw [ht]; exact hb
    have hi' : s.cmd.index + 1 < s.cmd.table.size := by rw [ht]; exact hi
    obtain ⟨hparams, htable, hst, _⟩ := withParam_rest s i (wordAt as 0)
    have hc1 : ParamWritable s i := hc.imp_left And.left
    have hc2 : ParamWritable (s.withParam i (wordAt as 0)) (i + 1) := hc.imp And.right hst.trans
    let t := (s.withParam i (wordAt as 0)).pointed (i + 1)
    have hm := loadRecord_written (s := t) (bs := bs) (htable.trans ht) rfl hc2 (hparams.symm ▸ hp2)
    obtain ⟨hparams2, htable2, _, _⟩ := withParam_rest t (i + 1) (wordAt bs 0)
    obtain ⟨htrk, hord, hlan, hfpl, hgtc, hsgt, hntq⟩ := withParam_tables s i (wordAt as 0)
    obtain ⟨htrk2, hord2, hlan2, hfpl2, hgtc2, hsgt2, hntq2⟩ := withParam_tables t (i + 1) (wordAt bs 0)
    refine ⟨_, putRecords_two h hb' (.inl ht) ha' hi' (loadRecord_written ht rfl hc1 hp) hm ⟨htable2.trans htable, rfl⟩,
      hparams2.trans (congrArg (·.put (i + 1) (wordAt bs 0)) hparams), rfl, htrk2.trans htrk, hord2.trans hord,
      hlan2.trans hlan, hfpl2.trans hfpl, hgtc2.trans hgtc, hsgt2.trans hsgt, hntq2.trans hntq⟩

end Sys2Proof.Machine
end

section
/-! PROOFS. Accrual started or resumed: the interval points that whole intervals in the count bring at once (O31, O54,
R165 to R167). -/

namespace Sys2Proof.Machine

/-! ## Notices queued before and after one that counts -/

/-- At most `k` notices have been queued in the step from `s` to `t`, and the odometer stands. -/
structure Appends (k : Nat) (s t : State) : Prop where
  odo     : t.pos.odo = s.pos.odo
  enabled : ∀ c, t.ntq.enabled c = s.ntq.enabled c
  queued  : ∃ new : List Queued, t.ntq.queue = s.ntq.queue ++ new ∧ new.length ≤ k

theorem Appends.of_eq {s t : State} (ho : t.pos.odo = s.pos.odo) (hn : t.ntq = s.ntq) : Appends 0 s t :=
  ⟨ho, fun _ => by rw [hn], [], by rw [hn, List.append_nil], le_rfl⟩

theorem Appends.trans {j k : Nat} {s t u : State} (h : Appends j s t) (h' : Appends k t u) : Appends (j + k) s u := by
  obtain ⟨ho, he, new, hq, hl⟩ := h
  obtain ⟨ho', he', new', hq', hl'⟩ := h'
  refine ⟨ho'.trans ho, fun c => (he' c).trans (he c), new ++ new', by rw [hq', hq, List.append_assoc], ?_⟩
  rw [List.length_append]
  omega

theorem Appends.mono {j k : Nat} {s t : State} (h : Appends j s t) (hjk : j ≤ k) : Appends k s t := by
  obtain ⟨ho, he, new, hq, hl⟩ := h
  exact ⟨ho, he, new, hq, hl.trans hjk⟩

theorem appends_notify (n : Notice) (s : State) : Appends 1 s (notify n s) := by
  rw [notify_eq]
  refine ⟨rfl, fun c => ?_, ?_⟩
  · unfold Ntq.after
    repeat' split
    all_goals rfl
  · unfold Ntq.after
    repeat' split
    · exact ⟨[⟨s.pos.odo, n⟩], rfl, le_rfl⟩
    · exact ⟨[], by simp, Nat.zero_le _⟩
    · exact ⟨[], by simp, Nat.zero_le _⟩

/-- A notice is told in a step that queues it with few notices before it. -/
theorem Appends.told {j k : Nat} {n : Notice} {s u t : State} (h : Appends j s u) (hj : j < 16)
    (h' : Appends k (notify n u) t) : Told n s t := by
  intro he hroom
  obtain ⟨ho, hen, new, hq, hl⟩ := h
  obtain ⟨_, _, new', hq', _⟩ := h'
  have hlen : u.ntq.queue.length < Config.maxNotices := by
    rw [hq, List.length_append]
    omega
  have hu : (notify n u).ntq.queue = u.ntq.queue ++ [⟨s.pos.odo, n⟩] := by
    rw [notify_eq, ← ho]
    simp only [Ntq.after, hen, he, if_true, hlen]
  exact ⟨new ++ [⟨s.pos.odo, n⟩] ++ new', by rw [hq', hu, hq]; simp, by simp⟩

/-! ## One interval point -/

/-- The interval point rises the debt to 8 with no hole outstanding, so that a hole is requested (R167). -/
def forces (m : Mrg) (debt : Int) : Bool := debt = 8 && m.hole = .none

/-- MRG's registers when the interval points up to `since` have been taken, the debt being `debt` (R165 to R167). -/
def Mrg.accrued (m : Mrg) (since : Int) (interval : Nat) (debt : Int) : Mrg :=
  { m with
    count := 0, since := since, interval := some (since + interval), debt := debt
    hole := if forces m debt then .requested else m.hole }

/-- Interval points up to `since` have been taken in the step from `s` to `t` with the READY `y` pending, and have brought the
debt to `debt`. -/
structure Accrued (y : Ready) (since : Int) (debt : Int) (s t : State) : Prop where
  mrg    : t.mrg = s.mrg.accrued since s.params.mergeInterval debt
  wait   : forces s.mrg debt = true → t.ind.holeWait = some y.len
  still  : forces s.mrg debt = false → t.ind = s.ind
  notice : t.ntq = if forces s.mrg debt then (notify (.forced debt y.len y.tote) s).ntq else s.ntq
  rest   : t = { s with mrg := t.mrg, ind := t.ind, ntq := t.ntq }

theorem forceMerge_forced {s : State} {y : Ready} (hr : s.mrg.ready = some y) (hf : forces s.mrg s.mrg.debt = true) :
    (forceMerge s).mrg = { s.mrg with hole := .requested } ∧ (forceMerge s).ind.holeWait = some y.len ∧
      (forceMerge s).ntq = (notify (.forced s.mrg.debt y.len y.tote) s).ntq ∧
      forceMerge s = { s with mrg := (forceMerge s).mrg, ind := (forceMerge s).ind, ntq := (forceMerge s).ntq } := by
  have hc : s.mrg.debt = 8 ∧ s.mrg.hole = .none := by simpa [forces] using hf
  unfold forceMerge
  simp only [hr, if_pos hc, notify_eq]
  exact ⟨rfl, rfl, rfl, rfl⟩

theorem forceMerge_quiet {s : State} (hf : forces s.mrg s.mrg.debt = false) : forceMerge s = s := by
  have hc : ¬(s.mrg.debt = 8 ∧ s.mrg.hole = .none) := by simpa [forces] using hf
  unfold forceMerge
  split
  · rw [if_neg hc]
  · rfl

theorem accrued_intervalDue {s : State} {y : Ready} {p : Int} (hr : s.mrg.ready = some y) (hi : s.mrg.interval = some p)
    (hp : p ≤ now s) : Accrued y p (debtUp s.mrg.debt) s (intervalDue s) := by
  let u := s.setMrg { s.mrg with
    count := 0, debt := debtUp s.mrg.debt, interval := some (p + s.params.mergeInterval), since := p }
  have hdue : intervalDue s = forceMerge u := by
    simp only [intervalDue, hi, whenDue, due, decide_eq_true hp, if_true]
    rfl
  rw [hdue]
  cases hf : forces s.mrg (debtUp s.mrg.debt) with
  | true =>
      obtain ⟨hm, hw, hn, hrest⟩ := forceMerge_forced (s := u) (y := y) hr hf
      refine ⟨?_, fun _ => hw, fun h => by simp [hf] at h, ?_, ?_⟩
      · rw [hm]
        simp [u, Mrg.accrued, hf]
      · rw [hn, hf]
        exact ntq_notify_congr _ rfl rfl
      · exact hrest
  | false =>
      rw [forceMerge_quiet hf]
      exact ⟨by simp [u, Mrg.accrued, hf], fun h => by simp [hf] at h, fun _ => rfl, by simp [u, hf], rfl⟩

/-! ## The points that a resume sets at or below the odometer -/

theorem debtUp_eq (d : Int) : debtUp d = min 8 (d + 1) := by
  unfold debtUp
  split <;> omega

/-- A hole that an earlier point has requested, or that is not outstanding, decides whether a further point requests one. -/
theorem forces_accrued {m : Mrg} {p : Int} {I : Nat} {d d' : Int} :
    forces (m.accrued p I d) d' = (!forces m d && forces m d') := by
  have hhole : (m.accrued p I d).hole = if forces m d then .requested else m.hole := rfl
  cases hf : forces m d with
  | true => rw [forces, hhole, hf]; simp
  | false => rw [forces, hhole, hf, Bool.not_false, Bool.true_and]; rfl

theorem accrued_accrued {m : Mrg} {p q : Int} {I : Nat} {d d' : Int} (h : forces m d = true → d' = d) :
    (m.accrued p I d).accrued q I d' = m.accrued q I d' := by
  have hhole : ((m.accrued p I d).accrued q I d').hole = (m.accrued q I d').hole := by
    show (if forces (m.accrued p I d) d' then _ else if forces m d then _ else _) = if forces m d' then _ else _
    rw [forces_accrued]
    cases hf : forces m d with
    | true => simp [h hf, hf]
    | false => simp
  calc (m.accrued p I d).accrued q I d'
      = { (m.accrued q I d') with hole := ((m.accrued p I d).accrued q I d').hole } := rfl
    _ = m.accrued q I d' := by rw [hhole]

theorem forces_debtUp {m : Mrg} {d : Int} (h : forces m d = true) : debtUp d = d := by
  have hd : d = 8 ∧ m.hole = .none := by simpa [forces] using h
  simp [debtUp, hd.1]

/-- A further point reached goes on from the points before it. -/
theorem Accrued.next {y : Ready} {p : Int} {d : Int} {s t : State} (h : Accrued y p d s t)
    (hr : s.mrg.ready = some y) (hp : p + s.params.mergeInterval ≤ now s) :
    Accrued y (p + s.params.mergeInterval) (debtUp d) s (intervalDue t) := by
  obtain ⟨hm, hw, hstill, hn, hrest⟩ := h
  have hpar : t.params = s.params := by rw [hrest]
  have hpos : t.pos = s.pos := by rw [hrest]
  have hnow : now t = now s := by rw [hrest]; rfl
  have hready : t.mrg.ready = some y := by rw [hm]; exact hr
  have hinterval : t.mrg.interval = some (p + s.params.mergeInterval) := by rw [hm]; rfl
  have hdebt : t.mrg.debt = d := by rw [hm]; rfl
  obtain ⟨hm', hw', hstill', hn', hrest'⟩ := accrued_intervalDue hready hinterval (hnow ▸ hp)
  rw [hdebt, hm, forces_accrued] at hw' hstill' hn'
  rw [hdebt, hpar] at hm'
  have hall : intervalDue t = { s with
      mrg := (intervalDue t).mrg, ind := (intervalDue t).ind, ntq := (intervalDue t).ntq } := by
    rw [hrest', hrest]
  cases hf : forces s.mrg d with
  | true =>
      have hup := forces_debtUp hf
      rw [hf, Bool.not_true, Bool.false_and] at hw' hstill' hn'
      rw [hup] at hm' ⊢
      refine ⟨?_, fun _ => (congrArg Ind.holeWait (hstill' rfl)).trans (hw hf), fun h => by simp [hf] at h, ?_, hall⟩
      · rw [hm', hm, accrued_accrued fun _ => rfl]
      · rw [hn', hn]
        rfl
  | false =>
      rw [hf, Bool.not_false, Bool.true_and] at hw' hstill' hn'
      rw [hf] at hn
      refine ⟨?_, hw', fun h => (hstill' h).trans (hstill hf), ?_, hall⟩
      · rw [hm', hm, accrued_accrued fun h => by simp [hf] at h]
      · rw [hn', hn, ntq_notify_congr (s := s) (t := t) _ hn hpos]
        rfl

/-- The interval points that whole intervals in the count bring, `j` of them and one more. -/
theorem accrued_repeat {s : State} {y : Ready} (hr : s.mrg.ready = some y) {p : Int} (hi : s.mrg.interval = some p)
    (j : Nat) (hp : p + (j * s.params.mergeInterval : Nat) ≤ now s) :
    Accrued y (p + (j * s.params.mergeInterval : Nat)) (min 8 (s.mrg.debt + (j + 1))) s
      (Nat.repeat intervalDue (j + 1) s) := by
  induction j with
  | zero =>
      have h := accrued_intervalDue hr hi (by simpa using hp)
      rw [debtUp_eq] at h
      simpa [Nat.repeat] using h
  | succ j ih =>
      have hstep : (j + 1) * s.params.mergeInterval = j * s.params.mergeInterval + s.params.mergeInterval :=
        Nat.succ_mul _ _
      rw [hstep] at hp ⊢
      push_cast at hp ⊢
      have h := (ih (by push_cast; omega)).next hr (by push_cast; omega)
      push_cast at h
      have hd : debtUp (min 8 (s.mrg.debt + (j + 1))) = min 8 (s.mrg.debt + (j + 1 + 1)) := by
        rw [debtUp_eq]
        omega
      rw [hd, add_assoc] at h
      exact h

/-! ## Accrual started or resumed -/

/-- MRG with accrual at the interval less the count, before any point that this brings is taken (R165). -/
def State.accruing (s : State) : State :=
  s.setMrg { s.mrg with interval := some (now s + s.params.mergeInterval - s.mrg.count), since := now s }

theorem startAccrual_running {s : State} (h : s.mrg.interval.isSome) : startAccrual s = s := by
  unfold startAccrual
  rw [if_pos h]

theorem startAccrual_paused {s : State} (h : s.mrg.interval = none) :
    startAccrual s = Nat.repeat intervalDue (s.mrg.count / s.params.mergeInterval) s.accruing := by
  unfold startAccrual
  rw [if_neg (by simp [h])]
  rfl

/-- The point that the last whole interval in the count brings. -/
def lastPoint (s : State) : Int :=
  (s.pos.odo : Int) + ((s.mrg.count / s.params.mergeInterval) * s.params.mergeInterval : Nat) - s.mrg.count

/-- Accrual resumed with a count of less than the interval brings no point. -/
theorem startAccrual_ahead {s : State} (h : s.mrg.interval = none) (hc : s.mrg.count < s.params.mergeInterval) :
    startAccrual s = s.accruing := by
  rw [startAccrual_paused h, Nat.div_eq_of_lt hc]
  rfl

/-- Accrual resumed with a count of an interval or more takes a point for each whole interval that it holds. -/
theorem accrued_startAccrual {s : State} {y : Ready} (h : s.mrg.interval = none) (hr : s.mrg.ready = some y)
    (hI : 0 < s.params.mergeInterval) (hc : s.params.mergeInterval ≤ s.mrg.count) :
    Accrued y (lastPoint s) (min 8 (s.mrg.debt + (s.mrg.count / s.params.mergeInterval : Nat))) s.accruing
      (startAccrual s) := by
  obtain ⟨j, hj⟩ : ∃ j, s.mrg.count / s.params.mergeInterval = j + 1 :=
    ⟨_, (Nat.succ_pred_eq_of_pos (Nat.div_pos hc hI)).symm⟩
  have hle : (j + 1) * s.params.mergeInterval ≤ s.mrg.count := hj ▸ Nat.div_mul_le_self ..
  have hstep : (j + 1) * s.params.mergeInterval = j * s.params.mergeInterval + s.params.mergeInterval := Nat.succ_mul _ _
  have hpoint : lastPoint s = (now s + s.params.mergeInterval - s.mrg.count) + (j * s.params.mergeInterval : Nat) := by
    rw [lastPoint, hj, hstep, now]
    push_cast
    omega
  rw [startAccrual_paused h, hj, hpoint]
  push_cast
  have hrep := accrued_repeat (s := s.accruing) hr rfl j (by
    show now s + s.params.mergeInterval - s.mrg.count + (j * s.params.mergeInterval : Nat) ≤ now s
    omega)
  exact_mod_cast hrep

/-- A state with MRG, IND and the notices of another. -/
def State.spurOf (t s : State) : State := { t with mrg := s.mrg, ind := s.ind, ntq := s.ntq }

theorem spurOf_forceMerge (t s : State) : (forceMerge t).spurOf s = t.spurOf s := by
  unfold forceMerge
  split
  · split
    · rw [notify_eq]
      rfl
    · rfl
  · rfl

theorem spurOf_intervalDue (t s : State) : (intervalDue t).spurOf s = t.spurOf s := by
  unfold intervalDue
  split
  · exact whenDue_keeps (·.spurOf s) _ _ t fun u => spurOf_forceMerge _ s
  · rfl

/-- What starting accrual leaves alone: everything but MRG, IND and the notices. -/
theorem startAccrual_rest (s : State) : startAccrual s = { s with
    mrg := (startAccrual s).mrg, ind := (startAccrual s).ind, ntq := (startAccrual s).ntq } := by
  have h : (startAccrual s).spurOf s = s := by
    unfold startAccrual
    split
    · rfl
    · exact repeat_keeps (·.spurOf s) (spurOf_intervalDue · s) _ _
  calc startAccrual s = { (startAccrual s).spurOf s with
        mrg := (startAccrual s).mrg, ind := (startAccrual s).ind, ntq := (startAccrual s).ntq } := rfl
    _ = _ := by rw [h]

/-- Accrual started or resumed with the READY `y` pending, in the words of the statements. -/
theorem accrues_startAccrual {s : State} {y : Ready} (h : s.mrg.interval = none) (hr : s.mrg.ready = some y) :
    Accrues y s (startAccrual s) := by
  constructor
  · intro hc
    rw [startAccrual_ahead h hc]
    exact ⟨rfl, rfl, rfl, rfl⟩
  · intro hI hc k next
    obtain ⟨hm, hw, _, _, _⟩ := accrued_startAccrual h hr hI hc
    have hnext : next = lastPoint s + s.params.mergeInterval := by
      simp only [next, k, lastPoint, Nat.succ_mul]
      push_cast
      omega
    rw [hnext]
    have hdebt : (startAccrual s).mrg.debt = min 8 (s.mrg.debt + (k : Nat)) := by rw [hm]; rfl
    have hhole : (startAccrual s).mrg.hole =
      if forces s.mrg (startAccrual s).mrg.debt then .requested else s.mrg.hole := by rw [hdebt, hm]; rfl
    refine ⟨by rw [hm]; rfl, by rw [hm]; simp [Mrg.accrued], by rw [hm]; rfl, hdebt, fun h8 hnone => ?_, fun hno => ?_⟩
    · have hf : forces s.mrg (startAccrual s).mrg.debt = true := by simp [forces, h8, hnone]
      exact ⟨by rw [hhole, if_pos hf], hw (hdebt ▸ hf)⟩
    · have hf : ¬forces s.mrg (startAccrual s).mrg.debt = true := by
        simp only [forces, Bool.and_eq_true, decide_eq_true_eq, not_and_or]
        exact hno
      rw [hhole, if_neg hf]

/-- Where starting accrual requests a hole, it has queued the FORCED notice. -/
theorem ntq_startAccrual {s : State} {y : Ready} (h : s.mrg.interval = none) (hr : s.mrg.ready = some y)
    (hnone : s.mrg.hole = .none) (hreq : (startAccrual s).mrg.hole = .requested) :
    (startAccrual s).ntq = (notify (.forced 8 y.len y.tote) s).ntq := by
  rcases Nat.eq_zero_or_pos s.params.mergeInterval with hI | hI
  · have hstart : startAccrual s = s.accruing := by rw [startAccrual_paused h, hI, Nat.div_zero]; rfl
    rw [hstart] at hreq
    exact absurd (hnone.symm.trans hreq) (by decide)
  rcases Nat.lt_or_ge s.mrg.count s.params.mergeInterval with hc | hc
  · rw [startAccrual_ahead h hc] at hreq
    exact absurd (hnone.symm.trans hreq) (by decide)
  · obtain ⟨hm, _, _, hn, _⟩ := accrued_startAccrual h hr hI hc
    let d := min 8 (s.mrg.debt + (s.mrg.count / s.params.mergeInterval : Nat))
    have hf : forces s.mrg d = true := by
      by_contra hno
      have hhole : (startAccrual s).mrg.hole = if forces s.mrg d then .requested else s.mrg.hole := by rw [hm]; rfl
      rw [hhole, if_neg hno] at hreq
      exact absurd (hnone.symm.trans hreq) (by decide)
    have h8 : d = 8 := by
      have : d = 8 ∧ s.mrg.hole = .none := by simpa [forces] using hf
      exact this.1
    have hn' : (startAccrual s).ntq = (notify (.forced d y.len y.tote) s.accruing).ntq := hn.trans (if_pos hf)
    rw [hn', h8]
    exact ntq_notify_congr _ rfl rfl

/-- What starting accrual leaves of MRG. -/
theorem startAccrual_ready (s : State) : (startAccrual s).mrg.ready = s.mrg.ready ∧
    (startAccrual s).mrg.last = s.mrg.last ∧ (startAccrual s).mrg.grant = s.mrg.grant := by
  have hforce (t : State) : ((forceMerge t).mrg.ready, (forceMerge t).mrg.last, (forceMerge t).mrg.grant) =
      (t.mrg.ready, t.mrg.last, t.mrg.grant) := by
    unfold forceMerge
    split
    · split
      · rw [notify_eq]
        rfl
      · rfl
    · rfl
  have hpoint (t : State) : ((intervalDue t).mrg.ready, (intervalDue t).mrg.last, (intervalDue t).mrg.grant) =
      (t.mrg.ready, t.mrg.last, t.mrg.grant) := by
    unfold intervalDue
    split
    · exact whenDue_keeps (fun t => (t.mrg.ready, t.mrg.last, t.mrg.grant)) _ _ t fun u => hforce _
    · rfl
  have h : ((startAccrual s).mrg.ready, (startAccrual s).mrg.last, (startAccrual s).mrg.grant) =
      (s.mrg.ready, s.mrg.last, s.mrg.grant) := by
    unfold startAccrual
    split
    · rfl
    · exact repeat_keeps (fun t => (t.mrg.ready, t.mrg.last, t.mrg.grant)) hpoint _ _
  simpa only [Prod.mk.injEq] using h

/-- Accrual is told by the registers of debt, the hole wait, the odometer and the merge interval. -/
theorem Accrues.of_eq {y : Ready} {s s' t t' : State} (h : Accrues y s t) (hp : s'.params = s.params)
    (ho : s'.pos.odo = s.pos.odo) (hsc : s'.mrg.count = s.mrg.count) (hsd : s'.mrg.debt = s.mrg.debt)
    (hsh : s'.mrg.hole = s.mrg.hole) (ht : t'.spurBook = t.spurBook) (hw : t'.ind.holeWait = t.ind.holeWait) : Accrues y s' t' := by
  simp only [State.spurBook, Mrg.mk.injEq] at ht
  obtain ⟨_, _, _, _, htd, htc, hts, hti, hth, _⟩ := ht
  constructor
  · rw [hp, ho, hsc, hsd, hsh, hti, htc, htd, hth]
    exact h.ahead
  · rw [hp, ho, hsc, hsd, hsh, hti, htc, htd, hth, hts, hw]
    exact h.reached

end Sys2Proof.Machine
end

section
/-! PROOFS. The reports of the spur: SPUR READY, SPUR MERGED and SPUR EMPTY (O31). -/

namespace Sys2Proof.Machine

/-! ## What the operations of run control change -/

/-- A station frame that POS hands over is taken by the block that owns it. -/
theorem exec_handed {i : Instr} {src : Nat} {f : FrameKind} (hi : frameRow i = some (src, f)) {s : State} {x : Station}
    {k : Nat} (h : Hands s src f x k) : exec i s = .next (frameAct i x k (s.pos.odo - x.lat) s) := by
  rw [exec_frame hi, takeReached_of_none h.settled]
  simp only [stationFrame, h.runs, h.found, h.kind, if_true]
  rfl

theorem runIdle_rest (s : State) : runIdle s = { s with run := { s.run with idle := (runIdle s).run.idle } } := by
  unfold runIdle
  repeat' split
  all_goals rfl

theorem enterState_rest (n : RunState) (r : Option Rule) (c : StateCause) (s : State) : enterState n r c s = { s with
    run := (enterState n r c s).run, ind := (enterState n r c s).ind, mrg := (enterState n r c s).mrg
    ntq := (enterState n r c s).ntq } := by
  unfold enterState
  dsimp only
  rw [runIdle_rest, notify_eq]
  rfl

theorem ntq_enterState (n : RunState) (r : Option Rule) (c : StateCause) (s : State) :
    (enterState n r c s).ntq = (notify (.state s.run.st n c) s).ntq := by
  unfold enterState
  dsimp only
  rw [runIdle_rest]
  exact ntq_notify_congr _ rfl rfl

theorem sendLamp_rest (n : Nat) (b : Bool) (s : State) :
    sendLamp n b s = { s with lan := (sendLamp n b s).lan, rng := (sendLamp n b s).rng } := by
  cases h : gateRec s n with
  | none => rw [sendLamp_unmapped h]
  | some d =>
      rw [sendLamp_mapped h, modLane, placeControl_rest]
      rfl

theorem foldl_rest {α : Type} {f : State → α → State}
    (h : ∀ t a, f t a = { t with lan := (f t a).lan, rng := (f t a).rng }) (l : List α) (s : State) :
    l.foldl f s = { s with lan := (l.foldl f s).lan, rng := (l.foldl f s).rng } := by
  induction l generalizing s with
  | nil => rfl
  | cons a l ih =>
      rw [List.foldl_cons, ih, h s a]

theorem sendLamps_rest (s : State) : sendLamps s = { s with lan := (sendLamps s).lan, rng := (sendLamps s).rng } :=
  foldl_rest (fun t n => sendLamp_rest n _ t) _ s

theorem broadcastWake_rest (s : State) :
    broadcastWake s = { s with run := { s.run with asleep := false }, rng := (broadcastWake s).rng } := by
  rw [broadcastWake, placeControl_rest]
  rfl

/-- Run control when the wake begins (R183). -/
def Run.waking (r : Run) (time : Nat) (c : StateCause) : Run :=
  { r with asleep := false, stage := .pending, endPoint := none, wake := some time, wakeCause := some c }

/-- The state in which the wake has begun, but for the lamps. -/
def State.woken (s : State) (c : StateCause) : State :=
  wakeEyes ((broadcastWake s).setRun (s.run.waking s.params.wakeTime c))

theorem woken_rest (c : StateCause) (s : State) : s.woken c = { s with
    run := s.run.waking s.params.wakeTime c, sgt := (s.woken c).sgt, rng := (broadcastWake s).rng } := by
  have h : s.woken c = { broadcastWake s with run := s.run.waking s.params.wakeTime c, sgt := (s.woken c).sgt } := rfl
  rw [h, broadcastWake_rest]

theorem beginWake_eq (c : StateCause) (s : State) : beginWake c s = sendLamps (s.woken c) := by
  rw [beginWake, broadcastWake_rest, State.woken, broadcastWake_rest]
  rfl

theorem beginWake_rest (c : StateCause) (s : State) : beginWake c s = { s with
    run := s.run.waking s.params.wakeTime c, lan := (beginWake c s).lan, sgt := (beginWake c s).sgt
    rng := (beginWake c s).rng } := by
  rw [beginWake_eq]
  have hlamps := sendLamps_rest (s.woken c)
  have hsgt : (sendLamps (s.woken c)).sgt = (s.woken c).sgt := by rw [hlamps]
  calc sendLamps (s.woken c)
      = { s.woken c with lan := (sendLamps (s.woken c)).lan, rng := (sendLamps (s.woken c)).rng } := hlamps
    _ = _ := by rw [hsgt, woken_rest]

/-! ## A READY report to run control -/

/-- Under AUTO, with no wake wait running, a READY report ends a stop (R180, R183). -/
theorem runReady_cases (s : State) : runReady s = s ∨
    (s.run.st = .parked ∧ runReady s = enterState .starting none .ready s) ∨
    ((s.run.st = .parked ∨ s.run.st = .dark) ∧ runReady s = beginWake .ready s) := by
  unfold runReady resumeFrom
  split
  · split
    · next hst =>
        split
        · exact .inr (.inr ⟨.inl hst, rfl⟩)
        · exact .inr (.inl ⟨hst, rfl⟩)
    · next hst => exact .inr (.inr ⟨.inr hst, rfl⟩)
    · exact .inl rfl
  · exact .inl rfl

theorem runReady_auto {s : State} (hr : s.run.rule = some .auto) (hw : s.run.wake = none) :
    runReady s = resumeFrom .ready s := by
  simp [runReady, hr, hw]

theorem runReady_rest (s : State) : runReady s = { s with
    run := (runReady s).run, ind := (runReady s).ind, mrg := (runReady s).mrg, ntq := (runReady s).ntq
    lan := (runReady s).lan, sgt := (runReady s).sgt, rng := (runReady s).rng } := by
  rcases runReady_cases s with h | ⟨_, h⟩ | ⟨_, h⟩
  · rw [h]
  · rw [h, enterState_rest]
  · rw [h, beginWake_rest]

theorem appends_runReady (s : State) : Appends 1 s (runReady s) := by
  have hpos : (runReady s).pos = s.pos := by rw [runReady_rest]
  rcases runReady_cases s with h | ⟨_, h⟩ | ⟨_, h⟩
  · rw [h]
    exact (Appends.of_eq rfl rfl).mono (Nat.zero_le _)
  · have hn : (runReady s).ntq = (notify (.state s.run.st .starting .ready) s).ntq := by rw [h, ntq_enterState]
    exact (appends_notify _ s).trans (.of_eq (by rw [hpos, notify_rest]) hn)
  · have hn : (runReady s).ntq = s.ntq := by rw [h, beginWake_rest]
    exact (Appends.of_eq (by rw [hpos]) hn).mono (Nat.zero_le _)

theorem config_runReady (s : State) : (runReady s).run.st = .config ↔ s.run.st = .config := by
  rcases runReady_cases s with h | ⟨hst, h⟩ | ⟨hst, h⟩
  · rw [h]
  · rw [h, (run_enterState ..).1, hst]
    decide
  · rw [h, beginWake_rest]
    rfl

/-! ## A SPUR READY -/

/-- The state in which MRG has taken a SPUR READY and RUN has been told (R156, R179, R183). -/
def State.spurTold (s : State) (y : Ready) : State :=
  runReady (runIdle (s.setMrg { s.mrg with ready := some y, last := some y }))

/-- What a SPUR READY does to accrual (R165, R170). -/
def accrueOutOfConfig (s : State) : State := if s.run.st = .config then s else startAccrual s

theorem takeSpurReady_eq (tote len : Nat) (s : State) :
    takeSpurReady tote len s = mrgLook (accrueOutOfConfig (s.spurTold ⟨readNumber tote, len⟩)) := rfl

section SpurReady
variable (s : State) (y : Ready)

theorem spurTold_rest : s.spurTold y = { s with
    run := (s.spurTold y).run, ind := (s.spurTold y).ind, mrg := (s.spurTold y).mrg, ntq := (s.spurTold y).ntq
    lan := (s.spurTold y).lan, sgt := (s.spurTold y).sgt, rng := (s.spurTold y).rng } := by
  have h := runReady_rest (runIdle (s.setMrg { s.mrg with ready := some y, last := some y }))
  rw [runIdle_rest] at h
  rw [State.spurTold, runIdle_rest]
  exact h

theorem spurBook_spurTold :
    (s.spurTold y).spurBook = { s.mrg with ready := some y, last := some y, mergePoint := none } := by
  simp [State.spurTold]

theorem config_spurTold : (s.spurTold y).run.st = .config ↔ s.run.st = .config := by
  rw [State.spurTold, config_runReady, runIdle_rest]
  rfl

theorem appends_spurTold : Appends 1 s (s.spurTold y) := by
  have hidle : Appends 0 s (runIdle (s.setMrg { s.mrg with ready := some y, last := some y })) := by
    rw [runIdle_rest]
    exact .of_eq rfl rfl
  exact hidle.trans (appends_runReady _)

/-- Under AUTO a SPUR READY ends a stop (R180, R183). -/
theorem run_spurTold (hr : s.run.rule = some .auto) (hw : s.run.wake = none) :
    (s.run.st = .parked → s.run.asleep = false → (s.spurTold y).run.st = .starting ∧ (s.spurTold y).run.belt = true ∧
      (s.spurTold y).run.rule = none ∧ (s.spurTold y).run.settle = some (s.pos.odo + s.params.settleDist)) ∧
    (s.run.st = .dark ∨ (s.run.st = .parked ∧ s.run.asleep = true) → (s.spurTold y).run.st = s.run.st ∧
      (s.spurTold y).run.asleep = false ∧ (s.spurTold y).run.stage = .pending ∧
      (s.spurTold y).run.wake = some s.params.wakeTime ∧ (s.spurTold y).run.wakeCause = some .ready) := by
  let u := s.setMrg { s.mrg with ready := some y, last := some y }
  have hu : runIdle u = { u with run := { u.run with idle := (runIdle u).run.idle } } := runIdle_rest u
  have htold : s.spurTold y = resumeFrom .ready (runIdle u) := runReady_auto (by rw [hu]; exact hr) (by rw [hu]; exact hw)
  have hst : (runIdle u).run.st = s.run.st := by rw [hu]; rfl
  have hasleep : (runIdle u).run.asleep = s.run.asleep := by rw [hu]; rfl
  constructor
  · intro hp ha
    have h : s.spurTold y = enterState .starting none .ready (runIdle u) := by
      rw [htold]
      simp only [resumeFrom, hst, hp, hasleep, ha, Bool.false_eq_true, if_false]
    rw [h, enterState_quiet _ _ _ _ (by decide), hu]
    unfold State.entered
    rw [notify_eq]
    exact ⟨rfl, rfl, rfl, rfl⟩
  · intro hd
    have h : s.spurTold y = beginWake .ready (runIdle u) := by
      rw [htold]
      rcases hd with hd | ⟨hp, ha⟩
      · simp only [resumeFrom, hst, hd]
      · simp only [resumeFrom, hst, hp, hasleep, ha, if_true]
    rw [h, beginWake_rest, hu]
    exact ⟨rfl, rfl, rfl, rfl, rfl⟩

end SpurReady

theorem accrueOutOfConfig_rest (s : State) : accrueOutOfConfig s = { s with
    mrg := (accrueOutOfConfig s).mrg, ind := (accrueOutOfConfig s).ind, ntq := (accrueOutOfConfig s).ntq } := by
  unfold accrueOutOfConfig
  split
  · rfl
  · exact startAccrual_rest s

theorem accrueOutOfConfig_ready (s : State) : (accrueOutOfConfig s).mrg.ready = s.mrg.ready ∧
    (accrueOutOfConfig s).mrg.last = s.mrg.last ∧ (accrueOutOfConfig s).mrg.grant = s.mrg.grant := by
  unfold accrueOutOfConfig
  split
  · exact ⟨rfl, rfl, rfl⟩
  · exact startAccrual_ready s

/-- MRG, IND and the notices apart, a SPUR READY changes what telling RUN changes. -/
theorem takeSpurReady_rest (tote len : Nat) (s : State) : takeSpurReady tote len s =
    { s.spurTold ⟨readNumber tote, len⟩ with
      ind := (takeSpurReady tote len s).ind, mrg := (takeSpurReady tote len s).mrg
      ntq := (takeSpurReady tote len s).ntq } := by
  let u := s.spurTold ⟨readNumber tote, len⟩
  let v := accrueOutOfConfig u
  have ht : takeSpurReady tote len s = mrgLook v := takeSpurReady_eq tote len s
  have hv : v = { u with mrg := v.mrg, ind := v.ind, ntq := v.ntq } := accrueOutOfConfig_rest u
  rw [ht]
  calc mrgLook v = { v with mrg := (mrgLook v).mrg } := rfl
    _ = { u with mrg := (mrgLook v).mrg, ind := v.ind, ntq := v.ntq } :=
      congrArg (fun z : State => { z with mrg := (mrgLook v).mrg }) hv

theorem takeSpurReady_tables (tote len : Nat) (s : State) :
    let y : Ready := ⟨readNumber tote, len⟩
    let t := takeSpurReady tote len s
    t.mrg.ready = some y ∧ t.mrg.last = some y ∧ t.mrg.grant = s.mrg.grant ∧ t.trk = s.trk ∧ t.ord = s.ord ∧
      t.fpl = s.fpl ∧ t.gtc = s.gtc := by
  intro y t
  have hbook := spurBook_spurTold s y
  simp only [State.spurBook, Mrg.mk.injEq] at hbook
  obtain ⟨hready, hlast, hgrant, _⟩ := hbook
  obtain ⟨hr, hl, hg⟩ := accrueOutOfConfig_ready (s.spurTold y)
  have ht : t = mrgLook (accrueOutOfConfig (s.spurTold y)) := takeSpurReady_eq tote len s
  have hrest : t = _ := takeSpurReady_rest tote len s
  have htold := spurTold_rest s y
  refine ⟨?_, ?_, ?_, by rw [hrest, htold], by rw [hrest, htold], by rw [hrest, htold], by rw [hrest, htold]⟩
  · rw [ht]; exact hr.trans hready
  · rw [ht]; exact hl.trans hlast
  · rw [ht]; exact hg.trans hgrant

/-- A SPUR READY where accrual runs already, or in CONFIG, leaves the debt's registers alone (R165). -/
theorem takeSpurReady_still {tote len : Nat} {s : State} (h : s.mrg.interval.isSome ∨ s.run.st = .config) :
    let t := takeSpurReady tote len s
    t.mrg.count = s.mrg.count ∧ t.mrg.interval = s.mrg.interval ∧ t.mrg.debt = s.mrg.debt ∧ t.mrg.hole = s.mrg.hole := by
  intro t
  let y : Ready := ⟨readNumber tote, len⟩
  have hbook := spurBook_spurTold s y
  simp only [State.spurBook, Mrg.mk.injEq] at hbook
  obtain ⟨_, _, _, _, hd, hc, _, hi, hh, _⟩ := hbook
  have hstill : accrueOutOfConfig (s.spurTold y) = s.spurTold y := by
    unfold accrueOutOfConfig
    split
    · rfl
    · next hst =>
        rcases h with h | h
        · exact startAccrual_running (hi ▸ h)
        · exact absurd ((config_spurTold s y).mpr h) hst
  have ht : t = mrgLook (s.spurTold y) := by rw [← hstill]; exact takeSpurReady_eq tote len s
  rw [ht]
  exact ⟨hc, hi, hd, hh⟩

/-- A SPUR READY out of CONFIG with accrual paused starts or resumes it (R165 to R167). -/
theorem takeSpurReady_accrues {tote len : Nat} {s : State} (hi : s.mrg.interval = none) (hst : s.run.st ≠ .config) :
    let y : Ready := ⟨readNumber tote, len⟩
    let t := takeSpurReady tote len s
    Accrues y s t ∧ (s.mrg.hole = .none → t.mrg.hole = .requested → Told (.forced 8 len y.tote) s t) := by
  intro y t
  have hbook := spurBook_spurTold s y
  simp only [State.spurBook, Mrg.mk.injEq] at hbook
  obtain ⟨hready, _, _, _, hdebt, hcount, _, hinterval, hhole, _⟩ := hbook
  have hgo : accrueOutOfConfig (s.spurTold y) = startAccrual (s.spurTold y) :=
    if_neg fun h => hst ((config_spurTold s y).mp h)
  have ht : t = mrgLook (startAccrual (s.spurTold y)) := by rw [← hgo]; exact takeSpurReady_eq tote len s
  have htold := spurTold_rest s y
  have hacc := accrues_startAccrual (hinterval.trans hi) hready
  constructor
  · rw [ht]
    exact hacc.of_eq (by rw [htold]) (by rw [htold]) hcount.symm hdebt.symm hhole.symm (spurBook_mrgLook _) rfl
  · intro hnone hreq
    have hn := ntq_startAccrual (hinterval.trans hi) hready (hhole.trans hnone) (by rw [ht] at hreq; exact hreq)
    refine (appends_spurTold s y).told (k := 0) (by omega) (.of_eq ?_ ?_)
    · rw [ht, notify_rest]
      show (startAccrual (s.spurTold y)).pos.odo = _
      rw [startAccrual_rest]
    · rw [ht]
      exact hn

/-! ## A SPUR EMPTY -/

theorem takeSpurEmpty_taken (s : State) :
    let t := takeSpurEmpty s
    t.mrg.ready = none ∧ t.mrg.mergePoint = none ∧
      t.mrg.debt = min s.mrg.debt 0 ∧ t.mrg.count = 0 ∧ t.mrg.interval = none ∧ t.mrg.last = s.mrg.last ∧
      t.mrg.grant = s.mrg.grant ∧ t.mrg.hole = (if s.mrg.hole = .requested then .none else s.mrg.hole) ∧
      (s.mrg.hole = .requested → t.ind.holeWait = none ∧ t.ind.holePoint = none) ∧
      (s.mrg.hole ≠ .requested → t.ind = s.ind) ∧ t.trk = s.trk ∧ t.ord = s.ord ∧ t.lan = s.lan ∧ t.fpl = s.fpl ∧
      t.gtc = s.gtc ∧ t.sgt = s.sgt ∧ t.ntq = s.ntq ∧ t.rng = s.rng := by
  intro t
  let u := s.setMrg { s.mrg with
    ready := none, mergePoint := none, debt := min s.mrg.debt 0, count := 0, interval := none }
  have ht : t = runIdle (withdrawRequest u) := rfl
  rw [ht, runIdle_rest]
  by_cases h : s.mrg.hole = .requested
  · have hw : withdrawRequest u = indLook ((u.setMrg { u.mrg with hole := .none }).setInd
        { u.ind with holeWait := none, holePoint := none }) := if_pos h
    rw [hw, if_pos h]
    exact ⟨rfl, rfl, rfl, rfl, rfl, rfl, rfl, rfl, fun _ => ⟨rfl, rfl⟩, fun hn => absurd h hn, rfl, rfl, rfl, rfl, rfl,
      rfl, rfl, rfl⟩
  · have hw : withdrawRequest u = u := if_neg h
    rw [hw, if_neg h]
    exact ⟨rfl, rfl, rfl, rfl, rfl, rfl, rfl, rfl, fun hr => absurd hr h, fun _ => rfl, rfl, rfl, rfl, rfl, rfl,
      rfl, rfl, rfl⟩

end Sys2Proof.Machine
end

section
/-! PROOFS. The record that a SPUR MERGED brings, and O31. -/

namespace Sys2Proof.Machine

/-! ## What an insertion leaves of the records -/

/-- The fields of a record that neither a plan nor a deadline changes. -/
def Rec.fixed (r : Rec) : Nat × Option Nat × Role × Reason × Option Nat × Nat × Int :=
  (r.id, r.tote, r.role, r.reason, r.dest, r.len, r.anchor)

/-- The records stand, in their order, but for the marks of plans and deadlines. -/
def SameRecords (s t : State) : Prop := t.trk.list.map Rec.fixed = s.trk.list.map Rec.fixed

theorem SameRecords.trans {s t u : State} (h : SameRecords s t) (h' : SameRecords t u) : SameRecords s u :=
  Eq.trans h' h

theorem sameRecords_of_trk {s t : State} (h : t.trk = s.trk) : SameRecords s t := by rw [SameRecords, h]

theorem SameRecords.length {s t : State} (h : SameRecords s t) : t.trk.list.length = s.trk.list.length := by
  simpa using congrArg List.length h

theorem SameRecords.mem {s t : State} (h : SameRecords s t) {r : Rec} (hr : r ∈ s.trk.list) :
    ∃ x ∈ t.trk.list, x.fixed = r.fixed := by
  have hmem : r.fixed ∈ t.trk.list.map Rec.fixed := by
    rw [h]
    exact List.mem_map_of_mem hr
  exact List.mem_map.mp hmem

theorem sameRecords_map {s t : State} {f : Rec → Rec} (hf : ∀ r, (f r).fixed = r.fixed)
    (ht : t.trk.list = s.trk.list.map f) : SameRecords s t := by
  rw [SameRecords, ht, List.map_map]
  exact List.map_congr_left fun r _ => hf r

theorem sameRecords_modRec (id : Nat) {f : Rec → Rec} (hf : ∀ r, (f r).fixed = r.fixed) (s : State) :
    SameRecords s (modRec id f s) := by
  refine sameRecords_map (f := fun r => if r.id = id then f r else r) (fun r => ?_) rfl
  split
  · exact hf r
  · rfl

theorem trk_driveGate (g : Nat) (b : Bool) (s : State) : (driveGate g b s).trk = s.trk := by
  unfold driveGate
  split
  · rw [placeControl_rest]
    rfl
  · rfl

theorem planning_sameRecords : Planning SameRecords where
  refl _ := rfl
  trans := SameRecords.trans
  queue _ _ _ := rfl
  mark s d why ids := by
    refine sameRecords_map (f := fun r =>
      if ids.contains r.id then { r with refusal := why, watch := some (nextPassage s r d.pos) } else r) (fun r => ?_) rfl
    split <;> rfl
  drive g b s := sameRecords_of_trk (trk_driveGate g b s)

theorem loadDeadline_rest (id p : Nat) (x : Int) (w : Nat) (s : State) :
    loadDeadline id p x w s = { s with trk := (loadDeadline id p x w s).trk } := by
  unfold loadDeadline
  split <;> rfl

theorem sameRecords_loadDeadline (id p : Nat) (x : Int) (w : Nat) (s : State) : SameRecords s (loadDeadline id p x w s) := by
  unfold loadDeadline
  split
  · exact sameRecords_modRec id (by exact fun r => rfl) s
  · exact sameRecords_modRec id (by exact fun r => rfl) s

theorem listChange_rest (s : State) : listChange s = { s with
    run := (listChange s).run, ind := (listChange s).ind, mrg := (mrgLook (reexamine s)).mrg
    ntq := (reexamine s).ntq } := by
  obtain ⟨ready, release, hole, ntq, h⟩ := reexamine_rest s
  rw [listChange, runIdle_rest, h]
  rfl

theorem listChange_fields (s : State) : (listChange s).pos = s.pos ∧ (listChange s).trk = s.trk ∧
    (listChange s).ord = s.ord ∧ (listChange s).mrg = (mrgLook (reexamine s)).mrg := by
  refine ⟨?_, ?_, ?_, ?_⟩ <;> rw [listChange_rest]

theorem loadDeadline_fields (id p : Nat) (x : Int) (w : Nat) (s : State) :
    let t := loadDeadline id p x w s
    t.pos = s.pos ∧ t.ord = s.ord ∧ t.mrg = s.mrg ∧ t.ntq = s.ntq := by
  intro t
  have ht : t = _ := loadDeadline_rest id p x w s
  refine ⟨?_, ?_, ?_, ?_⟩ <;> rw [ht]

theorem appends_reexamine (s : State) : Appends 1 s (reexamine s) := by
  have quiet : Appends 1 s (indLook s) := Appends.mono (j := 0) (.of_eq rfl rfl) (Nat.zero_le _)
  unfold reexamine
  split
  · exact quiet
  · next p _ =>
    dsimp only
    split
    · exact quiet
    · unfold notifySome
      split
      · next n _ =>
          let u := s.setInd { s.ind with ready := some ⟨p.ready, standingOf s p.ready⟩ }
          have hset : Appends 0 s u := .of_eq rfl rfl
          have hlook : Appends 0 (notify n u) (indLook (notify n u)) := .of_eq rfl rfl
          exact (hset.trans (appends_notify n u)).trans hlook
      · exact Appends.mono (j := 0) (.of_eq rfl rfl) (Nat.zero_le _)

theorem appends_listChange (s : State) : Appends 1 s (listChange s) :=
  (appends_reexamine s).trans (.of_eq (by
    obtain ⟨ready, release, hole, ntq, h⟩ := reexamine_rest s
    rw [listChange_rest, h]) (by rw [listChange_rest]))

/-! ## A RETURN record enters -/

/-- A number that a record carries already (R24). -/
def carried (s : State) (t : Option Nat) : Bool := t.any fun n => (carrier s n).isSome

/-- The record of a RETURN request: without its number where a record carries that (R24, R25). -/
def InsertReq.returned (q : InsertReq) (s : State) : Rec :=
  { q.record s.trk.nextId (normAnchor s (q.stamp - q.point)) with tote := if carried s q.tote then none else q.tote }

/-- The list with the record seated, before its deadline and its plan (R17). -/
def InsertReq.seated (q : InsertReq) (s : State) : State :=
  s.setTrk { s.trk with list := seatIn (q.returned s) s.trk.list, nextId := s.trk.nextId + 1 }

theorem settleNew_return {q : InsertReq} (hq : q.role = .ret) (s : State) :
    settleNew q (q.record s.trk.nextId (normAnchor s (q.stamp - q.point))) s =
      (s, q.returned s, if carried s q.tote then .duplicate else .taken) := by
  obtain ⟨role, reason, point, stamp, tote, len, measured⟩ := q
  subst hq
  cases tote with
  | none => rfl
  | some n =>
      cases hc : (carrier s n).isSome <;> simp [settleNew, InsertReq.returned, carried, hc, InsertReq.record]

theorem insertRec_return {q : InsertReq} (hq : q.role = .ret) {s : State} (hroom : s.trk.list.length < 96) :
    insertRec q s = (shadowRecheck s.trk.nextId (planReq s.trk.nextId (listChange
      (loadDeadline s.trk.nextId q.point q.stamp s.params.window (q.seated s)))),
      if carried s q.tote then .duplicate else .taken, some s.trk.nextId) := by
  unfold insertRec
  dsimp only
  rw [if_neg (by simpa [Config.maxRecords] using hroom), if_neg (by simp [hq]), settleNew_return hq, if_neg (by simp [hq])]
  rfl

/-- A RETURN record has entered the list in the step from `s` to `t` (R24, R25). -/
structure Returned (q : InsertReq) (s t : State) : Prop where
  length : t.trk.list.length = s.trk.list.length + 1
  record : ∃ r ∈ t.trk.list, r.fixed = (q.returned s).fixed
  ord    : t.ord = s.ord
  pos    : t.pos = s.pos
  point  : s.mrg.ready = none → t.mrg.mergePoint = none
  told   : Appends 1 s t

theorem planCore_fields {s t : State} (h : t.planCore = s.planCore) :
    t.pos = s.pos ∧ t.ord = s.ord ∧ t.mrg = s.mrg ∧ t.ntq = s.ntq := by
  have hc := core_of_planCore h
  simp only [State.planCore, State.core, Prod.mk.injEq] at h hc
  obtain ⟨_, _, hord, _, _, hmrg, _, hntq⟩ := h
  obtain ⟨_, hpos, _⟩ := hc
  exact ⟨hpos, hord, hmrg, hntq⟩

theorem returned_insertRec {q : InsertReq} (hq : q.role = .ret) {s : State} (htrk : TrkOk s.trk)
    (hroom : s.trk.list.length < 96) : Returned q s (insertRec q s).1 := by
  let a := q.seated s
  let b := loadDeadline s.trk.nextId q.point q.stamp s.params.window a
  let c := listChange b
  let t := shadowRecheck s.trk.nextId (planReq s.trk.nextId c)
  have ht : (insertRec q s).1 = t := congrArg Prod.fst (insertRec_return hq hroom)
  have hcore : t.planCore = c.planCore := (planCore_shadowRecheck ..).trans (planCore_planReq ..)
  obtain ⟨hpos, hord, hmrg, hntq⟩ := planCore_fields hcore
  obtain ⟨hcpos, hctrk, hcord, hcmrg⟩ : c.pos = b.pos ∧ c.trk = b.trk ∧ c.ord = b.ord ∧ c.mrg = _ := listChange_fields b
  obtain ⟨hbpos, hbord, hbmrg, hbntq⟩ : b.pos = s.pos ∧ b.ord = s.ord ∧ b.mrg = s.mrg ∧ b.ntq = s.ntq :=
    loadDeadline_fields ..
  have hsame : SameRecords a t := by
    have hplans : SameRecords c t := (planning_sameRecords.planReq _ c).trans (planning_sameRecords.shadowRecheck _ _)
    have hlist : SameRecords b c := sameRecords_of_trk hctrk
    exact ((sameRecords_loadDeadline ..).trans hlist).trans hplans
  have hseat : (seatIn (q.returned s) s.trk.list).Perm (q.returned s :: s.trk.list) := by
    refine (seatIn_perm ..).trans (List.Perm.of_eq ?_)
    congr 1
    exact List.filter_eq_self.mpr fun x hx => decide_eq_true (Nat.ne_of_lt (htrk.given x hx))
  rw [ht]
  refine ⟨?_, hsame.mem (hseat.mem_iff.mpr List.mem_cons_self), ?_, ?_, fun hready => ?_, ?_⟩
  · rw [hsame.length]
    exact hseat.length_eq
  · rw [hord, hcord, hbord]
  · rw [hpos, hcpos, hbpos]
  · obtain ⟨ready, release, hole, ntq, hre⟩ := reexamine_rest b
    have hnone : (reexamine b).mrg.ready = none := by
      rw [hre]
      show b.mrg.ready = none
      rw [hbmrg, hready]
    rw [hmrg, hcmrg]
    simp only [mrgLook, hnone]
    rfl
  · have hab : Appends 0 s b := .of_eq (by rw [hbpos]) hbntq
    have hct : Appends 0 c t := .of_eq (by rw [hpos]) hntq
    exact (hab.trans (appends_listChange b)).trans hct

/-! ## The record of a merged tote -/

/-- The insertion that MRG asks for when a tote has merged (R161). -/
def mergedReq (s : State) (tote : Option Nat) (len stamp : Nat) : InsertReq :=
  ⟨.ret, .empty, mergePos s, stamp, tote, len, true⟩

theorem insertMerged_full {s : State} (h : 96 ≤ s.trk.list.length) (tote : Option Nat) (len stamp : Nat) :
    insertMerged tote len stamp s = notify (.untracked tote (indexOf s .merge) (mergePos s)) s := by
  have hi : insertRec (mergedReq s tote len stamp) s = (s, .full, none) := by
    unfold insertRec
    exact if_pos h
  rw [mergedReq] at hi
  simp only [insertMerged, hi]

/-- The state in which the record of a merged tote has entered. -/
def State.mergedIn (s : State) (tote : Option Nat) (len stamp : Nat) : State := (insertRec (mergedReq s tote len stamp) s).1

theorem insertMerged_room {s : State} (h : s.trk.list.length < 96) (tote : Option Nat) (len stamp : Nat) :
    insertMerged tote len stamp s = if carried s tote then notify (.duplicate tote len .merge) (s.mergedIn tote len stamp)
      else s.mergedIn tote len stamp := by
  have hi := insertRec_return (q := mergedReq s tote len stamp) rfl h
  have hfst : (insertRec (mergedReq s tote len stamp) s).1 = s.mergedIn tote len stamp := rfl
  rw [hi] at hfst
  rw [mergedReq] at hi
  simp only [insertMerged, hi]
  rw [← hfst]
  cases carried s tote <;> rfl

/-- The registers of MRG in which a merged tote enters. -/
structure MergedFrom (s v : State) : Prop where
  pos    : v.pos = s.pos
  params : v.params = s.params
  trk    : v.trk = s.trk
  ord    : v.ord = s.ord
  ntq    : v.ntq = s.ntq

/-- What a step that has taken a merged tote in shares with the insertion of its record. -/
structure MergedTo (u t : State) : Prop where
  pos : t.pos = u.pos
  trk : t.trk = u.trk
  ord : t.ord = u.ord
  ntq : t.ntq = u.ntq

theorem ord_insertMerged (tote : Option Nat) (len stamp : Nat) {s : State} (htrk : TrkOk s.trk) :
    (insertMerged tote len stamp s).ord = s.ord := by
  rcases Nat.lt_or_ge s.trk.list.length 96 with h | h
  · have hin := (returned_insertRec (q := mergedReq s tote len stamp) rfl htrk h).ord
    rw [insertMerged_room h]
    split
    · rw [notify_rest]
      exact hin
    · exact hin
  · rw [insertMerged_full h, notify_rest]

theorem mergePoint_insertMerged (tote : Option Nat) (len stamp : Nat) {s : State} (htrk : TrkOk s.trk)
    (hr : s.mrg.ready = none) (hp : s.mrg.mergePoint = none) : (insertMerged tote len stamp s).mrg.mergePoint = none := by
  rcases Nat.lt_or_ge s.trk.list.length 96 with h | h
  · have hin := (returned_insertRec (q := mergedReq s tote len stamp) rfl htrk h).point hr
    rw [insertMerged_room h]
    split
    · rw [notify_rest]
      exact hin
    · exact hin
  · rw [insertMerged_full h, notify_rest]
    exact hp

section Merged
variable {s v t : State} {tote : Option Nat} {len stamp : Nat} (hv : MergedFrom s v)
  (ht : MergedTo (insertMerged tote len stamp v) t)
include hv ht

theorem merged_full (h : 96 ≤ s.trk.list.length) :
    t.trk = s.trk ∧ Told (.untracked tote (((firstOf s .merge).map (·.2)).getD 0) (mergePos s)) s t := by
  have hforce : v.pos.inForce = s.pos.inForce := by rw [hv.pos]
  have hfirst : firstOf v .merge = firstOf s .merge := by rw [firstOf, inForce, hforce]; rfl
  have hfull := insertMerged_full (s := v) (by rw [hv.trk]; exact h) tote len stamp
  have hnote : (Notice.untracked tote (indexOf v .merge) (mergePos v)) =
      .untracked tote (((firstOf s .merge).map (·.2)).getD 0) (mergePos s) := by
    rw [indexOf, mergePos, mergePos, hfirst]
  rw [hnote] at hfull
  constructor
  · rw [ht.trk, hfull, notify_rest]
    exact hv.trk
  · refine Appends.told (j := 0) (k := 0) (u := v) (.of_eq (by rw [hv.pos]) hv.ntq) (by omega) (.of_eq ?_ ?_)
    · rw [ht.pos, hfull]
    · rw [ht.ntq, hfull]

theorem merged_room (htrk : TrkOk s.trk) (h : s.trk.list.length < 96) :
    t.trk.list.length = s.trk.list.length + 1 ∧
      ∃ r ∈ t.trk.list, r.fixed = ((mergedReq s tote len stamp).returned s).fixed ∧
        (carried s tote = true → Told (.duplicate tote len .merge) s t) := by
  have hforce : v.pos.inForce = s.pos.inForce := by rw [hv.pos]
  have hreq : mergedReq v tote len stamp = mergedReq s tote len stamp := by
    rw [mergedReq, mergedReq, mergePos, mergePos, firstOf, firstOf, inForce, hforce]
    rfl
  have hcarried (n : Option Nat) : carried v n = carried s n := by simp only [carried, carrier, hv.trk]
  have hanchor (a : Int) : normAnchor v a = normAnchor s a := by
    simp only [normAnchor, posOf, now, hv.pos, hv.params]
  have hreturned : (mergedReq v tote len stamp).returned v = (mergedReq s tote len stamp).returned s := by
    rw [hreq, InsertReq.returned, InsertReq.returned, hanchor, hcarried, hv.trk]
  have hin := returned_insertRec (q := mergedReq v tote len stamp) rfl (hv.trk.symm ▸ htrk) (hv.trk.symm ▸ h)
  have hroom := insertMerged_room (s := v) (hv.trk.symm ▸ h) tote len stamp
  have hlist : t.trk = (v.mergedIn tote len stamp).trk := by
    rw [ht.trk, hroom]
    split
    · rw [notify_rest]
    · rfl
  obtain ⟨r, hr, hfix⟩ := hin.record
  refine ⟨?_, r, by rw [hlist]; exact hr, hreturned ▸ hfix, fun hc => ?_⟩
  · rw [hlist, ← hv.trk]
    exact hin.length
  · rw [if_pos ((hcarried tote).trans hc)] at hroom
    have hbefore : Appends 0 s v := .of_eq (by rw [hv.pos]) hv.ntq
    refine (hbefore.trans hin.told).told (k := 0) (by omega) (.of_eq ?_ ?_)
    · rw [ht.pos, hroom]
      rfl
    · rw [ht.ntq, hroom]
      rfl

end Merged

/-! ## A SPUR MERGED -/

/-- MRG once it has taken the confirmation of a grant, before the record enters (R161, R166). -/
def State.granted (s : State) : State := lowerDebt (s.setMrg { s.mrg with grant := none })

/-- MRG once it has taken a merge without a grant, before the record enters (R163, R166). -/
def State.ungranted (s : State) : State :=
  let u := lowerDebt s
  if u.mrg.ready.isSome then
    let v := pauseAccrual u
    runIdle (mrgLook (v.setMrg { v.mrg with ready := none }))
  else u

theorem takeMerged_granted {s : State} {g : Grant} (h : s.mrg.grant = some g) (stamp : Nat) :
    takeMerged stamp s = runIdle (mrgLook (insertMerged g.ready.tote g.ready.len stamp s.granted)) := by
  simp only [takeMerged, h]
  rfl

theorem takeMerged_ungranted {s : State} (h : s.mrg.grant = none) (hst : s.run.st ≠ .config) (stamp : Nat) :
    takeMerged stamp s =
      insertMerged (s.mrg.last.bind (·.tote)) ((s.mrg.last.map (·.len)).getD 255) stamp s.ungranted := by
  simp only [takeMerged, h, if_neg hst]
  rfl

theorem mergedFrom_granted (s : State) : MergedFrom s s.granted := ⟨rfl, rfl, rfl, rfl, rfl⟩

theorem pauseAccrual_rest (s : State) : pauseAccrual s = { s with mrg := (pauseAccrual s).mrg } := by
  unfold pauseAccrual
  split <;> rfl

theorem pauseAccrual_mrg (s : State) : (pauseAccrual s).mrg.interval = none ∧
    (pauseAccrual s).mrg.grant = s.mrg.grant ∧ (pauseAccrual s).mrg.debt = s.mrg.debt ∧
    (pauseAccrual s).mrg.last = s.mrg.last := by
  unfold pauseAccrual
  split
  · exact ⟨rfl, rfl, rfl, rfl⟩
  · next h => exact ⟨by simpa using h, rfl, rfl, rfl⟩

theorem mergedFrom_ungranted (s : State) : MergedFrom s s.ungranted := by
  unfold State.ungranted
  dsimp only
  split
  · rw [runIdle_rest, pauseAccrual_rest]
    exact ⟨rfl, rfl, rfl, rfl, rfl⟩
  · exact ⟨rfl, rfl, rfl, rfl, rfl⟩

/-- MRG's registers after a merge without a grant. -/
theorem mrg_ungranted (s : State) : s.ungranted.mrg.grant = s.mrg.grant ∧ s.ungranted.mrg.debt = debtDown s.mrg.debt ∧
    s.ungranted.mrg.last = s.mrg.last ∧ s.ungranted.mrg.ready = none ∧
    (s.mrg.ready.isSome → s.ungranted.mrg.interval = none ∧ s.ungranted.mrg.mergePoint = none) := by
  have hready : (lowerDebt s).mrg.ready = s.mrg.ready := rfl
  unfold State.ungranted
  dsimp only
  rw [hready]
  split
  · obtain ⟨hi, hg, hd, hl⟩ := pauseAccrual_mrg (lowerDebt s)
    rw [runIdle_rest]
    exact ⟨hg, hd, hl, rfl, fun _ => ⟨hi, rfl⟩⟩
  · next h => exact ⟨rfl, rfl, rfl, hready.trans (by simpa using h), fun hs => absurd hs h⟩

theorem debtDown_eq (d : Int) : debtDown d = if -8 < d then d - 1 else -8 := rfl

theorem anchor_mod (s : State) (a : Int) : (a - normAnchor s a) % s.params.loopLen = 0 := by
  have h : a - normAnchor s a = s.params.loopLen * -((now s - a) / s.params.loopLen) := by
    simp only [normAnchor, posOf, onLoop, Int.emod_def]
    ring
  rw [h, Int.mul_emod_right]

/-- What TRK's answer to a merged tote brings, in the words of the statements (R24, R25, R161). -/
theorem merged_answer {s v t : State} {tote : Option Nat} {len stamp : Nat} (hv : MergedFrom s v)
    (ht : MergedTo (insertMerged tote len stamp v) t) (htrk : TrkOk s.trk) :
    t.ord = s.ord ∧
    (96 ≤ s.trk.list.length → t.trk = s.trk ∧
      Told (.untracked tote (((firstOf s .merge).map (·.2)).getD 0) (mergePos s)) s t) ∧
    (s.trk.list.length < 96 → t.trk.list.length = s.trk.list.length + 1 ∧
      ∃ r ∈ t.trk.list, r.id = s.trk.nextId ∧ r.role = .ret ∧ r.reason = .empty ∧ r.dest = some 0 ∧ r.len = len ∧
        ((stamp : Int) - r.anchor - mergePos s) % s.params.loopLen = 0 ∧
        ((∀ n, tote = some n → carrier s n = none) → r.tote = tote) ∧
        (∀ n, tote = some n → (carrier s n).isSome → r.tote = none ∧ Told (.duplicate tote len .merge) s t)) := by
  refine ⟨?_, merged_full hv ht, fun hroom => ?_⟩
  · rw [ht.ord, ord_insertMerged _ _ _ (hv.trk.symm ▸ htrk), hv.ord]
  · obtain ⟨hlen, r, hr, hfix, htold⟩ := merged_room hv ht htrk hroom
    simp only [Rec.fixed, Prod.mk.injEq] at hfix
    obtain ⟨hid, htote, hrole, hreason, hdest, hrlen, hanchor⟩ := hfix
    refine ⟨hlen, r, hr, hid, hrole, hreason, hdest, hrlen, ?_, fun hnone => ?_, fun n hn hc => ?_⟩
    · have hmod := anchor_mod s ((stamp : Int) - mergePos s)
      have ha : r.anchor = normAnchor s ((stamp : Int) - mergePos s) := hanchor
      rw [ha, sub_right_comm]
      exact hmod
    · have hno : carried s tote = false := by
        cases tote with
        | none => rfl
        | some n => simp [carried, hnone n rfl]
      exact htote.trans (if_neg (by rw [show (mergedReq s tote len stamp).tote = tote from rfl, hno]; decide))
    · have hyes : carried s tote = true := by simpa [carried, hn] using hc
      exact ⟨htote.trans (if_pos hyes), htold hyes⟩

/-- What a merged tote leaves of MRG: its insertion changes the merge point only. -/
theorem mrg_of_spurBook {s t : State} (h : t.spurBook = s.spurBook) : t.mrg.grant = s.mrg.grant ∧ t.mrg.debt = s.mrg.debt ∧
    t.mrg.last = s.mrg.last ∧ t.mrg.ready = s.mrg.ready ∧ t.mrg.interval = s.mrg.interval := by
  simp only [State.spurBook, Mrg.mk.injEq] at h
  obtain ⟨hr, hl, hg, _, hd, _, _, hi, _⟩ := h
  exact ⟨hg, hd, hl, hr, hi⟩

/-- Settles O31: each report by what MRG takes from it, the accrual that it starts, and the record that it brings. -/
theorem spurReportsAreTaken : Obligations.SpurReportsAreTaken := by
  refine ⟨fun src i tote len x s h => ?ready, fun src i tote len x s h => ?accrual, fun src i x s hinv h => ?merged,
    fun src i x s h => ⟨_, exec_handed (i := .spurEmpty src) rfl h, takeSpurEmpty_taken s⟩⟩
  case ready => exact ⟨_, exec_handed (i := .spurReady src tote len) rfl h, takeSpurReady_tables tote len s⟩
  case accrual =>
    have hrun : (takeSpurReady tote len s).run = (s.spurTold ⟨readNumber tote, len⟩).run :=
      by rw [takeSpurReady_rest]
    refine ⟨takeSpurReady tote len s, exec_handed (i := .spurReady src tote len) rfl h, takeSpurReady_still,
      takeSpurReady_accrues, fun hrule hwake => ?_⟩
    rw [hrun]
    exact run_spurTold s _ hrule hwake
  case merged =>
    have hexec : exec (.spurMerged src) s = .next (takeMerged (s.pos.odo - x.lat) s) :=
      exec_handed (i := .spurMerged src) rfl h
    rw [hexec]
    refine ⟨fun hst hg => ?_, fun hgo => ?_⟩
    · simp only [takeMerged, hg, hst, if_true]
    cases hg : s.mrg.grant with
    | some g =>
        let u := insertMerged g.ready.tote g.ready.len (s.pos.odo - x.lat) s.granted
        have ht : takeMerged (s.pos.odo - x.lat) s = runIdle (mrgLook u) := takeMerged_granted hg _
        have hto : MergedTo u (runIdle (mrgLook u)) := by
          rw [runIdle_rest]
          exact ⟨rfl, rfl, rfl, rfl⟩
        obtain ⟨hord, hfull, hroom⟩ := merged_answer (mergedFrom_granted s) hto hinv.trk
        obtain ⟨hgrant, hdebt, hlast, hready, _⟩ := mrg_of_spurBook
          (s := s.granted) (t := runIdle (mrgLook u)) (by simp [u])
        exact ⟨_, rfl, by rw [ht, hgrant]; rfl, by rw [ht, hdebt]; rfl, by rw [ht, hlast]; rfl, by rw [ht, hord],
          by rw [ht, hready]; rfl, by simp, by rw [ht]; exact hfull, by rw [ht]; exact hroom⟩
    | none =>
        have hst : s.run.st ≠ .config := hgo.resolve_right (by simp [hg])
        let u := insertMerged (s.mrg.last.bind (·.tote)) ((s.mrg.last.map (·.len)).getD 255) (s.pos.odo - x.lat)
          s.ungranted
        have ht : takeMerged (s.pos.odo - x.lat) s = u := takeMerged_ungranted hg hst _
        obtain ⟨hord, hfull, hroom⟩ := merged_answer (t := u) (mergedFrom_ungranted s) ⟨rfl, rfl, rfl, rfl⟩ hinv.trk
        obtain ⟨hgrant, hdebt, hlast, hready, hinterval⟩ := mrg_of_spurBook (s := s.ungranted) (t := u) (by simp [u])
        obtain ⟨hgrant', hdebt', hlast', hready', hpaused⟩ := mrg_ungranted s
        refine ⟨u, by rw [ht], hgrant.trans (hgrant'.trans hg), hdebt.trans hdebt', hlast.trans hlast', hord,
          hready.trans hready', fun _ hs => ?_, hfull, hroom⟩
        obtain ⟨hi, hp⟩ := hpaused hs
        exact ⟨hinterval.trans hi,
          mergePoint_insertMerged _ _ _ ((mergedFrom_ungranted s).trk.symm ▸ hinv.trk) hready' hp⟩

end Sys2Proof.Machine
end

section
/-! PROOFS. The links do not hold after every step (O6): a state that meets them, and the step that breaks them. -/

namespace Sys2Proof.Machine

/-! ## A hole in a verify list -/

/-- A hole that is VERIFYING and bound for lane 1. The links ask of what stands in a verify list that it is VERIFYING and bound
for the lane (`VerifyOk.entries`); that it stands for a tote they do not ask. -/
def verifiedHole : Rec :=
  { id := 0, tote := none, role := .hole, reason := .none, ref := 0, anchor := 0, len := 60, dest := some 1, laps := 0
    st := .verifying, missed := 0, doubt := 0, doubtful := false, crowded := false, deadline := none, expected := none
    refusal := .none, watch := none }

/-- The hole in the verify list of lane 1, RUNNING, with the arrival point of the hole reached and its row at the front of the
queue. -/
def State.holeVerified : State := { State.reset with
  pos := { Pos.reset with inForce := some (Vector.replicate 28 Station.empty) }
  trk := { list := [verifiedHole], nextId := 1, lost := 0, jumps := 0 }
  lan := ⟨vset Lan.reset.lanes 1 { Lane.reset LaneRec.default with verify := [⟨0, 5, false⟩] }⟩
  mrg := { State.reset.mrg with hole := .travelling, arrival := some 0 }
  run := { Run.reset with st := .running, belt := true, stall := some 500 }
  pending := [.arrivalPoint] }

/-- The invariant of the lanes, as a statement that can be decided. -/
theorem lanesOk_of {s : State} (h : ∀ l ∈ s.lan.lanes.toList,
    l.occ ≤ 15 ∧ l.streak ≤ 2 ∧ l.verify.length ≤ Config.maxVerify ∧ l.reported = l.computed) :
    ∀ l ∈ s.lan.lanes.toList, LaneOk l := by
  intro l hl
  obtain ⟨hocc, hstreak, hverify, hreported⟩ := h l hl
  exact ⟨hocc, hstreak, hverify, hreported⟩

theorem inv_holeVerified : Inv State.holeVerified where
  run := by constructor <;> decide
  trk := by constructor <;> decide
  ord := by constructor <;> decide
  lanes := lanesOk_of (by decide)
  fires := by decide
  queues := by constructor <;> decide
  pos := by constructor <;> decide

theorem queueOf_holeVerified (g : Nat) : queueOf State.holeVerified g = [] :=
  vget_forall (P := fun q => q = []) (by decide) rfl g

theorem verify_holeVerified (n : Nat) :
    (laneOf State.holeVerified n).verify = [] ∨ n = 1 := by
  by_cases h : n = 1
  · exact .inr h
  · have hne : laneOf State.holeVerified n = vget Lan.reset.lanes n (Lane.reset LaneRec.default) :=
      vget_vset_ne _ _ _ _ _ (Ne.symm h)
    rw [hne]
    exact .inl (vget_forall (P := fun l : Lane => l.verify = []) (by decide) rfl n)

theorem links_holeVerified : Links State.holeVerified where
  ranges :=
    { params := by constructor <;> decide
      loaded := by decide
      force := by
        rintro m hm
        cases hm
        decide
      speed := by decide
      spacing := by decide
      target := by decide
      debt := by decide }
  belt := by constructor <;> decide
  fires :=
    { sorted := by decide
      window := by decide
      once := by decide
      listed := by decide
      planned := fun g x hx => by rw [queueOf_holeVerified] at hx; cases hx }
  verify :=
    { entries := fun n e he => by
        rcases verify_holeVerified n with h | rfl
        · rw [h] at he
          cases he
        · revert e
          decide
      once := by decide
      records := by decide }
  orders := by constructor <;> decide
  quiet :=
    { dark := by decide
      config := by intro h; cases h
      before := by intro h; cases h
      hole := by decide }

/-- Refutes O6: the arrival point removes the hole from the list, and its place in the verify list of lane 1 then names no
record (R30, R126). -/
theorem not_everyStepKeepsTheLinks : ¬ Obligations.EveryStepKeepsTheLinks := by
  intro h
  let s := State.holeVerified
  let t := arrivalDue (s.setPending [])
  have hstep : step s = .next t := rfl
  have hlinks : Links t := h s t inv_holeVerified links_holeVerified (by decide) hstep
  have hentry : ⟨0, 5, false⟩ ∈ (laneOf t 1).verify := by decide
  have hgone : t.trk.list = [] := by decide
  obtain ⟨r, hr, _⟩ := hlinks.verify.entries 1 _ hentry
  rw [hgone] at hr
  cases hr

end Sys2Proof.Machine
end

section
/-! PROOFS. Not every shadow is rechecked (O48): a record in several fires, released at the origin. -/

namespace Sys2Proof.Machine

/-! ## A handle in several fires -/

/-- The induction station at the origin, and the diverter of lane 1 at position 100. -/
def shadowDiverter : Station := ⟨.laneDiverter, 100, 20, 21, 1, 0, 0, 0, 0, 0⟩
def shadowInduct : Station := ⟨.induct, 0, 2, 0, 0, 0, 0, 0, 0, 0⟩
def shadowMap : StationMap := vset (vset (Vector.replicate 28 Station.empty) 0 shadowInduct) 1 shadowDiverter

/-- A RETURN record ten counts past the origin, bound for lane 1. -/
def shadowRec (id : Nat) : Rec :=
  { id := id, tote := none, role := .ret, reason := .empty, ref := 0, anchor := -10, len := 60, dest := some 1, laps := 0
    st := .riding, missed := 0, doubt := 0, doubtful := false, crowded := false, deadline := none, expected := none
    refusal := .none, watch := none }

/-- A fire of the gate of lane 1, with the window 100 to 110. -/
def shadowFire (st : FireState) (members : List Nat) : Fire := ⟨members, 100, 100, 110, 0, st, false, false⟩

/-- The queue of lane 1. -/
def shadowQueue : List Fire :=
  [shadowFire .closing [2], shadowFire .planned [2], shadowFire .planned [1, 2], shadowFire .planned [0]]

/-- The handle that the next record takes, 2, stands in four fires already, which `Inv` does not exclude: a PLANNED one of gate
0, and a CLOSING and two PLANNED ones of lane 1. -/
def State.shadowed : State := { State.reset with
  pos := { Pos.reset with map := shadowMap, inForce := some shadowMap }
  trk := { list := [shadowRec 0, shadowRec 1], nextId := 2, lost := 0, jumps := 0 }
  fpl := { State.reset.fpl with
    queues := vset (vset State.reset.fpl.queues 0 [shadowFire .planned [2]]) 1 shadowQueue }
  lan := ⟨vset Lan.reset.lanes 1 (Lane.reset { LaneRec.default with initOpen := true })⟩
  ind := { State.reset.ind with outstanding := some ⟨7, 60, 0, 1000⟩ }
  run := { Run.reset with st := .running, belt := true, stall := some 500 }
  rng := { Rng.reset with bypass := false } }

theorem inv_shadowed : Inv State.shadowed where
  run := by constructor <;> decide
  trk := by constructor <;> decide
  ord := by constructor <;> decide
  lanes := lanesOk_of (by decide)
  fires := by decide
  queues := by constructor <;> decide
  pos := by constructor <;> decide

theorem hands_shadowed : Hands State.shadowed 2 .induct shadowInduct 0 := by constructor <;> decide

/-- The new record's anchor is the odometer, and the second fire of lane 1 is PLANNED without it. -/
theorem released_shadowed :
    (∃ r ∈ (takeReleased 0 State.shadowed).trk.list, r.id = 2 ∧ r.anchor = 0 ∧ r.len = 60) ∧
    shadowFire .planned [] ∈ queueOf (takeReleased 0 State.shadowed) 1 ∧
    gateRec (takeReleased 0 State.shadowed) 1 = some shadowDiverter := by decide

theorem exec_shadowed : exec (.released 2) State.shadowed = .next (takeReleased 0 State.shadowed) := by
  have hstamp : State.shadowed.pos.odo - shadowInduct.lat = 0 := rfl
  rw [exec_handed (i := .released 2) rfl hands_shadowed, hstamp]
  rfl

/-- The PLANNED fire left at lane 1 meets the passage of the new record, of which it is not a fire. -/
theorem unchecked_shadowed : ∃ r ∈ (takeReleased 0 State.shadowed).trk.list, r.id = State.shadowed.trk.nextId ∧
    MeetsPassage (takeReleased 0 State.shadowed) shadowDiverter r (100, 110 + 0) := by
  obtain ⟨⟨r, hr, hid, hanchor, hlen⟩, _⟩ := released_shadowed
  refine ⟨r, hr, hid, 0, ?_⟩
  rw [hanchor]
  simp [Overlap, windowAt, shadowDiverter, hlen]

/-- Refutes O48, in its last clause: the recheck withdraws the fire of record 0, whose plan withdraws the one of record 1, which
leaves the new record to be planned again; that takes it off every fire of the queue in which its CLOSING fire stands, and the
PLANNED fire that it so leaves keeps its window. The clause asks for `Inv` alone, not for `FiresOk.once` (R89). -/
theorem not_firesAreMovedAndWithdrawn : ¬ Obligations.FiresAreMovedAndWithdrawn := by
  intro h
  obtain ⟨_, _, _, _, _, _, _, released⟩ := h
  obtain ⟨t, ht, hclear⟩ := released 2 0 shadowInduct ⟨7, 60, 0, 1000⟩ State.shadowed inv_shadowed hands_shadowed rfl
    (by decide) (by decide)
  have hafter : takeReleased 0 State.shadowed = t := Host.Outcome.next.inj (exec_shadowed.symm.trans ht)
  obtain ⟨_, hfire, hgate⟩ := released_shadowed
  obtain ⟨r, hr, hid, hmeets⟩ := unchecked_shadowed
  rw [hafter] at hfire hgate hr hmeets
  exact hclear r hr hid 1 _ shadowDiverter (by decide) hfire rfl List.not_mem_nil hgate hmeets

end Sys2Proof.Machine
end

section
/-! PROOFS. The records of the list: what the planner and the list change leave of them, and what a removal does. -/

namespace Sys2Proof.Machine

/-! ## The marks of plans -/

/-- A record without the marks that a plan leaves in it: its last refusal reason and its watch (R97). -/
def Rec.unmarked (r : Rec) : Rec := { r with refusal := .none, watch := none }

@[simp] theorem Rec.unmarked_fields (r : Rec) : r.unmarked.id = r.id ∧ r.unmarked.tote = r.tote ∧
    r.unmarked.role = r.role ∧ r.unmarked.reason = r.reason ∧ r.unmarked.ref = r.ref ∧ r.unmarked.anchor = r.anchor ∧
    r.unmarked.len = r.len ∧ r.unmarked.dest = r.dest ∧ r.unmarked.laps = r.laps ∧ r.unmarked.st = r.st ∧
    r.unmarked.missed = r.missed ∧ r.unmarked.doubt = r.doubt ∧ r.unmarked.doubtful = r.doubtful :=
  ⟨rfl, rfl, rfl, rfl, rfl, rfl, rfl, rfl, rfl, rfl, rfl, rfl, rfl⟩

/-- The tracking unit without the marks of plans. -/
def Trk.unmarked (x : Trk) : Trk := { x with list := x.list.map Rec.unmarked }

/-- What the planner leaves of the tracking unit. -/
def State.records (s : State) : Trk := s.trk.unmarked

theorem records_of_trk {s t : State} (h : t.trk = s.trk) : t.records = s.records := congrArg Trk.unmarked h

/-- A change of records that no unmarked record shows. -/
theorem unmarked_mapped {x : Trk} {f : Rec → Rec} (hf : ∀ r, (f r).unmarked = r.unmarked) :
    ({ x with list := x.list.map f } : Trk).unmarked = x.unmarked := by
  simp only [Trk.unmarked, List.map_map]
  congr 1
  exact List.map_congr_left fun r _ => hf r

theorem planning_records : Planning fun s t => t.records = s.records where
  refl _ := rfl
  trans h₁ h₂ := h₂.trans h₁
  queue _ _ _ := rfl
  mark s d why ids := unmarked_mapped fun r => by split <;> rfl
  drive g b s := records_of_trk (trk_driveGate g b s)

@[simp] theorem records_detach (id : Nat) (s : State) : (detach id s).st.records = s.records := planning_records.detach id s
@[simp] theorem records_planReq (id : Nat) (s : State) : (planReq id s).records = s.records := planning_records.planReq id s
@[simp] theorem records_finishDetach (l : List Nat) (p : Planned) (s : State) : (finishDetach l p s).records = s.records :=
  planning_records.finishDetach l p s
@[simp] theorem records_shadowRecheck (id : Nat) (s : State) : (shadowRecheck id s).records = s.records :=
  planning_records.shadowRecheck id s
@[simp] theorem records_withdrawLane (g : Nat) (s : State) : (withdrawLane g s).records = s.records :=
  planning_records.withdrawLane g s
@[simp] theorem records_planLane (g : Nat) (s : State) : (planLane g s).records = s.records := planning_records.planLane g s
@[simp] theorem records_listChange (s : State) : (listChange s).records = s.records :=
  records_of_trk (listChange_fields s).2.1
@[simp] theorem records_notify (n : Notice) (s : State) : (notify n s).records = s.records := by rw [notify_eq]; rfl
@[simp] theorem records_modLane (n : Nat) (f : Lane → Lane) (s : State) : (modLane n f s).records = s.records := rfl
@[simp] theorem records_enterState (n : RunState) (r : Option Rule) (c : StateCause) (s : State) :
    (enterState n r c s).records = s.records := by
  rw [enterState_rest]
  rfl
@[simp] theorem records_lapCheck (s : State) : (lapCheck s).records = s.records := by
  unfold lapCheck endLap
  dsimp only
  repeat' split
  · exact records_enterState ..
  · rfl
  · rfl

theorem unmarked_of_records {s t : State} (h : t.records = s.records) :
    t.trk.list.map Rec.unmarked = s.trk.list.map Rec.unmarked := congrArg Trk.list h

theorem jumps_of_records {s t : State} (h : t.records = s.records) : t.trk.jumps = s.trk.jumps := by
  have hjumps : t.records.jumps = s.records.jumps := by rw [h]
  exact hjumps

/-- What a record shows without its marks is shown by the whole list. -/
theorem map_of_records {β : Type} {π : Rec → β} (hπ : ∀ r, π r.unmarked = π r) {s t : State} (h : t.records = s.records) :
    t.trk.list.map π = s.trk.list.map π := by
  have hmap := congrArg (List.map π) (unmarked_of_records h)
  simpa only [List.map_map, Function.comp_def, hπ] using hmap

theorem length_of_records {s t : State} (h : t.records = s.records) : t.trk.list.length = s.trk.list.length := by
  simpa using congrArg List.length (map_of_records (π := fun r => r.id) (fun _ => rfl) h)

/-- A record of one list, as it stands in the other. -/
theorem mem_of_records {s t : State} (h : t.records = s.records) {r : Rec} (hr : r ∈ t.trk.list) :
    ∃ x ∈ s.trk.list, r.unmarked = x.unmarked := by
  have hmem : r.unmarked ∈ s.trk.list.map Rec.unmarked := by
    rw [← unmarked_of_records h]
    exact List.mem_map_of_mem hr
  obtain ⟨x, hx, he⟩ := List.mem_map.mp hmem
  exact ⟨x, hx, he.symm⟩

/-- The first record with a property that does not see the marks. -/
theorem find?_of_records {p : Rec → Bool} (hp : ∀ r, p r.unmarked = p r) {s t : State} (h : t.records = s.records) :
    (t.trk.list.find? p).map Rec.unmarked = (s.trk.list.find? p).map Rec.unmarked := by
  have hfind (l : List Rec) : (l.map Rec.unmarked).find? p = (l.find? p).map Rec.unmarked := by
    rw [List.find?_map]
    congr 2
    exact funext hp
  rw [← hfind, unmarked_of_records h, hfind]

theorem findRec_of_records {s t : State} (h : t.records = s.records) (id : Nat) :
    (findRec t id).map Rec.unmarked = (findRec s id).map Rec.unmarked := find?_of_records (by exact fun _ => rfl) h

theorem carrier_of_records {s t : State} (h : t.records = s.records) (n : Nat) :
    (carrier t n).map Rec.unmarked = (carrier s n).map Rec.unmarked := find?_of_records (by exact fun _ => rfl) h

theorem isSome_carrier_of_records {s t : State} (h : t.records = s.records) (n : Nat) :
    (carrier t n).isSome = (carrier s n).isSome := by
  simpa using congrArg Option.isSome (carrier_of_records h n)

theorem findRec_none_of_records {s t : State} (h : t.records = s.records) (id : Nat) :
    findRec t id = none ↔ findRec s id = none := by
  have he := findRec_of_records h id
  rw [← Option.map_eq_none_iff (f := Rec.unmarked), he, Option.map_eq_none_iff]

/-- The gaps at the origin see no marks (R142). -/
theorem originSlot_of_records {s t : State} (h : t.records = s.records) (hpos : t.pos = s.pos) (hparams : t.params = s.params)
    (hreg : t.reg = s.reg) (len : Nat) : originSlot t len = originSlot s len := by
  let π : Rec → Int × Nat := fun r => (r.anchor, r.len)
  have hπ : t.trk.list.map π = s.trk.list.map π := map_of_records (fun _ => rfl) h
  have hnow : now t = now s := by unfold now; rw [hpos]
  have slot (u : State) : originSlot u len = match (u.trk.list.map π).getLast? with
      | none => some (now u)
      | some a => firstGap (now u) u.reg.g len (a.1 + a.2)
          ((u.trk.list.map π).map fun r => (r.1 + (u.params.loopLen : Int), r.2)) := by
    unfold originSlot
    rw [List.getLast?_map, List.map_map]
    cases u.trk.list.getLast? <;> rfl
  rw [slot, slot, hπ, hnow, hparams, hreg]

end Sys2Proof.Machine
end

section
/-! PROOFS. Removal from the list: the entry, the notices, the pending READY, the gates and run control (R27, R33). -/

namespace Sys2Proof.Machine

/-- The planner writes the list, the queues, the gates and the control queue, and nothing else. -/
theorem eq_of_planCore {s t : State} (h : t.planCore = s.planCore) :
    t = { s with trk := t.trk, fpl := t.fpl, gtc := t.gtc, rng := t.rng } := by
  cases s
  cases t
  simp only [State.planCore, State.core, Prod.mk.injEq] at h
  simp [h]

/-! ## Notices -/

/-- A notice has been queued in the step from `s` to `t`, at most `k` notices before it. -/
def ToldAfter (k : Nat) (n : Notice) (s t : State) : Prop := ∃ u j, Appends k s u ∧ Appends j (notify n u) t

theorem ToldAfter.told {k : Nat} {n : Notice} {s t : State} (h : ToldAfter k n s t) (hk : k < 16) : Told n s t := by
  obtain ⟨u, j, hu, ht⟩ := h
  exact hu.told hk ht

theorem ToldAfter.before {j k : Nat} {n : Notice} {r s t : State} (h : ToldAfter k n s t) (hr : Appends j r s) :
    ToldAfter (j + k) n r t := by
  obtain ⟨u, i, hu, ht⟩ := h
  exact ⟨u, i, hr.trans hu, ht⟩

theorem ToldAfter.later {j k : Nat} {n : Notice} {s t u : State} (h : ToldAfter k n s t) (ht : Appends j t u) :
    ToldAfter k n s u := by
  obtain ⟨v, i, hv, hn⟩ := h
  exact ⟨v, i + j, hv, hn.trans ht⟩

theorem toldAfter_notify (n : Notice) (s : State) : ToldAfter 0 n s (notify n s) := ⟨s, 0, .of_eq rfl rfl, .of_eq rfl rfl⟩

theorem appends_planCore {s t : State} (h : t.planCore = s.planCore) : Appends 0 s t := by
  rw [eq_of_planCore h]
  exact .of_eq rfl rfl

theorem appends_enterState (n : RunState) (r : Option Rule) (c : StateCause) (s : State) :
    Appends 1 s (enterState n r c s) := by
  have hn := appends_notify (.state s.run.st n c) s
  refine hn.trans (.of_eq ?_ (ntq_enterState n r c s))
  rw [enterState_rest, notify_eq]

theorem appends_lapCheck (s : State) : Appends 1 s (lapCheck s) := by
  have hset (x : Run) : Appends 0 s (s.setRun x) := .of_eq rfl rfl
  unfold lapCheck endLap
  dsimp only
  repeat' split
  · exact ((hset _).trans (appends_enterState ..)).mono (by omega)
  · exact (hset _).mono (by omega)
  · exact Appends.mono (j := 0) (.of_eq rfl rfl) (by omega)

/-! ## The pending READY -/

/-- A standing sees no marks of plans. -/
theorem HasStanding.of_records {s t : State} {r : Ready} {st : Standing} (h : HasStanding s r st) (ht : t.records = s.records)
    (ho : t.ord = s.ord) (hi : t.ind.outstanding = s.ind.outstanding) : HasStanding t r st := by
  have hsome := isSome_carrier_of_records ht
  have hnone (n : Nat) : carrier t n = none ↔ carrier s n = none := by
    rw [← Option.isSome_eq_false_iff.trans Option.isNone_iff_eq_none, hsome n,
      Option.isSome_eq_false_iff.trans Option.isNone_iff_eq_none]
  have hentry (n : Nat) : findEntry t n = findEntry s n := by
    unfold findEntry
    rw [ho]
  refine ⟨h.noread, fun n hn hc => ?_, fun n hn hc ho' he => ?_, fun n e hn hc ho' he hr => ?_⟩
  · rw [hsome, hi] at hc
    exact h.carried n hn hc
  · rw [hi] at ho'
    exact h.unknown n hn ((hnone n).mp hc) ho' (hentry n ▸ he)
  · rw [hi] at ho'
    exact h.known n e hn ((hnone n).mp hc) ho' (hentry n ▸ he) hr

/-- IND has examined a pending READY again in the step from `s` to `t`, at most `k` notices before that of a hold (R139). -/
def StandsAnew (k : Nat) (p : Pending) (s t : State) : Prop :=
  ∃ st, t.ind.ready = some ⟨p.ready, st⟩ ∧ HasStanding t p.ready st ∧
    (st ≠ p.standing → ∀ n, holdNotice p.ready st = some n → ToldAfter k n s t)

/-- Of the READYs pending one stands anew, and none stays none. -/
structure ReadyAnew (k : Nat) (s t : State) : Prop where
  none    : s.ind.ready = none → t.ind.ready = none
  pending : ∀ p, s.ind.ready = some p → StandsAnew k p s t

theorem readyAnew_reexamine (s : State) : ReadyAnew 0 s (reexamine s) := by
  refine ⟨fun h => ?_, fun p hp => ?_⟩
  · unfold reexamine
    rw [h]
    exact h
  · have hstanding := hasStanding_standingOf s p.ready
    unfold reexamine
    rw [hp]
    dsimp only
    split
    · next hsame => exact ⟨p.standing, hp, (hsame ▸ hstanding).of_records rfl rfl rfl, fun h => absurd rfl h⟩
    · refine ⟨standingOf s p.ready, ?_, ?_, fun _ n hn => ?_⟩
      · cases hn : holdNotice p.ready (standingOf s p.ready) <;> simp [notifySome, notify_eq, indLook, State.setInd]
      · refine hstanding.of_records ?_ ?_ ?_ <;>
          cases hn : holdNotice p.ready (standingOf s p.ready) <;>
            simp [notifySome, notify_eq, indLook, State.setInd, State.records]
      · rw [hn]
        exact ⟨s.setInd { s.ind with ready := some ⟨p.ready, standingOf s p.ready⟩ }, 0, .of_eq rfl rfl, .of_eq rfl rfl⟩

/-- The READY stands as it did where nothing that its standing sees has changed. -/
theorem ReadyAnew.later {j k : Nat} {s t u : State} (h : ReadyAnew k s t) (hu : Appends j t u)
    (hrec : u.records = t.records) (hord : u.ord = t.ord) (hready : u.ind.ready = t.ind.ready)
    (hout : u.ind.outstanding = t.ind.outstanding) : ReadyAnew k s u := by
  refine ⟨fun hn => hready.trans (h.none hn), fun p hp => ?_⟩
  obtain ⟨st, hst, hstanding, htold⟩ := h.pending p hp
  exact ⟨st, hready.trans hst, hstanding.of_records hrec hord hout, fun hne n hn => (htold hne n hn).later hu⟩

theorem ReadyAnew.before {j k : Nat} {r s t : State} (h : ReadyAnew k s t) (hr : Appends j r s)
    (hready : s.ind.ready = r.ind.ready) : ReadyAnew (j + k) r t := by
  refine ⟨fun hn => h.none (hready.trans hn), fun p hp => ?_⟩
  obtain ⟨st, hst, hstanding, htold⟩ := h.pending p (hready.trans hp)
  exact ⟨st, hst, hstanding, fun hne n hn => (htold hne n hn).before hr⟩

/-- A second examination decides, and the notice of the first stays told where it changes nothing. -/
theorem ReadyAnew.trans {j k : Nat} {s t u : State} (h : ReadyAnew j s t) (h' : ReadyAnew k t u) {a b : Nat}
    (hst : Appends a s t) (htu : Appends b t u) : ReadyAnew (max j (a + k)) s u := by
  refine ⟨fun hn => h'.none (h.none hn), fun p hp => ?_⟩
  obtain ⟨st, hready, _, htold⟩ := h.pending p hp
  obtain ⟨st', hready', hstanding', htold'⟩ := h'.pending _ hready
  have mono {c : Nat} {n : Notice} (hc : c ≤ max j (a + k)) (hn : ToldAfter c n s u) : ToldAfter (max j (a + k)) n s u := by
    obtain ⟨v, i, hv, hvu⟩ := hn
    exact ⟨v, i, hv.mono hc, hvu⟩
  refine ⟨st', hready', hstanding', fun hne n hn => ?_⟩
  by_cases hsame : st' = st
  · subst hsame
    exact mono (le_max_left ..) ((htold hne n hn).later htu)
  · exact mono (le_max_right ..) ((htold' hsame n hn).before hst)

theorem ReadyAnew.examined {k : Nat} {s t : State} (h : ReadyAnew k s t) (hk : k < 16) (hp : PointHeld t) :
    ReadyExamined s t := by
  refine ⟨h.none, fun p hready => ?_⟩
  obtain ⟨st, hst, hstanding, htold⟩ := h.pending p hready
  refine ⟨⟨st, hst, hstanding, fun hne => ?_⟩, hp⟩
  refine ⟨fun h => ?_, fun h => ?_, fun h => ?_⟩ <;> subst h <;> exact (htold hne _ rfl).told hk

/-- The release point that IND holds sees no marks of plans. -/
theorem PointHeld.of_eq {s t : State} (h : PointHeld s) (hind : t.ind = s.ind) (hst : t.run.st = s.run.st)
    (hcmd : t.cmd = s.cmd) (hrec : t.records = s.records) (hpos : t.pos = s.pos) (hparams : t.params = s.params)
    (hreg : t.reg = s.reg) : PointHeld t := by
  have hlen := length_of_records hrec
  have hslot := originSlot_of_records hrec hpos hparams hreg
  constructor
  · intro p
    rw [hind, hst, hcmd, hlen, hslot]
    exact h.computed p
  · rw [hind, hst, hcmd, hlen]
    exact h.withdrawn

theorem pointHeld_runIdle {s : State} (h : PointHeld s) : PointHeld (runIdle s) := by
  rw [runIdle_rest]
  exact h.of_eq rfl rfl rfl rfl rfl rfl rfl

theorem pointHeld_reexamine (s : State) : PointHeld (reexamine s) := by
  unfold reexamine
  dsimp only
  repeat' split
  all_goals exact pointHeld_indLook _

theorem pointHeld_listChange (s : State) : PointHeld (listChange s) :=
  pointHeld_runIdle (pointHeld_mrgLook (pointHeld_reexamine s))

theorem pointHeld_enterState (n : RunState) (r : Option Rule) (c : StateCause) (s : State) :
    PointHeld (enterState n r c s) := pointHeld_runIdle (pointHeld_mrgLook (pointHeld_indLook _))

theorem pointHeld_lapCheck {s : State} (h : PointHeld s) : PointHeld (lapCheck s) := by
  unfold lapCheck endLap
  dsimp only
  repeat' split
  · exact pointHeld_enterState ..
  · exact h.of_eq rfl rfl rfl rfl rfl rfl rfl
  · exact h

theorem pointHeld_planCore {s t : State} (h : PointHeld s) (hc : t.planCore = s.planCore) (hr : t.records = s.records) :
    PointHeld t := by
  have he := eq_of_planCore hc
  exact h.of_eq (by rw [he]) (by rw [he]) (by rw [he]) hr (by rw [he]) (by rw [he]) (by rw [he])

end Sys2Proof.Machine
end

section
/-! PROOFS. What a removal from the list leaves of every block (R33). -/

namespace Sys2Proof.Machine

/-! ## What the steps of a removal leave alone -/

/-- IND's registers that no look and no examination changes. -/
def State.indBook (s : State) : Option Ready × Option Release × Option Nat × Bool :=
  (s.ind.last, s.ind.outstanding, s.ind.holeWait, s.ind.reject)

theorem indBook_of_ind {s t : State} (h : t.ind = s.ind) : t.indBook = s.indBook := by rw [State.indBook, h, State.indBook]

@[simp] theorem indBook_reexamine (s : State) : (reexamine s).indBook = s.indBook := by
  obtain ⟨ready, release, hole, ntq, h⟩ := reexamine_rest s
  rw [h]
  rfl

@[simp] theorem indBook_listChange (s : State) : (listChange s).indBook = s.indBook := by
  rw [listChange, indBook_of_ind (t := runIdle _) (s := reexamine s) (by rw [runIdle_rest]; rfl), indBook_reexamine]

theorem ind_enterState (n : RunState) (r : Option Rule) (c : StateCause) (s : State) :
    ∃ release hole, (enterState n r c s).ind = { s.ind with releasePoint := release, holePoint := hole } := by
  unfold enterState
  dsimp only
  rw [runIdle_rest, notify_eq]
  exact ⟨_, _, rfl⟩

theorem ind_lapCheck (s : State) :
    ∃ release hole, (lapCheck s).ind = { s.ind with releasePoint := release, holePoint := hole } := by
  unfold lapCheck endLap
  dsimp only
  repeat' split
  · exact ind_enterState ..
  · exact ⟨_, _, rfl⟩
  · exact ⟨_, _, rfl⟩

@[simp] theorem indBook_lapCheck (s : State) : (lapCheck s).indBook = s.indBook := by
  obtain ⟨release, hole, h⟩ := ind_lapCheck s
  rw [State.indBook, h]
  rfl

theorem lapCheck_rest (s : State) : lapCheck s = { s with
    run := (lapCheck s).run, ind := (lapCheck s).ind, mrg := (lapCheck s).mrg, ntq := (lapCheck s).ntq } := by
  unfold lapCheck endLap
  dsimp only
  repeat' split
  · rw [enterState_rest]
    rfl
  · rfl
  · rfl

/-- Out of the resume lap TRK's report of UNSURE records ends nothing (R184). -/
theorem lapCheck_eq {s : State} (h : s.run.stage ≠ .lap) : lapCheck s = s := by
  unfold lapCheck
  simp [h]

theorem settleEntry_rest (r : Rec) (x : EntryFate) (s : State) :
    settleEntry r x s = { s with ord := (settleEntry r x s).ord } := by
  unfold settleEntry
  repeat' split
  all_goals rfl

theorem settleEntry_congr (r : Rec) (x : EntryFate) {s t : State} (h : t.ord = s.ord) :
    (settleEntry r x t).ord = (settleEntry r x s).ord := by
  unfold settleEntry
  repeat' split
  all_goals simp [removeEntry, setEntryState, h]

theorem run_listChange (s : State) : ∃ x, (listChange s).run = { s.run with idle := x } := by
  obtain ⟨ready, release, hole, ntq, h⟩ := reexamine_rest s
  rw [listChange, runIdle_rest, h]
  exact ⟨_, rfl⟩

theorem readyAnew_listChange (s : State) : ReadyAnew 0 s (listChange s) := by
  have h : listChange s = { reexamine s with run := (listChange s).run, mrg := (mrgLook (reexamine s)).mrg } := by
    rw [listChange, runIdle_rest]
    rfl
  refine (readyAnew_reexamine s).later (j := 0) (.of_eq ?_ ?_) ?_ ?_ ?_ ?_
  all_goals rw [h]
  rfl

theorem ReadyAnew.lapCheck {k : Nat} {s t : State} (h : ReadyAnew k s t) : ReadyAnew k s (lapCheck t) := by
  obtain ⟨release, hole, hind⟩ := ind_lapCheck t
  exact h.later (appends_lapCheck t) (records_lapCheck t) (by rw [lapCheck_rest]) (by rw [hind]) (by rw [hind])

theorem ReadyAnew.planned {k : Nat} {s t u : State} (h : ReadyAnew k s t) (hp : u.planCore = t.planCore)
    (hr : u.records = t.records) : ReadyAnew k s u := by
  have he := eq_of_planCore hp
  exact h.later (appends_planCore hp) hr (by rw [he]) (by rw [he]) (by rw [he])

/-! ## A removal -/

/-- No WAKE has been placed in the step from `s` to `t` (R183). -/
def NoNewWake (s t : State) : Prop := ∀ c ∈ t.rng.control, c.kind = .wake → c ∈ s.rng.control

theorem NoNewWake.of_rng {s t : State} (h : t.rng = s.rng) : NoNewWake s t := fun _ hc _ => h ▸ hc

theorem noNewWake_placeControl {c : Ctl} (hc : c.kind ≠ .wake) (s : State) : NoNewWake s (placeControl c s) := by
  intro y hy hk
  rcases (mem_placeControl c y s).mp hy with rfl | ⟨_, hy⟩
  · exact absurd hk hc
  · exact hy

theorem planning_noNewWake : Planning NoNewWake where
  refl _ := .of_rng rfl
  trans h₁ h₂ := fun c hc hk => h₁ c (h₂ c hc hk) hk
  queue _ _ _ := .of_rng rfl
  mark _ _ _ _ := .of_rng rfl
  drive g b s := by
    unfold driveGate
    split
    · exact noNewWake_placeControl (by cases b <;> simp) s
    · exact .of_rng rfl

/-- The record `r` has left the list in the step from `s` to `t`, its entry with the fate given. -/
structure Removed (r : Rec) (fate : EntryFate) (s t : State) : Prop where
  records : t.records = { s.records with list := s.records.list.filter fun x => x.id ≠ r.id }
  ord     : t.ord = (settleEntry r fate s).ord
  core    : t.core = s.core
  sgt     : t.sgt = s.sgt
  lan     : t.lan = s.lan
  book    : t.spurBook = s.spurBook
  ind     : t.indBook = s.indBook
  told    : Appends 2 s t
  soon    : s.run.stage ≠ .lap → Appends 1 s t
  ready   : ReadyAnew 0 s t
  point   : PointHeld t
  gates   : GateCommandsOnly s t
  wakes   : NoNewWake s t
  run     : s.run.stage ≠ .lap → ∃ x, t.run = { s.run with idle := x }
  quiet   : fireOf s r.id = none → t.rng = s.rng

/-- The list without a record, the entry settled, before the list change is announced (R33). -/
def State.without (s : State) (id : Nat) (r : Rec) (fate : EntryFate) : State :=
  let u := settleEntry r fate (detach id s).st
  u.setTrk { u.trk with list := u.trk.list.filter fun x => x.id ≠ id }

theorem removeRec_eq {id : Nat} {r : Rec} {s : State} (h : findRec s id = some r) (fate : EntryFate) :
    removeRec id fate s = finishDetach [] (detach id s) (lapCheck (listChange (s.without id r fate))) := by
  unfold removeRec
  rw [h]
  rfl

theorem without_rest (s : State) (id : Nat) (r : Rec) (fate : EntryFate) : s.without id r fate = { s with
    trk := { (detach id s).st.trk with list := (detach id s).st.trk.list.filter fun x => x.id ≠ id }
    ord := (settleEntry r fate s).ord, fpl := (detach id s).st.fpl, gtc := (detach id s).st.gtc
    rng := (detach id s).st.rng } := by
  have hplan := eq_of_planCore (planCore_detach id s)
  have hord : (settleEntry r fate (detach id s).st).ord = (settleEntry r fate s).ord :=
    settleEntry_congr r fate (by rw [hplan])
  unfold State.without
  dsimp only
  rw [settleEntry_rest, hord]
  generalize (detach id s).st = u at hplan
  rw [hplan]
  rfl

theorem records_without (s : State) (id : Nat) (r : Rec) (fate : EntryFate) :
    (s.without id r fate).records = { s.records with list := s.records.list.filter fun x => x.id ≠ id } := by
  have hdetach : (detach id s).st.trk.unmarked = s.trk.unmarked := records_detach id s
  rw [without_rest]
  show Trk.unmarked _ = _
  rw [show s.records = (detach id s).st.trk.unmarked from hdetach.symm]
  simp only [Trk.unmarked, List.filter_map]
  rfl

theorem fireOf_none_detach {id : Nat} {s : State} (h : fireOf s id = none) : detach id s = ⟨s, [], []⟩ := by
  unfold detach
  rw [h]

theorem removed_removeRec {id : Nat} {r : Rec} {s : State} (h : findRec s id = some r) (fate : EntryFate) :
    Removed r fate s (removeRec id fate s) := by
  obtain ⟨_, rfl⟩ := findRec_mem h
  let a := s.without r.id r fate
  let b := listChange a
  let c := lapCheck b
  let t := finishDetach [] (detach r.id s) c
  have ht : removeRec r.id fate s = t := removeRec_eq h fate
  have ha : a = _ := without_rest s r.id r fate
  have hb : b = _ := listChange_rest a
  have hc : c = _ := lapCheck_rest b
  have hplan : t = { c with trk := t.trk, fpl := t.fpl, gtc := t.gtc, rng := t.rng } :=
    eq_of_planCore (planCore_finishDetach ..)
  have hrec : t.records = c.records := records_finishDetach ..
  have hab : Appends 0 s a := by
    rw [ha]
    exact .of_eq rfl rfl
  have htold : Appends 2 s t :=
    ((hab.trans (appends_listChange a)).trans (appends_lapCheck b)).trans (appends_planCore (planCore_finishDetach ..))
  have hpoint : PointHeld c := pointHeld_lapCheck (pointHeld_listChange a)
  have hgates : GateCommandsOnly s a := by
    refine planning_gateCommandsOnly.trans (planning_gateCommandsOnly.detach r.id s) (.of_quiet ?_ ?_)
    · rw [ha, eq_of_planCore (planCore_detach r.id s)]
    · rw [ha]
  have hquiet : GateCommandsOnly a c := .of_quiet (by rw [hc, hb]) (by rw [hc, hb])
  have hrun : ∃ x, b.run = { a.run with idle := x } := run_listChange a
  have hunlapped (hstage : s.run.stage ≠ .lap) : c = b := by
    obtain ⟨x, hx⟩ := hrun
    refine lapCheck_eq ?_
    rw [hx, ha]
    exact hstage
  rw [ht]
  constructor
  case records => simp [t, c, b, a, records_without]
  case ord => rw [hplan, hc, hb, ha]
  case core => rw [← ht, core_removeRec]
  case sgt => rw [hplan, hc, hb, ha]
  case lan => rw [hplan, hc, hb, ha]
  case book => rw [← ht, spurBook_removeRec]
  case ind =>
    have hcb : c.indBook = b.indBook := indBook_lapCheck b
    have hba : b.indBook = a.indBook := indBook_listChange a
    rw [indBook_of_ind (show t.ind = c.ind by rw [hplan]), hcb, hba]
    exact indBook_of_ind (by rw [ha])
  case told => exact htold
  case soon =>
    intro hstage
    have hsame := hunlapped hstage
    have hcut : Appends 1 s b := hab.trans (appends_listChange a)
    exact (hsame ▸ hcut).trans (appends_planCore (planCore_finishDetach ..))
  case ready => exact (((readyAnew_listChange a).before hab (by rw [ha])).lapCheck).planned (planCore_finishDetach ..) hrec
  case point => exact pointHeld_planCore hpoint (planCore_finishDetach ..) hrec
  case gates =>
    exact planning_gateCommandsOnly.trans (planning_gateCommandsOnly.trans hgates hquiet)
      (planning_gateCommandsOnly.finishDetach ..)
  case wakes =>
    have hdetach : NoNewWake s a := planning_noNewWake.trans (planning_noNewWake.detach r.id s) (.of_rng (by rw [ha]))
    have hcalm : NoNewWake a c := .of_rng (by rw [hc, hb])
    exact planning_noNewWake.trans (planning_noNewWake.trans hdetach hcalm)
      (planning_noNewWake.finishDetach [] (detach r.id s) c)
  case run =>
    intro hstage
    obtain ⟨x, hx⟩ := hrun
    have hsame := hunlapped hstage
    refine ⟨x, ?_⟩
    rw [hplan, hsame, hx, ha]
  case quiet =>
    intro hfire
    have hnone := fireOf_none_detach hfire
    have htc : t = c := by
      show finishDetach [] (detach r.id s) c = c
      simp [hnone, finishDetach, inBeltOrder, planWork, decideGates]
    rw [htc, hc, hb, ha, hnone]

end Sys2Proof.Machine
end

section
/-! PROOFS. The origin passage (O33) and the sighting deadline (O34). -/

namespace Sys2Proof.Machine

/-! ## A record that has left -/

theorem findRec_modRec (id : Nat) {f : Rec → Rec} (hf : ∀ r, (f r).id = r.id) (k : Nat) (s : State) :
    findRec (modRec id f s) k = (findRec s k).map fun r => if r.id = id then f r else r := by
  unfold findRec modRec
  simp only [State.setTrk_fields, List.find?_map]
  congr 2
  funext r
  simp only [Function.comp_apply]
  split <;> simp [hf]

theorem findRec_modRec_same {id : Nat} {f : Rec → Rec} (hf : ∀ r, (f r).id = r.id) {s : State} {r : Rec}
    (h : findRec s id = some r) : findRec (modRec id f s) id = some (f r) := by
  obtain ⟨_, hid⟩ := findRec_mem h
  simp [findRec_modRec id hf, h, hid]

theorem findRec_none_iff (s : State) (id : Nat) : findRec s id = none ↔ ∀ r ∈ s.trk.list, r.id ≠ id := by
  simp [findRec]

theorem Removed.list {r : Rec} {fate : EntryFate} {s t : State} (h : Removed r fate s t) :
    t.trk.list.map Rec.unmarked = (s.trk.list.map Rec.unmarked).filter fun x => x.id ≠ r.id := congrArg Trk.list h.records

theorem Removed.gone {r : Rec} {fate : EntryFate} {s t : State} (h : Removed r fate s t) : findRec t r.id = none := by
  refine (findRec_none_iff t r.id).mpr fun x hx => ?_
  have hlist := h.list
  have hmem : x.unmarked ∈ (s.trk.list.map Rec.unmarked).filter fun x => x.id ≠ r.id := hlist ▸ List.mem_map_of_mem hx
  simpa using (List.mem_filter.mp hmem).2

/-- What the records show without their marks, after a removal. -/
theorem Removed.map {r : Rec} {fate : EntryFate} {s t : State} (h : Removed r fate s t) {β : Type} {π : Rec → β}
    (hπ : ∀ x, π x.unmarked = π x) : t.trk.list.map π = (s.trk.list.filter fun x => x.id ≠ r.id).map π := by
  have hmap := congrArg (List.map π) h.list
  simp only [List.filter_map, List.map_map, Function.comp_def, hπ] at hmap
  exact hmap

theorem findRec_unmarked (s : State) (k : Nat) :
    (findRec s k).map Rec.unmarked = (s.trk.list.map Rec.unmarked).find? fun x => x.id = k := by
  rw [List.find?_map]
  rfl

/-- The records that stay are found as before, but for the marks of plans. -/
theorem Removed.others {r : Rec} {fate : EntryFate} {s t : State} (h : Removed r fate s t) {k : Nat} (hk : k ≠ r.id) :
    (findRec t k).map Rec.unmarked = (findRec s k).map Rec.unmarked := by
  rw [findRec_unmarked, findRec_unmarked, h.list, List.find?_filter]
  congr 1
  funext x
  by_cases hx : x.id = k <;> simp [hx, hk]

theorem Removed.counts {r : Rec} {fate : EntryFate} {s t : State} (h : Removed r fate s t) :
    t.trk.lost = s.trk.lost ∧ t.trk.jumps = s.trk.jumps ∧ t.trk.nextId = s.trk.nextId := by
  refine ⟨?_, ?_, ?_⟩
  · show t.records.lost = s.records.lost
    rw [h.records]
  · show t.records.jumps = s.records.jumps
    rw [h.records]
  · show t.records.nextId = s.records.nextId
    rw [h.records]

theorem Removed.length {r : Rec} {fate : EntryFate} {s t : State} (h : Removed r fate s t) (htrk : TrkOk s.trk)
    (hr : r ∈ s.trk.list) : t.trk.list.length + 1 = s.trk.list.length := by
  have hlen := congrArg List.length (h.map (π := fun x => x.id) fun _ => rfl)
  simp only [List.length_map] at hlen
  rw [hlen, (htrk.split hr).length_eq, List.length_cons]

/-! ## The entries -/

theorem findEntry_of_ord {s t : State} (h : t.ord = s.ord) (k : Nat) : findEntry t k = findEntry s k := by
  unfold findEntry
  rw [h]

theorem findEntry_setEntryState (k j : Nat) (st : EntryState) (s : State) :
    findEntry (setEntryState k st s) j = (findEntry s j).map fun e => if e.tote = k then { e with st := st } else e := by
  unfold findEntry setEntryState
  simp only [State.setOrd_fields, List.find?_map]
  congr 2
  funext e
  simp only [Function.comp_apply]
  split <;> rfl

theorem findEntry_tote {s : State} {k : Nat} {e : Entry} (h : findEntry s k = some e) : e.tote = k := by
  simpa using List.find?_some h

theorem findEntry_setEntryState_same {s : State} {k : Nat} {e : Entry} (h : findEntry s k = some e) (st : EntryState) :
    findEntry (setEntryState k st s) k = some { e with st := st } := by
  simp [findEntry_setEntryState, h, findEntry_tote h]

theorem findEntry_removeEntry_same (k : Nat) (s : State) : findEntry (removeEntry k s) k = none := by
  simp [findEntry, removeEntry]

/-! ## The sighting deadline -/

/-- A record given up as LOST: counted, told, and removed with its entry (R35). -/
theorem loseRec_eq {id : Nat} {r : Rec} {s : State} (h : findRec s id = some r) (c : LostCause) :
    loseRec id c s = removeRec id .lost (notify
      (.lost r.tote r.role r.reason r.ref (posOf s r.anchor).toNat r.missed c)
      (s.setTrk { s.trk with lost := satInc counterMax s.trk.lost })) := by
  unfold loseRec
  rw [h]

/-- The state in which the loss of a record has been counted and told. -/
def State.lossTold (s : State) (r : Rec) (c : LostCause) : State :=
  notify (.lost r.tote r.role r.reason r.ref (posOf s r.anchor).toNat r.missed c)
    (s.setTrk { s.trk with lost := satInc counterMax s.trk.lost })

theorem lossTold_rest (s : State) (r : Rec) (c : LostCause) : s.lossTold r c = { s with
    trk := { s.trk with lost := satInc counterMax s.trk.lost }, ntq := (s.lossTold r c).ntq } := by
  unfold State.lossTold
  rw [notify_rest]
  rfl

theorem toldAfter_lossTold (s : State) (r : Rec) (c : LostCause) :
    ToldAfter 0 (.lost r.tote r.role r.reason r.ref (posOf s r.anchor).toNat r.missed c) s (s.lossTold r c) :=
  ⟨_, 0, .of_eq (t := s.setTrk { s.trk with lost := satInc counterMax s.trk.lost }) rfl rfl, .of_eq rfl rfl⟩

theorem findRec_of_list {s t : State} (h : t.trk.list = s.trk.list) (id : Nat) : findRec t id = findRec s id := by
  unfold findRec
  rw [h]

theorem removed_loseRec {id : Nat} {r : Rec} {s : State} (h : findRec s id = some r) (c : LostCause) :
    Removed r .lost (s.lossTold r c) (loseRec id c s) := by
  rw [loseRec_eq h c]
  exact removed_removeRec ((findRec_of_list (by rw [lossTold_rest]) id).trans h) .lost

theorem whenDue_reached {p : Int} {s : State} (h : p ≤ s.pos.odo) (act : State → State) : whenDue (some p) act s = act s :=
  whenDue_due _ _ _ (decide_eq_true h)

/-- The record of a handle changed in place, said of the record. -/
theorem modRec_eq {s : State} (htrk : TrkOk s.trk) {r : Rec} (hr : r ∈ s.trk.list) (f : Rec → Rec) :
    modRec r.id f s = { s with trk := { s.trk with list := s.trk.list.map fun x => if x.id = r.id then f r else x } } := by
  have hlist : (s.trk.list.map fun x => if x.id = r.id then f x else x) =
      s.trk.list.map fun x => if x.id = r.id then f r else x := by
    refine List.map_congr_left fun x hx => ?_
    split
    · next hid => rw [htrk.unique hx hr hid]
    · rfl
  unfold modRec
  rw [hlist]
  rfl

/-- Settles O34: by whether the record has missed a deadline. -/
theorem sightingDeadlineMissesThenLoses : Obligations.SightingDeadlineMissesThenLoses := by
  intro id r p s hinv hrec hdead hp
  obtain ⟨hr, rfl⟩ := findRec_mem hrec
  have hexec : exec (.sightingDeadline r.id) s = .next (deadlinePoint r.id s) := rfl
  refine ⟨fun i j d hmissed hexp hnext => ?_, fun hmissed => ⟨_, hexec, ?_⟩⟩
  · have hpoint : deadlinePoint r.id s = moveDeadlineOn r s := by
      simp only [deadlinePoint, hrec, hdead, whenDue_reached hp, hmissed, if_true]
    rw [hexec, hpoint, moveDeadlineOn, modRec_eq hinv.trk hr]
    simp only [hexp, hnext, hdead, Option.map_some]
  · let u := modRec r.id (fun x => { x with missed := 2 }) s
    have hpoint : deadlinePoint r.id s = loseRec r.id .deadline u := by
      simp only [deadlinePoint, hrec, hdead, whenDue_reached hp, hmissed, if_false]
      rfl
    have hu : findRec u r.id = some { r with missed := 2 } := findRec_modRec_same (by exact fun _ => rfl) hrec
    have hrem := removed_loseRec hu .deadline
    rw [hpoint]
    generalize loseRec r.id .deadline u = t at hrem
    have hlist : (u.lossTold { r with missed := 2 } .deadline).trk.list = u.trk.list := by rw [lossTold_rest]
    have hutrk : TrkOk (u.lossTold { r with missed := 2 } .deadline).trk := by
      refine hinv.trk.map (f := fun x => if x.id = r.id then { x with missed := 2 } else x) hlist ?_ fun x _ => ?_
      · rw [lossTold_rest]
        rfl
      · split <;> exact ⟨rfl, rfl, id⟩
    have hlen := hrem.length hutrk (hlist ▸ (findRec_mem hu).1)
    refine ⟨hrem.gone, ?_, ?_, fun k e hrole htote he => ?_, ?_⟩
    · rw [hlen, hlist]
      exact List.length_map ..
    · rw [hrem.counts.1, lossTold_rest]
      rfl
    · have hord : t.ord = (setEntryState k .lost u).ord := by
        rw [hrem.ord, settleEntry]
        simp only [hrole, htote, setEntryState]
        rw [lossTold_rest]
        rfl
      rw [findEntry_of_ord hord]
      exact findEntry_setEntryState_same he _
    · have htold := ((toldAfter_lossTold u { r with missed := 2 } .deadline).later hrem.told).before (r := s) (j := 0)
        (.of_eq rfl rfl)
      exact htold.told (by omega)

end Sys2Proof.Machine
end


section
/-! PROOFS. The origin passage of a record and of those that pass with it (O33). -/

namespace Sys2Proof.Machine

/-! ## One passage -/

/-- A record past the origin once more (R22). -/
def Rec.passed (l : Nat) (r : Rec) : Rec := { r with anchor := r.anchor + l }

theorem passOrigin_eq {r : Rec} {s : State} (h : findRec s r.id = some r) :
    passOrigin r s = listChange (s.setTrk { s.trk with list := seatIn (r.passed s.params.loopLen) s.trk.list }) := by
  unfold passOrigin reseat
  rw [h]
  rfl

theorem list_passOrigin {r : Rec} {s : State} (h : findRec s r.id = some r) :
    (passOrigin r s).trk.list = seatIn (r.passed s.params.loopLen) s.trk.list := by
  rw [passOrigin_eq h, (listChange_fields _).2.1]
  rfl

theorem find?_seatIn_same {r : Rec} {l : List Rec} : (seatIn r l).find? (fun x => x.id = r.id) = some r := by
  unfold seatIn
  rw [List.find?_append, List.find?_cons_of_pos (by simp)]
  have hnone : ((l.filter fun x => x.id ≠ r.id).takeWhile fun x => x.anchor ≤ r.anchor).find? (fun x => x.id = r.id) = none := by
    rw [List.find?_eq_none]
    intro x hx
    have hmem := List.takeWhile_subset _ hx
    simpa using (List.mem_filter.mp hmem).2
  rw [hnone]
  rfl

theorem find?_seatIn_ne {r : Rec} {l : List Rec} {k : Nat} (h : k ≠ r.id) :
    (seatIn r l).find? (fun x => x.id = k) = l.find? fun x => x.id = k := by
  unfold seatIn
  rw [List.find?_append, List.find?_cons_of_neg (by simpa using h.symm), ← List.find?_append, List.takeWhile_append_dropWhile,
    List.find?_filter]
  congr 1
  funext x
  by_cases hx : x.id = k <;> simp [hx, h]

theorem findRec_passOrigin_same {r : Rec} {s : State} (h : findRec s r.id = some r) :
    findRec (passOrigin r s) r.id = some (r.passed s.params.loopLen) := by
  unfold findRec
  rw [list_passOrigin h]
  exact find?_seatIn_same (r := r.passed s.params.loopLen)

theorem findRec_passOrigin_ne {r : Rec} {s : State} (h : findRec s r.id = some r) {k : Nat} (hk : k ≠ r.id) :
    findRec (passOrigin r s) k = findRec s k := by
  unfold findRec
  rw [list_passOrigin h]
  exact find?_seatIn_ne (r := r.passed s.params.loopLen) hk

theorem length_passOrigin {r : Rec} {s : State} (htrk : TrkOk s.trk) (h : findRec s r.id = some r) :
    (passOrigin r s).trk.list.length = s.trk.list.length := by
  rw [list_passOrigin h, (seatIn_perm ..).length_eq, (htrk.split (findRec_mem h).1).length_eq]
  rfl

/-- What a passage leaves alone: everything but the list, run control, the slots and the notices. -/
theorem passOrigin_rest (r : Rec) (s : State) : passOrigin r s = { s with
    trk := (passOrigin r s).trk, run := (passOrigin r s).run, ind := (passOrigin r s).ind, mrg := (passOrigin r s).mrg
    ntq := (passOrigin r s).ntq } := by
  unfold passOrigin reseat
  split
  · rw [listChange_rest]
    rfl
  · rw [listChange_rest]

/-- Taken at the count that reaches it, in a list whose records have passed the origin, a passage leaves the record last. -/
theorem seatIn_last {r : Rec} {l : List Rec} (h : ∀ x ∈ l, x.anchor ≤ r.anchor) :
    seatIn r l = l.filter (fun x => x.id ≠ r.id) ++ [r] := by
  have hall : ∀ x ∈ l.filter fun x => x.id ≠ r.id, decide (x.anchor ≤ r.anchor) = true := fun x hx =>
    decide_eq_true (h x (List.mem_filter.mp hx).1)
  simp only [seatIn, List.takeWhile_eq_self_iff.mpr hall, List.dropWhile_eq_nil_iff.mpr hall]

/-! ## The passages of one row -/

/-- The passages of several records, one after the other (R17, log 18). -/
def passAll (l : List Rec) (s : State) : State := l.foldl (fun u x => passOrigin x u) s

/-- The records of `l` have passed the origin in the step from `s` to `t`, and no other has changed. -/
structure Passed (l : List Rec) (s t : State) : Prop where
  moved  : ∀ x ∈ l, findRec t x.id = some (x.passed s.params.loopLen)
  others : ∀ k, (∀ x ∈ l, x.id ≠ k) → findRec t k = findRec s k
  length : t.trk.list.length = s.trk.list.length
  last   : (∀ x ∈ s.trk.list, x.anchor ≤ s.pos.odo) → (∀ x ∈ l, x.anchor + s.params.loopLen = s.pos.odo) →
    t.trk.list = s.trk.list.filter (fun x => !l.any fun y => y.id = x.id) ++ l.map (Rec.passed s.params.loopLen)

theorem passed_passAll (l : List Rec) (hl : (l.map (·.id)).Nodup) {s : State} (h : BlockInv s)
    (hin : ∀ x ∈ l, findRec s x.id = some x) : Passed l s (passAll l s) := by
  induction l generalizing s with
  | nil => exact ⟨by simp, fun _ _ => rfl, rfl, fun _ _ => by simp [passAll]⟩
  | cons r l ih =>
      obtain ⟨hnotin, hnodup⟩ := List.nodup_cons.mp hl
      have hr : findRec s r.id = some r := hin r List.mem_cons_self
      have hne : ∀ x ∈ l, x.id ≠ r.id := fun x hx he => hnotin (List.mem_map.mpr ⟨x, hx, he⟩)
      let u := passOrigin r s
      have hparams : u.params = s.params := by
        show (passOrigin r s).params = _
        rw [passOrigin_rest]
      have hpos : u.pos = s.pos := by
        show (passOrigin r s).pos = _
        rw [passOrigin_rest]
      have hrest : Passed l u (passAll l u) := ih hnodup (inv_passOrigin h) fun x hx => by
        rw [findRec_passOrigin_ne hr (hne x hx)]
        exact hin x (List.mem_cons_of_mem _ hx)
      have hu : u.trk.list = seatIn (r.passed s.params.loopLen) s.trk.list := list_passOrigin hr
      show Passed (r :: l) s (passAll l u)
      refine ⟨fun x hx => ?_, fun k hk => ?_, hrest.length.trans (length_passOrigin h.trk hr), fun hpast hnow => ?_⟩
      · rcases List.mem_cons.mp hx with rfl | hx
        · rw [hrest.others _ hne, findRec_passOrigin_same hr]
        · rw [hrest.moved x hx, hparams]
      · rw [hrest.others k fun x hx => hk x (List.mem_cons_of_mem _ hx),
          findRec_passOrigin_ne hr (hk r List.mem_cons_self).symm]
      · have hrnow : r.anchor + s.params.loopLen = s.pos.odo := hnow r List.mem_cons_self
        have hlast : u.trk.list = s.trk.list.filter (fun x => x.id ≠ r.id) ++ [r.passed s.params.loopLen] := by
          rw [hu]
          exact seatIn_last fun x hx => (hpast x hx).trans_eq hrnow.symm
        have hpast' : ∀ x ∈ u.trk.list, x.anchor ≤ u.pos.odo := by
          intro x hx
          rw [hpos]
          rw [hlast] at hx
          rcases List.mem_append.mp hx with hx | hx
          · exact hpast x (List.mem_filter.mp hx).1
          · rw [List.mem_singleton.mp hx]
            exact hrnow.le
        rw [hrest.last hpast' fun x hx => by rw [hparams, hpos]; exact hnow x (List.mem_cons_of_mem _ hx), hlast, hparams]
        have hstay : l.any (fun y => y.id = r.id) = false := by simpa using hne
        have hsplit : ∀ x : Rec, ((!l.any fun y => decide (y.id = x.id)) && decide (x.id ≠ r.id)) =
            !(r :: l).any fun y => decide (y.id = x.id) := by
          intro x
          rw [List.any_cons, Bool.not_or, Bool.and_comm]
          congr 1
          simp [eq_comm]
        rw [List.filter_append, List.filter_filter, List.filter_cons_of_pos (by rw [Rec.passed, hstay]; rfl)]
        simp only [hsplit, List.filter_nil, List.map_cons, List.append_assoc, List.singleton_append]

theorem passAll_fields (l : List Rec) (s : State) : (passAll l s).ord = s.ord ∧ (passAll l s).fpl = s.fpl ∧
    (passAll l s).gtc = s.gtc ∧ (passAll l s).lan = s.lan ∧ (passAll l s).sgt = s.sgt := by
  refine ⟨?_, ?_, ?_, ?_, ?_⟩ <;> refine foldl_keeps _ _ (fun t x => ?_) l s <;> rw [passOrigin_rest]

/-! ## O33 -/

/-- A list of records with one id each, cut at one of them: none stands twice. -/
theorem ids_cut {pre post : List Rec} {r : Rec} (hids : ((pre ++ r :: post).map (·.id)).Nodup) :
    (∀ x ∈ pre, x.id ≠ r.id) ∧ (∀ x ∈ post, x.id ≠ r.id) ∧ ∀ x ∈ pre, ∀ y ∈ post, x.id ≠ y.id := by
  rw [List.map_append, List.map_cons] at hids
  have hdisj := List.disjoint_of_nodup_append hids
  have hpost := (List.nodup_cons.mp hids.of_append_right).1
  have apart : ∀ x ∈ pre, ∀ y ∈ r :: post, x.id ≠ y.id := fun x hx y hy he =>
    hdisj (List.mem_map_of_mem hx) (List.mem_map.mpr ⟨y, hy, he.symm⟩)
  exact ⟨fun x hx => apart x hx r List.mem_cons_self, fun x hx he => hpost (List.mem_map.mpr ⟨x, hx, he⟩),
    fun x hx y hy => apart x hx y (List.mem_cons_of_mem _ hy)⟩

theorem passesWith_eq {s : State} {pre post : List Rec} {r : Rec} (hlist : s.trk.list = pre ++ r :: post)
    (hpre : ∀ x ∈ pre, x.id ≠ r.id) : passesWith s r = pre.filter (fun x => x.anchor = r.anchor) ++ [r] := by
  have htake : s.trk.list.takeWhile (fun x => x.id ≠ r.id) = pre := by
    rw [hlist, List.takeWhile_append_of_pos fun x hx => decide_eq_true (hpre x hx), List.takeWhile_cons_of_neg (by simp),
      List.append_nil]
  rw [passesWith, htake]

/-- The records that pass with `r` taken out of the list. -/
theorem filter_passes {pre post : List Rec} {r : Rec} (hids : ((pre ++ r :: post).map (·.id)).Nodup) :
    ((pre ++ r :: post).filter fun x => !(pre.filter (fun x => x.anchor = r.anchor) ++ [r]).any fun y => y.id = x.id) =
      pre.filter (fun x => x.anchor ≠ r.anchor) ++ post := by
  obtain ⟨hpre, hpost, hcross⟩ := ids_cut hids
  have hinj := List.inj_on_of_nodup_map (List.Nodup.of_append_left (List.map_append ▸ hids))
  rw [List.filter_append, List.filter_cons_of_neg (by simp)]
  congr 1
  · refine List.filter_congr fun x hx => ?_
    rw [Bool.eq_iff_iff]
    simp only [Bool.not_eq_true', List.any_eq_false, List.mem_append, List.mem_filter, List.mem_singleton, decide_eq_true_eq]
    constructor
    · exact fun h ha => h x (.inl ⟨hx, ha⟩) rfl
    · rintro ha y (⟨hy, hya⟩ | rfl) he
      · exact ha (hinj hy hx he ▸ hya)
      · exact hpre x hx he.symm
  · refine List.filter_eq_self.mpr fun x hx => ?_
    simp only [Bool.not_eq_true', List.any_eq_false, List.mem_append, List.mem_filter, List.mem_singleton, decide_eq_true_eq]
    rintro y (⟨hy, _⟩ | rfl) he
    · exact hcross y hy x hx he
    · exact hpost x hx he.symm

/-- Settles O33: the row's passages one after the other, each record seated behind those of its position. -/
theorem originPassageMovesTheAnchor : Obligations.OriginPassageMovesTheAnchor := by
  intro id r pre post s hinv hlist hid hreached goes stays moved
  subst hid
  have hids : ((pre ++ r :: post).map (·.id)).Nodup := hlist ▸ hinv.trk.ids
  obtain ⟨hpre, hpost, hcross⟩ := ids_cut hids
  have hsub : goes.Sublist s.trk.list := by
    rw [hlist]
    exact List.filter_sublist.append (List.Sublist.cons_cons _ (List.nil_sublist _))
  have hstaysub : stays.Sublist s.trk.list := by
    rw [hlist]
    exact List.filter_sublist.append (List.sublist_cons_self _ _)
  have hstays : s.trk.list.filter (fun x => !goes.any fun y => y.id = x.id) = stays := by
    rw [hlist]
    exact filter_passes hids
  have hexec : exec (.originPassage r.id) s = .next (passAll goes s) := by
    have hrec : findRec s r.id = some r := findRec_of_mem hinv.trk (hsub.subset (by simp [goes]))
    show Host.Outcome.next (originPoint r.id s) = _
    simp only [originPoint, hrec, whenDue_reached hreached, passesWith_eq hlist hpre]
    rfl
  have hpassed : Passed goes s (passAll goes s) :=
    passed_passAll goes (hinv.trk.ids.sublist (hsub.map _)) (Kept.of_inv hinv).blocks
      fun x hx => findRec_of_mem hinv.trk (hsub.subset hx)
  have hanchor : ∀ x ∈ goes, x.anchor = r.anchor := by
    intro x hx
    rcases List.mem_append.mp hx with hx | hx
    · simpa using (List.mem_filter.mp hx).2
    · rw [List.mem_singleton.mp hx]
  refine ⟨_, hexec, hpassed.moved, fun x hx => ?_, hpassed.length, fun hnow hpast => ?_, passAll_fields goes s⟩
  · have hout : ∀ y ∈ goes, y.id ≠ x.id := by
      have hmem := (List.mem_filter.mp (hstays ▸ hx)).2
      simpa using hmem
    rw [hpassed.others x.id hout]
    exact findRec_of_mem hinv.trk (hstaysub.subset hx)
  · rw [hpassed.last hpast fun x hx => by rw [hanchor x hx]; exact hnow, hstays]
    rfl

end Sys2Proof.Machine
end

section
/-! PROOFS. The settle point and the resume end point (O43). -/

namespace Sys2Proof.Machine

/-! ## The settle point -/

/-- Run control goes on with the belt on in the step from `s` to `t`, and no record leaves the list. -/
structure GoesOn (s t : State) : Prop where
  settle : t.run.settle = none
  belt   : t.run.belt = true
  stall  : t.run.stall = s.run.stall
  ids    : t.trk.list.map (·.id) = s.trk.list.map (·.id)
  rest   : t = { s with run := t.run, ind := t.ind, mrg := t.mrg, ntq := t.ntq, trk := t.trk }

theorem timers_enterState {n : RunState} (hn : n = .running ∨ n = .resuming) {s : State} (hs : s.run.st.beltOn = true)
    (r : Option Rule) (c : StateCause) :
    (enterState n r c s).run.settle = none ∧ (enterState n r c s).run.stall = s.run.stall := by
  have hbelt : n.beltOn = true ∧ n ≠ .starting := by rcases hn with rfl | rfl <;> exact ⟨rfl, by decide⟩
  unfold enterState
  dsimp only
  rw [runIdle_rest]
  simp [mrgLook, indLook, State.setMrg, State.setInd, State.setRun, hs, hbelt]

theorem goesOn_enterState {n : RunState} (hn : n = .running ∨ n = .resuming) {s : State} (hs : s.run.st.beltOn = true)
    (r : Option Rule) (c : StateCause) : GoesOn s (enterState n r c s) := by
  obtain ⟨hsettle, hstall⟩ := timers_enterState hn hs r c
  have hrest := enterState_rest n r c s
  refine ⟨hsettle, ?_, hstall, by rw [hrest], ?_⟩
  · rw [(run_enterState n r c s).2.1]
    rcases hn with rfl | rfl <;> rfl
  · generalize enterState n r c s = t at hrest
    rw [hrest]

theorem GoesOn.trans {s t u : State} (h : GoesOn s t) (h' : GoesOn t u) : GoesOn s u := by
  refine ⟨h'.settle, h'.belt, h'.stall.trans h.stall, h'.ids.trans h.ids, ?_⟩
  rw [h'.rest, h.rest]

/-- A record of a tote is UNSURE and has missed nothing since (R31). -/
def Rec.Doubted (r : Rec) : Prop := r.role ≠ .hole → r.st = .unsure ∧ r.missed = 0

/-- One record marked UNSURE, its deadline loaded. -/
def doubt (t : State) (x : Nat × Nat) : State :=
  loadDeadline x.1 x.2 (now t) (unsureWindow t) (modRec x.1 (fun r => { r with st := .unsure, missed := 0 }) t)

/-- Marking a record is a change of that record alone, in place. -/
theorem list_doubt (t : State) (x : Nat × Nat) : ∃ i d, (doubt t x).trk.list = t.trk.list.map fun r =>
    if r.id = x.1 then { r with st := .unsure, missed := 0, expected := i, deadline := d } else r := by
  have twice (f g : Rec → Rec) (hf : ∀ r, (f r).id = r.id) : (modRec x.1 g (modRec x.1 f t)).trk.list =
      t.trk.list.map fun r => if r.id = x.1 then g (f r) else r := by
    simp only [modRec, State.setTrk_fields, List.map_map]
    refine List.map_congr_left fun r _ => ?_
    by_cases h : r.id = x.1 <;> simp [h, hf]
  unfold doubt loadDeadline
  split
  · exact ⟨_, _, twice _ _ fun _ => rfl⟩
  · exact ⟨_, _, twice _ _ fun _ => rfl⟩

theorem doubt_rest (t : State) (x : Nat × Nat) : doubt t x = { t with trk := (doubt t x).trk } := by
  unfold doubt
  rw [loadDeadline_rest]
  rfl

theorem doubt_all (l : List (Nat × Nat)) (s : State) (h : ∀ r ∈ s.trk.list, r.Doubted ∨ r.id ∈ l.map Prod.fst) :
    l.foldl doubt s = { s with trk := (l.foldl doubt s).trk } ∧
      (l.foldl doubt s).trk.list.map (fun r => (r.id, r.role)) = s.trk.list.map (fun r => (r.id, r.role)) ∧
        ∀ r ∈ (l.foldl doubt s).trk.list, r.Doubted := by
  induction l generalizing s with
  | nil => exact ⟨rfl, rfl, fun r hr => (h r hr).resolve_right (by simp)⟩
  | cons x l ih =>
      obtain ⟨i, d, hlist⟩ := list_doubt s x
      have hstep : ∀ r ∈ (doubt s x).trk.list, r.Doubted ∨ r.id ∈ l.map Prod.fst := by
        intro r hr
        rw [hlist] at hr
        obtain ⟨y, hy, rfl⟩ := List.mem_map.mp hr
        split
        · exact .inl fun _ => ⟨rfl, rfl⟩
        · next hne =>
          refine (h y hy).imp_right fun hmem => ?_
          exact (List.mem_cons.mp hmem).resolve_left hne
      obtain ⟨hrest, hids, hdone⟩ := ih (doubt s x) hstep
      refine ⟨?_, hids.trans ?_, hdone⟩
      · rw [List.foldl_cons]
        generalize l.foldl doubt (doubt s x) = t at hrest
        rw [hrest, doubt_rest]
      · rw [hlist, List.map_map]
        refine List.map_congr_left fun r _ => ?_
        simp only [Function.comp_apply]
        split <;> rfl

/-- Every tote record is UNSURE, in place (R31). -/
theorem markUnsure_spec (s : State) : markUnsure s = { s with trk := (markUnsure s).trk } ∧
    (markUnsure s).trk.list.map (fun r => (r.id, r.role)) = s.trk.list.map (fun r => (r.id, r.role)) ∧
      ∀ r ∈ (markUnsure s).trk.list, r.Doubted := by
  refine doubt_all _ s fun r hr => ?_
  by_cases hole : r.role = .hole
  · exact .inl fun h => absurd hole h
  · refine .inr ?_
    simp only [List.map_map, List.mem_map, List.mem_filter]
    exact ⟨r, ⟨hr, by simpa [Rec.isTote] using hole⟩, rfl⟩

theorem markUnsure_eq {s : State} (h : ∀ r ∈ s.trk.list, r.role = .hole) : markUnsure s = s := by
  have hnone : s.trk.list.filter Rec.isTote = [] := by
    rw [List.filter_eq_nil_iff]
    intro r hr
    simp [Rec.isTote, h r hr]
  rw [markUnsure, hnone]
  rfl

/-- The state in which the resume lap has begun (R184). -/
def lapBegun (s : State) : State :=
  let u := markUnsure (enterState .resuming none .settled s)
  u.setRun { u.run with stage := .lap, endPoint := some (now u + u.params.loopLen) }

theorem enterResuming_lap {s : State} (h : s.run.stage = .lap) : enterResuming s = enterState .resuming none .settled s := by
  unfold enterResuming
  have hstage := (run_enterState .resuming none .settled s).2.2.2.1
  simp [hstage, h]

theorem enterResuming_pending {s : State} (h : s.run.stage = .pending) : enterResuming s = lapCheck (lapBegun s) := by
  unfold enterResuming
  have hstage := (run_enterState .resuming none .settled s).2.2.2.1
  simp only [hstage, h, if_true]
  rfl

theorem goesOn_lapBegun {s : State} (hs : s.run.st.beltOn = true) : GoesOn s (lapBegun s) := by
  have henter := goesOn_enterState (.inr rfl) hs none .settled
  obtain ⟨hrest, hids, _⟩ := markUnsure_spec (enterState .resuming none .settled s)
  have hids' := congrArg (List.map Prod.fst) hids
  simp only [List.map_map, Function.comp_def] at hids'
  refine henter.trans ⟨?_, ?_, ?_, hids', ?_⟩
  · exact (congrArg (·.run.settle) hrest).trans henter.settle
  · exact (congrArg (·.run.belt) hrest).trans henter.belt
  · exact congrArg (·.run.stall) hrest
  · unfold lapBegun
    dsimp only
    generalize markUnsure (enterState .resuming none .settled s) = u at hrest
    rw [hrest]
    rfl

theorem lapCheck_unsure {s : State} (h : unsureLeft s = true) : lapCheck s = s := by
  unfold lapCheck
  simp [h]

/-- The last UNSURE record is gone in RESUMING (R184). -/
theorem lapCheck_done {s : State} (hstage : s.run.stage = .lap) (hst : s.run.st = .resuming) (h : unsureLeft s = false) :
    lapCheck s = enterState .running none .allRead (s.setRun { s.run with endPoint := none, stage := .none }) := by
  unfold lapCheck endLap
  simp [h, hstage, hst]

theorem goesOn_endLap {s : State} (hs : s.run.st.beltOn = true) :
    GoesOn s (enterState .running none .allRead (s.setRun { s.run with endPoint := none, stage := .none })) := by
  let u := s.setRun { s.run with endPoint := none, stage := .none }
  obtain ⟨hsettle, hbelt, hstall, hids, hrest⟩ := goesOn_enterState (.inl rfl) (s := u) hs none .allRead
  exact ⟨hsettle, hbelt, hstall, hids, hrest⟩

/-- What the settle point does where a resume is owed, its lap not begun. -/
theorem enterResuming_cases {s : State} (hs : s.run.st.beltOn = true) (hstage : s.run.stage = .pending) :
    GoesOn s (enterResuming s) ∧ ((∃ r ∈ s.trk.list, r.role ≠ .hole) → enterResuming s = lapBegun s) ∧
      ((∀ r ∈ s.trk.list, r.role = .hole ∧ r.st ≠ .unsure) → enterResuming s =
        enterState .running none .allRead ((lapBegun s).setRun { (lapBegun s).run with endPoint := none, stage := .none })) := by
  let e := enterState .resuming none .settled s
  obtain ⟨hrest, hids, hdoubted⟩ := markUnsure_spec e
  have hbegun : GoesOn s (lapBegun s) := goesOn_lapBegun hs
  have hst : (lapBegun s).run.st = .resuming :=
    (congrArg (·.run.st) hrest).trans (run_enterState .resuming none .settled s).1
  have hlist : e.trk.list = s.trk.list := by
    show (enterState .resuming none .settled s).trk.list = _
    rw [enterState_rest]
  have hend (hun : unsureLeft (lapBegun s) = false) := lapCheck_done (s := lapBegun s) rfl hst hun
  rw [enterResuming_pending hstage]
  refine ⟨?_, fun ⟨r, hr, hrole⟩ => lapCheck_unsure ?_, fun hall => hend ?_⟩
  · by_cases hun : unsureLeft (lapBegun s) = true
    · rw [lapCheck_unsure hun]
      exact hbegun
    · rw [hend (eq_false_of_ne_true hun)]
      exact hbegun.trans (goesOn_endLap (by rw [hst]; rfl))
  · have hmem : (r.id, r.role) ∈ (markUnsure e).trk.list.map fun r => (r.id, r.role) := by
      rw [hids, hlist]
      exact List.mem_map_of_mem hr
    obtain ⟨x, hx, hxr⟩ := List.mem_map.mp hmem
    have hxrole : x.role ≠ .hole := fun h => hrole ((congrArg Prod.snd hxr).symm.trans h)
    exact List.any_eq_true.mpr ⟨x, hx, decide_eq_true (hdoubted x hx hxrole).1⟩
  · have hsame : (lapBegun s).trk.list = s.trk.list := by
      show (markUnsure e).trk.list = _
      rw [markUnsure_eq fun r hr => (hall r (hlist ▸ hr)).1, hlist]
    refine List.any_eq_false.mpr fun r hr => ?_
    simpa using (hall r (hsame ▸ hr)).2

/-! ## The resume end point -/

/-- The notice of a record given up at the end of the lap (R35). -/
def lapLost (s : State) (r : Rec) : Notice :=
  .lost r.tote r.role r.reason r.ref (posOf s r.anchor).toNat r.missed .resume

/-- The records given up, one after the other. -/
def loseAll (l : List Nat) (s : State) : State := l.foldl (fun u id => loseRec id .resume u) s

/-- The records of `l` have been given up in the step from `s` to `t` (R31, R35). -/
structure GivenUp (l : List Rec) (s t : State) : Prop where
  list  : t.trk.list.map Rec.unmarked = (s.trk.list.map Rec.unmarked).filter fun x => !l.any fun y => y.id = x.id
  lost  : s.trk.lost ≤ 65535 → t.trk.lost = min 65535 (s.trk.lost + l.length)
  run   : ∃ x, t.run = { s.run with idle := x }
  core  : t.core = s.core
  lan   : t.lan = s.lan
  sgt   : t.sgt = s.sgt
  told  : Appends (2 * l.length) s t
  each  : ∀ r ∈ l, ToldAfter (2 * (l.length - 1)) (lapLost s r) s t

theorem lapLost_of_core {s t : State} (h : t.core = s.core) (r : Rec) : lapLost t r = lapLost s r := by
  simp only [State.core, Prod.mk.injEq] at h
  obtain ⟨_, hpos, hparams, _⟩ := h
  unfold lapLost posOf now
  rw [hpos, hparams]

theorem givenUp_loseAll (l : List Rec) (hl : (l.map (·.id)).Nodup) {s : State} (hstage : s.run.stage ≠ .lap)
    (hin : ∀ r ∈ l, (findRec s r.id).map Rec.unmarked = some r.unmarked) : GivenUp l s (loseAll (l.map (·.id)) s) := by
  induction l generalizing s with
  | nil => exact ⟨by simp [loseAll], fun h => by simpa [loseAll] using h, ⟨s.run.idle, rfl⟩, rfl, rfl, rfl,
      .of_eq rfl rfl, by simp⟩
  | cons r l ih =>
      obtain ⟨hnotin, hnodup⟩ := List.nodup_cons.mp hl
      obtain ⟨x, hx, hxr⟩ := Option.map_eq_some_iff.mp (hin r List.mem_cons_self)
      have hid : x.id = r.id := by
        show x.unmarked.id = r.unmarked.id
        rw [hxr]
      have hlost : lapLost s x = lapLost s r := by
        show lapLost s x.unmarked = lapLost s r.unmarked
        rw [hxr]
      let w := s.lossTold x .resume
      let u := loseRec r.id .resume s
      have hw : w = _ := lossTold_rest s x .resume
      have hrem : Removed x .lost w u := removed_loseRec hx .resume
      have htoldw : ToldAfter 0 (lapLost s x) s w := toldAfter_lossTold s x .resume
      have hsw : Appends (0 + 1) s w := by
        have hcount : Appends 0 s (s.setTrk { s.trk with lost := satInc counterMax s.trk.lost }) := .of_eq rfl rfl
        exact hcount.trans (appends_notify _ _)
      have hwu : Appends 1 w u := hrem.soon (by rw [hw]; exact hstage)
      obtain ⟨i, hrun⟩ := hrem.run (by rw [hw]; exact hstage)
      have hcore : u.core = s.core := hrem.core.trans (by rw [hw]; rfl)
      have hrest := ih hnodup (s := u) (by rw [hrun, hw]; exact hstage) fun y hy => by
        have hne : y.id ≠ x.id := fun he => hnotin (List.mem_map.mpr ⟨y, hy, he.trans hid⟩)
        rw [hrem.others hne, findRec_of_list (s := s) (by rw [hw])]
        exact hin y (List.mem_cons_of_mem _ hy)
      show GivenUp (r :: l) s (loseAll (l.map (·.id)) u)
      constructor
      case list =>
        rw [hrest.list, hrem.list, List.filter_filter, show w.trk.list = s.trk.list by rw [hw]]
        refine List.filter_congr fun y _ => ?_
        rw [List.any_cons, Bool.not_or, Bool.and_comm, hid]
        congr 1
        simp [eq_comm]
      case lost =>
        intro hcap
        have hu : u.trk.lost = satInc counterMax s.trk.lost := hrem.counts.1.trans (by rw [hw])
        have hstep : u.trk.lost = min 65535 (s.trk.lost + 1) := by
          rw [hu, satInc]
          split <;> simp only [counterMax] at * <;> omega
        rw [hrest.lost (by omega), hstep, List.length_cons]
        omega
      case run =>
        obtain ⟨j, hj⟩ := hrest.run
        exact ⟨j, by rw [hj, hrun, hw]⟩
      case core => exact hrest.core.trans hcore
      case lan => exact hrest.lan.trans (hrem.lan.trans (by rw [hw]))
      case sgt => exact hrest.sgt.trans (hrem.sgt.trans (by rw [hw]))
      case told => exact ((hsw.trans hwu).trans hrest.told).mono (by simp; omega)
      case each =>
        intro y hy
        rcases List.mem_cons.mp hy with rfl | hy
        · obtain ⟨v, j, hv, hvt⟩ := (htoldw.later hwu).later hrest.told
          exact ⟨v, j, hv.mono (Nat.zero_le _), hlost ▸ hvt⟩
        · have hlen : 2 * (l.length - 1) + 2 ≤ 2 * ((r :: l).length - 1) := by
            have := List.length_pos_of_mem hy
            simp
            omega
          obtain ⟨v, j, hv, hvt⟩ := (hrest.each y hy).before (hsw.trans hwu)
          exact ⟨v, j, hv.mono (by omega), lapLost_of_core hcore y ▸ hvt⟩

/-! ## O43 -/

/-- The lap begun, told. -/
theorem lapBegun_ntq (s : State) : (lapBegun s).ntq = (notify (.state s.run.st .resuming .settled) s).ntq := by
  obtain ⟨hmark, _⟩ := markUnsure_spec (enterState .resuming none .settled s)
  exact (congrArg (·.ntq) hmark).trans (ntq_enterState ..)

theorem lapBegun_st (s : State) : (lapBegun s).run.st = .resuming := by
  obtain ⟨hmark, _⟩ := markUnsure_spec (enterState .resuming none .settled s)
  exact (congrArg (·.run.st) hmark).trans (run_enterState ..).1

theorem lapBegun_endPoint (s : State) : (lapBegun s).run.endPoint = some (s.pos.odo + s.params.loopLen : Int) := by
  have hcore := core_markUnsure (enterState .resuming none .settled s)
  rw [core_enterState] at hcore
  simp only [State.core, Prod.mk.injEq] at hcore
  simp only [lapBegun, State.setRun, now, hcore]

theorem trk_lapBegun {s : State} (h : ∀ r ∈ s.trk.list, r.role = .hole) : (lapBegun s).trk = s.trk := by
  have hsame : (enterState .resuming none .settled s).trk = s.trk := by rw [enterState_rest]
  show (markUnsure (enterState .resuming none .settled s)).trk = _
  rw [markUnsure_eq (by rwa [hsame]), hsame]

theorem lapBegun_core (s : State) : (lapBegun s).core = s.core :=
  (core_markUnsure _).trans (core_enterState ..)

theorem settlePoint_moves {p : Int} {s : State} (hinv : Inv s) (hp : s.run.settle = some p) (hdue : p ≤ s.pos.odo) :
    ∃ t, exec .settlePoint s = .next t ∧ GoesOn s t ∧
      (s.run.stage = .none → t = enterState .running none .settled s) ∧
      (s.run.stage ≠ .none → t = enterResuming s) := by
  have hst : s.run.st = .starting := hinv.run.settle.mp (by rw [hp]; rfl)
  have hbelt : s.run.st.beltOn = true := by
    rw [hst]
    rfl
  have hexec : exec .settlePoint s = .next (if s.run.stage = .none then enterState .running none .settled s else
      enterResuming s) := by
    show Host.Outcome.next (settleDue s) = _
    rw [settleDue, hp, whenDue_reached hdue]
  refine ⟨_, hexec, ?_, fun h => by rw [if_pos h], fun h => by rw [if_neg h]⟩
  cases hstage : s.run.stage
  case none => exact goesOn_enterState (.inl rfl) hbelt none .settled
  case pending => exact (enterResuming_cases hbelt hstage).1
  case lap =>
    rw [if_neg (by decide), enterResuming_lap hstage]
    exact goesOn_enterState (.inr rfl) hbelt none .settled

/-- The records of which one predicate on their ids tells whether they are in `l`. -/
theorem any_id_iff {x : Trk} (h : TrkOk x) (p : Rec → Bool) {r : Rec} (hr : r ∈ x.list) :
    ((x.list.filter p).any fun y => y.id = r.id) = p r := by
  rw [Bool.eq_iff_iff, List.any_eq_true]
  constructor
  · rintro ⟨y, hy, hid⟩
    obtain ⟨hmem, hpy⟩ := List.mem_filter.mp hy
    rwa [← h.unique hmem hr (of_decide_eq_true hid)]
  · exact fun hp => ⟨r, List.mem_filter.mpr ⟨hr, hp⟩, decide_eq_true rfl⟩

/-- The records still UNSURE at the end of the lap. -/
def State.unsures (s : State) : List Rec := s.trk.list.filter fun r => r.st = .unsure

/-- The state in which the lap is over and its records are given up. -/
def lapOver (s : State) : State :=
  loseAll (s.unsures.map (·.id)) (s.setRun { s.run with endPoint := none, stage := .none })

theorem givenUp_lapOver {s : State} (hinv : Inv s) :
    GivenUp s.unsures (s.setRun { s.run with endPoint := none, stage := .none }) (lapOver s) := by
  refine givenUp_loseAll _ (hinv.trk.ids.sublist (List.filter_sublist.map _)) (by simp) fun r hr => ?_
  have hrec : findRec s r.id = some r := findRec_of_mem hinv.trk (List.mem_filter.mp hr).1
  have hsame : findRec (s.setRun { s.run with endPoint := none, stage := .none }) r.id = findRec s r.id := rfl
  rw [hsame, hrec]
  rfl

/-- The resume end point taken: from RESUMING run control goes on to RUNNING (R184). -/
def lapDone (s : State) : State :=
  if (lapOver s).run.st = .resuming then enterState .running none .lapEnd (lapOver s) else lapOver s

theorem lapDone_fields {s : State} (h : ∃ x, (lapOver s).run = { s.run with endPoint := none, stage := .none, idle := x }) :
    let t := lapDone s
    (t.run.endPoint = none ∧ t.run.stage = .none ∧ (s.run.st = .resuming → t.run.st = .running) ∧
      (s.run.st ≠ .resuming → t.run.st = s.run.st)) ∧
      t.trk = (lapOver s).trk ∧ t.lan = (lapOver s).lan ∧ t.sgt = (lapOver s).sgt ∧ Appends 1 (lapOver s) t := by
  obtain ⟨x, hrun⟩ := h
  generalize hg : lapOver s = g at hrun
  have hst : g.run.st = s.run.st := by rw [hrun]
  simp only [lapDone, hg, hst]
  split
  · next hres =>
    obtain ⟨hnew, _, _, hstage, hend, _⟩ := run_enterState .running none .lapEnd g
    rw [hrun] at hstage hend
    have happ := appends_enterState .running none .lapEnd g
    refine ⟨⟨hend, hstage, fun _ => hnew, fun h => absurd hres h⟩, ?_, ?_, ?_, happ⟩
    all_goals rw [enterState_rest]
  · next hres =>
    refine ⟨⟨?_, ?_, fun h => absurd h hres, fun _ => hst⟩, rfl, rfl, rfl, Appends.mono (j := 0) (.of_eq rfl rfl) (by omega)⟩
    all_goals rw [hrun]

/-- No record is UNSURE once those that were are given up. -/
theorem lapOver_list {s : State} (hinv : Inv s) : (lapOver s).trk.list.map Rec.unmarked =
    (s.trk.list.map Rec.unmarked).filter fun r => r.st ≠ .unsure := by
  have hlist := (givenUp_lapOver hinv).list
  rw [hlist]
  show ((s.trk.list.map Rec.unmarked).filter _) = _
  refine List.filter_congr fun y hy => ?_
  obtain ⟨r, hr, rfl⟩ := List.mem_map.mp hy
  have hany := any_id_iff hinv.trk (fun r => r.st = .unsure) hr
  rw [State.unsures, show (r.unmarked.id) = r.id from rfl, hany, ← decide_not]
  rfl

/-- The lap over with every record seen again (R184). -/
theorem endLap_fields (s : State) :
    let t := enterState .running none .allRead (s.setRun { s.run with endPoint := none, stage := .none })
    t.run.st = .running ∧ t.run.stage = .none ∧ t.run.endPoint = none ∧ t.trk = s.trk ∧
      t.ntq = (notify (.state s.run.st .running .allRead) s).ntq := by
  obtain ⟨hnew, _, _, hstage, hend, _⟩ :=
    run_enterState .running none .allRead (s.setRun { s.run with endPoint := none, stage := .none })
  refine ⟨hnew, hstage, hend, ?_, ?_⟩
  · rw [enterState_rest]
    rfl
  · rw [ntq_enterState]
    exact ntq_notify_congr _ rfl rfl

/-- Settles O43: the settle point by the stage of the resume, the resume end point by the records given up one by one. -/
theorem settlePointAndResumeEndPoint : Obligations.SettlePointAndResumeEndPoint := by
  refine ⟨fun p s hinv hp hdue => ?_, fun p s hinv hp hdue => ?_⟩
  · have hst : s.run.st = .starting := hinv.run.settle.mp (by rw [hp]; rfl)
    have hbelt : s.run.st.beltOn = true := by
      rw [hst]
      rfl
    obtain ⟨t, hexec, ⟨hsettle, hon, hstall, hids, hrest⟩, hnone, hsome⟩ := settlePoint_moves hinv hp hdue
    refine ⟨t, hexec, hsettle, hon, hstall, hids, by rw [hrest], by rw [hrest], by rw [hrest], by rw [hrest], by rw [hrest],
      by rw [hrest], fun hstage => ?_, fun hstage => ?_, fun hstage htote => ?_, fun hstage hholes => ?_⟩
    · obtain ⟨hnew, _, _, hkept, _⟩ := run_enterState .running none .settled s
      rw [hnone hstage]
      exact ⟨hnew, hkept.trans hstage, by rw [enterState_rest], by rw [ntq_enterState, hst]⟩
    · obtain ⟨hnew, _, _, hkept, hend, _⟩ := run_enterState .resuming none .settled s
      rw [hsome (by rw [hstage]; decide), enterResuming_lap hstage]
      exact ⟨hnew, hkept.trans hstage, hend, by rw [enterState_rest], by rw [ntq_enterState, hst]⟩
    · rw [hsome (by rw [hstage]; decide), (enterResuming_cases hbelt hstage).2.1 htote]
      obtain ⟨_, _, hdoubted⟩ := markUnsure_spec (enterState .resuming none .settled s)
      refine ⟨lapBegun_st s, rfl, ?_, hdoubted⟩
      rw [lapBegun_endPoint]
      rfl
    · rw [hsome (by rw [hstage]; decide), (enterResuming_cases hbelt hstage).2.2 hholes]
      obtain ⟨hnew, hkept, hend, htrk, hntq⟩ := endLap_fields (lapBegun s)
      refine ⟨hnew, hkept, hend, htrk.trans (trk_lapBegun fun r hr => (hholes r hr).1), ?_⟩
      rw [hntq, lapBegun_st]
      have hbegun := lapBegun_ntq s
      rw [hst] at hbegun
      exact ntq_notify_congr _ hbegun (by
        rw [notify_eq]
        exact congrArg (·.2.1) (lapBegun_core s))
  · have hexec : exec .resumeEndPoint s = .next (lapDone s) := by
      show Host.Outcome.next (resumeEndDue s) = _
      rw [resumeEndDue, hp, whenDue_reached hdue]
      rfl
    have hgiven := givenUp_lapOver hinv
    obtain ⟨⟨hend, hstage, hresuming, hother⟩, htrk, hlan, hsgt, htold⟩ := lapDone_fields hgiven.run
    have hlist : (lapDone s).trk.list.map Rec.unmarked = (s.trk.list.map Rec.unmarked).filter fun r => r.st ≠ .unsure := by
      rw [htrk]
      exact lapOver_list hinv
    have hcount : s.trk.list.countP (fun r => r.st = .unsure) = s.unsures.length := List.countP_eq_length_filter
    refine ⟨_, hexec, hend, hstage, fun r hr => ?_, ?_, hresuming, hother, hlan.trans hgiven.lan, hsgt.trans hgiven.sgt,
      fun hcap => ?_, fun hfew r hr hst => ?_⟩
    · have hmem : r.unmarked ∈ (s.trk.list.map Rec.unmarked).filter fun r => r.st ≠ .unsure := hlist ▸ List.mem_map_of_mem hr
      exact of_decide_eq_true (List.mem_filter.mp hmem).2
    · have hlen := congrArg List.length hlist
      rw [List.length_map, List.filter_map, List.length_map, ← List.countP_eq_length_filter] at hlen
      rw [hlen, Nat.add_comm, List.length_eq_countP_add_countP (fun r : Rec => decide (r.st = .unsure))]
      congr 2
      funext r
      simp
    · rw [htrk, hcount]
      exact hgiven.lost hcap
    · rw [hcount] at hfew
      have hmem : r ∈ s.unsures := List.mem_filter.mpr ⟨hr, decide_eq_true hst⟩
      exact (((hgiven.each r hmem).later htold).before (r := s) (j := 0) (.of_eq rfl rfl)).told (by omega)

end Sys2Proof.Machine
end

section
/-! PROOFS. The hole point and the arrival point (O42). -/

namespace Sys2Proof.Machine

/-- What MRG's book says besides `mrg_of_spurBook`. -/
theorem accrual_of_spurBook {s t : State} (h : t.spurBook = s.spurBook) : t.mrg.count = s.mrg.count ∧
    t.mrg.since = s.mrg.since ∧ t.mrg.hole = s.mrg.hole ∧ t.mrg.arrival = s.mrg.arrival := by
  simp only [State.spurBook, Mrg.mk.injEq] at h
  obtain ⟨_, _, _, _, _, hcount, hsince, _, hhole, harrival⟩ := h
  exact ⟨hcount, hsince, hhole, harrival⟩

/-! ## A hole placed at the origin -/

/-- IND's request for a hole of a length (R148). -/
def holeReq (s : State) (len : Nat) : InsertReq := ⟨.hole, .none, 0, now s, none, len, false⟩

/-- The hole that the request places (R25). -/
def newHole (s : State) (len : Nat) : Rec := (holeReq s len).record s.trk.nextId (now s)

/-- The list with the hole seated in it, before the list change is announced. -/
def State.holed (s : State) (len : Nat) : State :=
  s.setTrk { s.trk with list := seatIn (newHole s len) s.trk.list, nextId := s.trk.nextId + 1 }

theorem normAnchor_now (s : State) : normAnchor s (now s - (0 : Nat)) = now s := by
  simp [normAnchor, posOf, onLoop]

theorem holePresent_iff (s : State) : holePresent s = true ↔ ∃ r ∈ s.trk.list, r.role = .hole := by
  simp [holePresent]

theorem insertRec_hole {s : State} (hroom : s.trk.list.length < 96) (hno : ∀ r ∈ s.trk.list, r.role ≠ .hole) (len : Nat) :
    insertRec (holeReq s len) s = (listChange (s.holed len), .taken, some s.trk.nextId) := by
  have habsent : ¬((holeReq s len).role = .hole ∧ holePresent s = true) := fun h => by
    obtain ⟨r, hr, hrole⟩ := (holePresent_iff s).mp h.2
    exact hno r hr hrole
  unfold insertRec
  rw [if_neg (Nat.not_le.mpr hroom), if_neg habsent]
  show (listChange (s.setTrk { s.trk with
    list := seatIn ((holeReq s len).record s.trk.nextId (normAnchor s (now s - (0 : Nat)))) s.trk.list
    nextId := s.trk.nextId + 1 }), Answer.taken, some s.trk.nextId) = _
  rw [normAnchor_now]
  rfl

theorem insertRec_hole_refused {s : State} (h : 96 ≤ s.trk.list.length ∨ ∃ r ∈ s.trk.list, r.role = .hole) (len : Nat) :
    ∃ a, a ≠ Answer.taken ∧ insertRec (holeReq s len) s = (s, a, none) := by
  unfold insertRec
  split
  · exact ⟨.full, by decide, rfl⟩
  · next hroom =>
    rw [if_pos ⟨rfl, (holePresent_iff s).mpr (h.resolve_left hroom)⟩]
    exact ⟨.holePresent, by decide, rfl⟩

theorem find?_seatIn_only {p : Rec → Bool} {r : Rec} {l : List Rec} (hr : p r = true) (hl : ∀ x ∈ l, p x = false) :
    (seatIn r l).find? p = some r := by
  have hnone : ((l.filter fun x => x.id ≠ r.id).takeWhile fun x => x.anchor ≤ r.anchor).find? p = none := by
    rw [List.find?_eq_none]
    intro x hx
    simp [hl x (List.mem_filter.mp (List.takeWhile_subset _ hx)).1]
  unfold seatIn
  rw [List.find?_append, hnone, List.find?_cons_of_pos hr]
  rfl

/-- The state in which the hole is handed to MRG (R168). -/
def State.holeTaken (s : State) (len : Nat) : State :=
  let u := listChange (s.holed len)
  let v := u.setInd { u.ind with holeWait := none, holePoint := none }
  indLook (v.setMrg { v.mrg with hole := .travelling, arrival := some (s.pos.odo + slotPos s : Int) })

theorem holeDue_taken {len : Nat} {p : Int} {s : State} (hwait : s.ind.holeWait = some len) (hp : s.ind.holePoint = some p)
    (hdue : p ≤ s.pos.odo) (hroom : s.trk.list.length < 96) (hno : ∀ r ∈ s.trk.list, r.role ≠ .hole) :
    holeDue s = s.holeTaken len := by
  have hfind : findHole (listChange (s.holed len)) = some (newHole s len) := by
    unfold findHole
    rw [(listChange_fields _).2.1]
    exact find?_seatIn_only rfl fun x hx => by simpa using hno x hx
  have hslot : slotPos (listChange (s.holed len)) = slotPos s := by
    rw [listChange_rest]
    rfl
  have hins := insertRec_hole hroom hno len
  unfold holeReq at hins
  simp only [holeDue, hwait, hp, whenDue_reached hdue, hins, if_true, hfind, Option.map_some, hslot]
  rfl

theorem holeDue_refused {len : Nat} {p : Int} {s : State} (hwait : s.ind.holeWait = some len) (hp : s.ind.holePoint = some p)
    (hdue : p ≤ s.pos.odo) (h : 96 ≤ s.trk.list.length ∨ ∃ r ∈ s.trk.list, r.role = .hole) :
    holeDue s = { s with ind := { s.ind with holePoint := none } } := by
  obtain ⟨a, ha, hins⟩ := insertRec_hole_refused h len
  unfold holeReq at hins
  simp only [holeDue, hwait, hp, whenDue_reached hdue, hins, ha, if_false]
  rfl

/-! ## The hole removed -/

/-- The hole, where there is one, has left the list in the step from `s` to `t` (R33). -/
structure Dehole (s t : State) : Prop where
  list  : t.trk.list.map Rec.unmarked = (s.trk.list.map Rec.unmarked).filter fun r => r.role ≠ .hole
  ord   : t.ord = s.ord
  core  : t.core = s.core
  sgt   : t.sgt = s.sgt
  lan   : t.lan = s.lan
  book  : t.spurBook = s.spurBook
  ind   : t.indBook = s.indBook
  gates : GateCommandsOnly s t
  wakes : NoNewWake s t
  run   : s.run.stage ≠ .lap → ∃ x, t.run = { s.run with idle := x }
  quiet : (∀ r ∈ s.trk.list, r.role = .hole → fireOf s r.id = none) → t.rng = s.rng

/-- The hole of a list is its only one (R16). -/
theorem id_ne_iff_of_hole {x : Trk} (h : TrkOk x) {r y : Rec} (hr : r ∈ x.list) (hrole : r.role = .hole) (hy : y ∈ x.list) :
    y.id ≠ r.id ↔ y.role ≠ .hole := by
  refine ⟨fun hid hyrole => ?_, fun hyrole hid => hyrole (h.unique hy hr hid ▸ hrole)⟩
  have hcount := h.hole
  rw [(h.split hr).countP_eq, List.countP_cons_of_pos (by simpa using hrole)] at hcount
  have hpos : 0 < (x.list.filter fun z => z.id ≠ r.id).countP fun z => z.role = .hole :=
    List.countP_pos_iff.mpr ⟨y, List.mem_filter.mpr ⟨hy, decide_eq_true hid⟩, decide_eq_true hyrole⟩
  omega

theorem dehole_removeHole {s : State} (h : TrkOk s.trk) : Dehole s (removeHole s) := by
  unfold removeHole findHole
  cases hfind : s.trk.list.find? fun r => r.role = .hole
  case none =>
    have hno : ∀ r ∈ s.trk.list, r.role ≠ .hole := by simpa using hfind
    refine ⟨?_, rfl, rfl, rfl, rfl, rfl, rfl, .of_quiet rfl rfl, .of_rng rfl, fun _ => ⟨s.run.idle, rfl⟩, fun _ => rfl⟩
    rw [List.filter_eq_self.mpr]
    intro r hr
    obtain ⟨x, hx, rfl⟩ := List.mem_map.mp hr
    exact decide_eq_true (hno x hx)
  case some r =>
    have hr : r ∈ s.trk.list := List.mem_of_find?_eq_some hfind
    have hrole : r.role = .hole := by simpa using List.find?_some hfind
    have hrem := removed_removeRec (findRec_of_mem h hr) .removed
    refine ⟨?_, ?_, hrem.core, hrem.sgt, hrem.lan, hrem.book, hrem.ind, hrem.gates, hrem.wakes, hrem.run,
      fun hno => hrem.quiet (hno r hr hrole)⟩
    · rw [hrem.list]
      refine List.filter_congr fun y hy => ?_
      obtain ⟨x, hx, rfl⟩ := List.mem_map.mp hy
      exact decide_eq_decide.mpr (id_ne_iff_of_hole (y := x) h hr hrole hx)
    · rw [hrem.ord, settleEntry]
      simp [hrole]

/-! ## The arrival point -/

/-- MERGE GO given (R160, R168): the READY becomes the grant, and accrual pauses. -/
structure Granted (forced : Bool) (y : Ready) (s t : State) : Prop where
  rest     : t = { s with run := t.run, mrg := t.mrg, rng := t.rng }
  ready    : t.mrg.ready = none
  grant    : t.mrg.grant = some ⟨y, s.pos.odo, s.pos.odo + s.params.mergeConfirm, forced⟩
  interval : t.mrg.interval = none
  count    : t.mrg.count = if s.mrg.interval.isSome then s.mrg.count + (s.pos.odo - s.mrg.since).toNat else s.mrg.count
  debt     : t.mrg.debt = s.mrg.debt
  placed   : ∀ d i, firstOf s .merge = some (d, i) → Placed s t ⟨d.prim, .mergeGo⟩

theorem placeForKind_rest (k : StationKind) (c : CtlKind) (s : State) :
    placeForKind k c s = { s with rng := (placeForKind k c s).rng } := by
  unfold placeForKind
  split
  · exact placeControl_rest ..
  · rfl

theorem Placed.of_rng {s t u : State} {c : Ctl} (h : Placed s t c) (hu : u.rng = t.rng) : Placed s u c := by
  obtain ⟨hstands, hothers, hrest⟩ := h
  exact ⟨by rwa [hu], by rwa [hu], by rwa [hu]⟩

theorem pauseAccrual_count (s : State) : (pauseAccrual s).mrg.count =
    if s.mrg.interval.isSome then s.mrg.count + (now s - s.mrg.since).toNat else s.mrg.count := by
  unfold pauseAccrual
  split <;> rfl

theorem granted_mergeGo (forced : Bool) {y : Ready} {s : State} (h : s.mrg.ready = some y) :
    Granted forced y s (mergeGo forced s) := by
  let p := placeForKind .merge .mergeGo s
  let u := pauseAccrual p
  have hp : p = _ := placeForKind_rest ..
  have hu : u = _ := pauseAccrual_rest p
  have ht : mergeGo forced s = runIdle (mrgLook (u.setMrg { u.mrg with
      ready := none, grant := some ⟨y, s.pos.odo, now s + s.params.mergeConfirm, forced⟩ })) := by
    unfold mergeGo
    rw [h]
  obtain ⟨hinterval, _, hdebt, _⟩ := pauseAccrual_mrg p
  have hrng : u.rng = p.rng := by rw [hu]
  rw [ht, runIdle_rest]
  constructor
  case rest =>
    rw [hu, hp]
    rfl
  case ready => rfl
  case grant => rfl
  case interval => exact hinterval
  case count =>
    refine (pauseAccrual_count p).trans ?_
    rw [hp]
    rfl
  case debt =>
    refine hdebt.trans ?_
    rw [hp]
  case placed =>
    intro d i hd
    refine (placed_placeControl ⟨d.prim, .mergeGo⟩ s).of_rng (hrng.trans ?_)
    show (placeForKind .merge .mergeGo s).rng = _
    rw [placeForKind, hd]

/-- The state in which the arrival point has used the hole, if it can, before the hole leaves the list (R168). -/
def State.arrived (s : State) : State :=
  let u := if s.mrg.ready.isSome && s.mrg.grant.isNone && s.run.st = .running then mergeGo true s else s
  u.setMrg { u.mrg with hole := .none, arrival := none }

theorem arrivalDue_eq {p : Int} {s : State} (hp : s.mrg.arrival = some p) (hdue : p ≤ s.pos.odo) :
    arrivalDue s = mrgLook (removeHole s.arrived) := by
  rw [arrivalDue, hp, whenDue_reached hdue]
  rfl

theorem arrived_idle {s : State} (h : s.mrg.ready = none ∨ s.mrg.grant.isSome ∨ s.run.st ≠ .running) :
    s.arrived = s.setMrg { s.mrg with hole := .none, arrival := none } := by
  have hno : (s.mrg.ready.isSome && s.mrg.grant.isNone && s.run.st = .running) = false := by
    rcases h with h | h | h
    · simp [h]
    · simp [Option.isNone_eq_false_iff.mpr h]
    · simp [h]
  simp [State.arrived, hno]

theorem arrived_grants {s : State} {y : Ready} (hy : s.mrg.ready = some y) (hg : s.mrg.grant = none)
    (hst : s.run.st = .running) :
    s.arrived = (mergeGo true s).setMrg { (mergeGo true s).mrg with hole := .none, arrival := none } := by
  simp [State.arrived, hy, hg, hst]

theorem holeTaken_rest (s : State) (len : Nat) : s.holeTaken len = { s with
    trk := (s.holed len).trk, run := (s.holeTaken len).run, ind := (s.holeTaken len).ind, mrg := (s.holeTaken len).mrg
    ntq := (s.holeTaken len).ntq } := by
  unfold State.holeTaken
  dsimp only
  rw [listChange_rest]
  rfl

/-- MRG's debt and READY stand while the hole is placed (R168). -/
theorem mrg_holeTaken (s : State) (len : Nat) :
    (s.holeTaken len).mrg.ready = s.mrg.ready ∧ (s.holeTaken len).mrg.debt = s.mrg.debt := by
  have hbook : (listChange (s.holed len)).spurBook = s.spurBook := spurBook_listChange _
  obtain ⟨_, hdebt, _, hready, _⟩ := mrg_of_spurBook hbook
  exact ⟨hready, hdebt⟩

theorem length_seatIn {r : Rec} {l : List Rec} (h : ∀ x ∈ l, x.id ≠ r.id) : (seatIn r l).length = l.length + 1 := by
  rw [(seatIn_perm ..).length_eq, List.length_cons, List.filter_eq_self.mpr fun x hx => decide_eq_true (h x hx)]

/-- The arrival point uses the hole: what MRG and the ring port hold once the hole is gone. -/
theorem arrived_mrg (s : State) : s.arrived.mrg.hole = .none ∧ s.arrived.mrg.arrival = none := ⟨rfl, rfl⟩

/-- Only run control, MRG and the ring port know of MERGE GO. -/
theorem arrived_rest (s : State) :
    s.arrived = { s with run := s.arrived.run, mrg := s.arrived.mrg, rng := s.arrived.rng } := by
  cases hy : s.mrg.ready
  case none =>
    rw [arrived_idle (.inl hy)]
    rfl
  case some y =>
    by_cases hidle : s.mrg.grant.isSome ∨ s.run.st ≠ .running
    · rw [arrived_idle (.inr hidle)]
      rfl
    · obtain ⟨hgrant, hst⟩ := not_or.mp hidle
      have hrest := (granted_mergeGo true hy).rest
      rw [arrived_grants hy (by simpa using hgrant) (not_not.mp hst)]
      generalize mergeGo true s = u at hrest
      rw [hrest]
      rfl

theorem arrived_debt (s : State) : s.arrived.mrg.debt = s.mrg.debt := by
  unfold State.arrived
  dsimp only
  split
  · next h =>
    obtain ⟨y, hy⟩ : ∃ y, s.mrg.ready = some y := Option.isSome_iff_exists.mp (by simp_all)
    exact (granted_mergeGo true hy).debt
  · rfl

/-- Settles O42: the hole point by TRK's answer, the arrival point by whether MRG can grant, the hole removed after. -/
theorem holePointAndArrivalPoint : Obligations.HolePointAndArrivalPoint := by
  refine ⟨fun len p s hinv hwait hp hdue => ⟨fun hroom hno => ?_, fun h => ?_⟩, fun p s hinv hp hdue => ?_⟩
  · have hexec : exec .holePoint s = .next (s.holeTaken len) :=
      congrArg Host.Outcome.next (holeDue_taken hwait hp hdue hroom hno)
    have hlist : (s.holeTaken len).trk.list = seatIn (newHole s len) s.trk.list := by
      show (listChange (s.holed len)).trk.list = _
      rw [(listChange_fields _).2.1]
      rfl
    have hfresh : ∀ x ∈ s.trk.list, x.id ≠ (newHole s len).id := fun x hx => (hinv.trk.given x hx).ne
    have hmem : newHole s len ∈ (s.holeTaken len).trk.list := by
      rw [hlist]
      exact (seatIn_perm ..).mem_iff.mpr List.mem_cons_self
    obtain ⟨hready, hdebt⟩ := mrg_holeTaken s len
    have hrest := holeTaken_rest s len
    refine ⟨_, newHole s len, hexec, by rw [hlist, length_seatIn hfresh], hmem, rfl, rfl, rfl, rfl, rfl, rfl, rfl, rfl, rfl,
      hready, hdebt, ?_⟩
    refine ⟨?_, ?_, ?_, ?_, ?_, ?_⟩ <;> rw [hrest]
  · exact congrArg Host.Outcome.next (holeDue_refused hwait hp hdue h)
  · have hexec : exec .arrivalPoint s = .next (mrgLook (removeHole s.arrived)) :=
      congrArg Host.Outcome.next (arrivalDue_eq hp hdue)
    have hrest := arrived_rest s
    have htrk : s.arrived.trk = s.trk := by rw [hrest]
    have hfires : ∀ k, fireOf s.arrived k = fireOf s k := fun k => by rw [hrest]; rfl
    have hole : Dehole s.arrived (removeHole s.arrived) := dehole_removeHole (htrk ▸ hinv.trk)
    have hbook : (mrgLook (removeHole s.arrived)).spurBook = s.arrived.spurBook := hole.book
    obtain ⟨hgrant, hdebt, _, hready, hinterval⟩ := mrg_of_spurBook hbook
    obtain ⟨hcount, _, hhole, harrival⟩ := accrual_of_spurBook hbook
    have hids : (removeHole s.arrived).trk.list.map (·.id) = (s.trk.list.filter fun r => r.role ≠ .hole).map (·.id) := by
      have hmap := congrArg (List.map (·.id)) hole.list
      simp only [List.filter_map, List.map_map, htrk] at hmap
      exact hmap
    have hquiet (h : ∀ r ∈ s.trk.list, r.role = .hole → fireOf s r.id = none) :
        (mrgLook (removeHole s.arrived)).rng = s.arrived.rng := by
      refine hole.quiet fun r hr hrole => ?_
      rw [hfires]
      exact h r (htrk ▸ hr) hrole
    refine ⟨_, hexec, hhole, harrival, hdebt.trans (arrived_debt s), hids, hole.ord.trans (by rw [hrest]),
      hole.lan.trans (by rw [hrest]), fun y hy hg hst => ?_, fun hidle => ?_⟩
    · have hgo := granted_mergeGo true hy
      have hsame := arrived_grants hy hg hst
      refine ⟨hready.trans ?_, hgrant.trans ?_, hinterval.trans ?_, hcount.trans ?_, fun hno d i hd => ?_⟩
      · rw [hsame]
        exact hgo.ready
      · rw [hsame]
        exact hgo.grant
      · rw [hsame]
        exact hgo.interval
      · rw [hsame]
        exact hgo.count
      · refine (hgo.placed d i hd).of_rng ((hquiet hno).trans ?_)
        rw [hsame]
        rfl
    · have hsame := arrived_idle hidle
      have hmrg : s.arrived.mrg = { s.mrg with hole := .none, arrival := none } := congrArg (·.mrg) hsame
      refine ⟨hready.trans ?_, hgrant.trans ?_, hinterval.trans ?_, hcount.trans ?_, fun hno => (hquiet hno).trans ?_⟩
      · rw [hmrg]
      · rw [hmrg]
      · rw [hmrg]
      · rw [hmrg]
      · rw [hsame]
        rfl

end Sys2Proof.Machine
end

section
/-! PROOFS. ENTRY, the verify deadline and the delivery of a record (O26). -/

namespace Sys2Proof.Machine

/-! ## The lamp -/

/-- What comes after a lamp has followed and places commands for gates only. -/
theorem LampFollows.later {n : Nat} {s t u : State} (h : LampFollows n s t) (hpos : t.pos = s.pos)
    (hlane : (laneOf u n).cfg = (laneOf t n).cfg ∧ (laneOf u n).occ = (laneOf t n).occ ∧
      (laneOf u n).lampOn = (laneOf t n).lampOn) (hg : GateCommandsOnly t u) : LampFollows n s u := by
  obtain ⟨hcfg, hocc, hlamp⟩ := hlane
  have hfull : laneFull u n = laneFull t n := by
    unfold laneFull
    rw [hcfg, hocc]
  have hrec (m : Nat) : gateRec t m = gateRec s m := gateRec_of_force (by rw [hpos]) m
  constructor
  · rw [hfull, hlamp]
    intro hne d hd
    obtain ⟨hon, hin, honly⟩ := h.crossed hne d hd
    exact ⟨hon, fun hno => hg.stand _ (hin hno) fun m x hx => hno m x (hrec m ▸ hx),
      fun c hc hk => honly c (hg.lamps c hc hk) hk⟩
  · rw [hfull, hlamp]
    intro hsame
    obtain ⟨hon, honly⟩ := h.stayed hsame
    exact ⟨hon, fun c hc hk => honly c (hg.lamps c hc hk) hk⟩

/-- What comes before a lamp follows and touches neither the lamp nor what it shows. -/
theorem LampFollows.before {n : Nat} {r s t : State} (h : LampFollows n s t) (hpos : s.pos = r.pos) (hrng : s.rng = r.rng)
    (hlane : (laneOf s n).cfg = (laneOf r n).cfg ∧ (laneOf s n).occ = (laneOf r n).occ ∧
      (laneOf s n).lampOn = (laneOf r n).lampOn) : LampFollows n r t := by
  obtain ⟨hcfg, hocc, hlamp⟩ := hlane
  have hfull : laneFull s n = laneFull r n := by
    unfold laneFull
    rw [hcfg, hocc]
  have hrec (m : Nat) : gateRec s m = gateRec r m := gateRec_of_force (by rw [hpos]) m
  obtain ⟨hcrossed, hstayed⟩ := h
  simp only [hfull, hrec, hrng, hlamp] at hcrossed hstayed
  exact ⟨hcrossed, hstayed⟩

/-! ## The occupancy raised -/

/-- A lane with one tote more in it (R117). -/
def Lane.raised (l : Lane) : Lane := { l with occ := satInc 15 l.occ }

/-- A lane that gains a tote frees no record and closes to none (R118). -/
theorem raiseOccupancy_changed {n : Nat} {s : State} (hn : n < Config.lanes) (hocc : (laneOf s n).occ ≤ 15) :
    LaneChanged n (laneOf s n).raised s (raiseOccupancy n s) := by
  obtain ⟨u, hu, heq⟩ := laneUpdate_changed n Lane.raised s hn
  have hraised : flagRaised (laneOf s n) (laneOf s n).raised = false := by simp [flagRaised, Lane.raised]
  have hdropped : flagDropped (laneOf s n) (laneOf s n).raised = false := by simp [flagDropped, Lane.raised]
  have hfull : ((laneOf s n).full && !(laneOf s n).raised.full) = false := by
    simp only [Lane.full, Lane.raised, satInc_eq_min, Bool.and_eq_false_imp, decide_eq_true_eq]
    simp
    omega
  have hsame : raiseOccupancy n s = u := by
    refine heq.trans ?_
    simp only [hraised, hdropped, hfull]
    rfl
  rwa [hsame]

theorem lampFollows_raiseOccupancy {n : Nat} {s : State} (hn : n < Config.lanes) : LampFollows n s (raiseOccupancy n s) :=
  lampFollows_laneUpdate n Lane.raised s hn rfl

theorem LaneChanged.appends {n : Nat} {l : Lane} {s u : State} (h : LaneChanged n l s u) : Appends 1 s u := by
  have hn := h.notice
  have hpos : u.pos = s.pos := by rw [h.rest]
  split at hn
  · exact Appends.mono (j := 0) (.of_eq (by rw [hpos]) hn) (by omega)
  · refine (appends_notify (.lane n l.computed l.faulted l.occ) s).trans (.of_eq ?_ hn)
    rw [hpos, notify_rest]

/-! ## A delivery -/

/-- The record `r` has been delivered to the lane `n` in the step from `s` to `t` (R130). -/
structure Delivered (n : Nat) (r : Rec) (confirmed late : Bool) (s t : State) : Prop where
  lane   : laneOf t n = { laneOf s n with deliveries := satInc 65535 (laneOf s n).deliveries }
  others : ∀ m, m ≠ n → laneOf t m = laneOf s m
  gone   : findRec t r.id = none
  length : t.trk.list.length + 1 = s.trk.list.length
  ord    : t.ord = (settleEntry r (deliveryFate n r) s).ord
  told   : ToldAfter 2 (deliveryNotice n r confirmed late) s t
  gates  : GateCommandsOnly s t
  ready  : ReadyAnew 0 s t
  point  : PointHeld t

theorem delivered_deliver {n id : Nat} {r : Rec} {s : State} (hn : n < Config.lanes) (htrk : TrkOk s.trk)
    (h : findRec s id = some r) (confirmed late : Bool) : Delivered n r confirmed late s (deliver n id confirmed late s) := by
  obtain ⟨hr, rfl⟩ := findRec_mem h
  let u := removeRec r.id (deliveryFate n r) s
  let v := modLane n (fun l => { l with deliveries := satInc counterMax l.deliveries }) u
  have ht : deliver n r.id confirmed late s = notify (deliveryNotice n r confirmed late) v := by
    unfold deliver
    rw [h]
  have hrem : Removed r (deliveryFate n r) s u := removed_removeRec h _
  have hlane (m : Nat) : laneOf (notify (deliveryNotice n r confirmed late) v) m = laneOf v m :=
    laneOf_of_lan (lan_notify _ _) m
  have hvlan (m : Nat) : laneOf u m = laneOf s m := laneOf_of_lan hrem.lan m
  have hrest := notify_rest (deliveryNotice n r confirmed late) v
  rw [ht]
  constructor
  case lane => rw [hlane, laneOf_modLane_same _ _ _ hn, hvlan]
  case others =>
    intro m hm
    rw [hlane, laneOf_modLane_ne _ _ _ _ hm, hvlan]
  case gone =>
    rw [findRec_of_list (s := u) (by rw [hrest]; rfl)]
    exact hrem.gone
  case length =>
    rw [hrest]
    exact hrem.length htrk hr
  case ord =>
    rw [hrest]
    exact hrem.ord
  case told => exact (toldAfter_notify _ v).before (hrem.told.trans (Appends.of_eq (t := v) rfl rfl))
  case gates =>
    have hquiet : GateCommandsOnly u (notify (deliveryNotice n r confirmed late) v) :=
      .of_quiet (by rw [hrest]; rfl) (by rw [hrest]; rfl)
    exact planning_gateCommandsOnly.trans hrem.gates hquiet
  case ready =>
    have hv : Appends 0 u v := .of_eq rfl rfl
    refine hrem.ready.later (hv.trans (appends_notify _ v)) ?_ ?_ ?_ ?_
    · exact (records_notify _ v).trans (records_modLane n _ u)
    all_goals
      rw [hrest]
      rfl
  case point =>
    refine hrem.point.of_eq ?_ ?_ ?_ ((records_notify _ v).trans (records_modLane n _ u)) ?_ ?_ ?_
    all_goals
      rw [hrest]
      rfl

theorem Delivered.tells {n : Nat} {r : Rec} {confirmed late : Bool} {k : Nat} {q s t : State}
    (h : Delivered n r confirmed late s t) (hq : Appends k q s) (hk : k + 2 < 16) : TellsDelivery n r confirmed late q t := by
  have htold : Told (deliveryNotice n r confirmed late) q t := (h.told.before hq).told hk
  constructor
  · intro hn
    rwa [deliveryNotice, if_neg hn] at htold
  · intro hn why hret hdoubt hclear
    have hwhy : (if r.role = .ret then r.reason else if r.doubtful then .doubt else .none) = why := by
      split
      · next hrole => exact (hret hrole).symm
      · next hrole =>
        split
        · next hd => exact (hdoubt hrole hd).symm
        · next hd => exact (hclear hrole (eq_false_of_ne_true hd)).symm
    rwa [deliveryNotice, if_pos hn, hwhy] at htold

/-- The entry of a delivered record leaves the table, or waits again for a doubtful record at lane 0 (R130). -/
theorem Delivered.entry {n : Nat} {r : Rec} {confirmed late : Bool} {s t : State} (h : Delivered n r confirmed late s t) :
    (∀ k, r.role = .order → r.tote = some k → (r.doubtful = false ∨ n ≠ 0) → findEntry t k = none) ∧
    (∀ k y, r.role = .order → r.tote = some k → r.doubtful = true → n = 0 → findEntry s k = some y →
      findEntry t k = some { y with st := .waiting }) := by
  constructor
  · intro k hrole htote hclear
    have hfate : deliveryFate n r = .removed := by
      rcases hclear with hd | hn <;> simp [deliveryFate, *]
    have hord : t.ord = (removeEntry k s).ord := by
      rw [h.ord, hfate, settleEntry]
      simp only [hrole, htote]
    rw [findEntry_of_ord hord]
    exact findEntry_removeEntry_same k s
  · intro k y hrole htote hdoubt hn hy
    have hfate : deliveryFate n r = .waiting := by simp [deliveryFate, hdoubt, hn]
    have hord : t.ord = (setEntryState k .waiting s).ord := by
      rw [h.ord, hfate, settleEntry]
      simp only [hrole, htote]
    rw [findEntry_of_ord hord]
    exact findEntry_setEntryState_same hy _

/-! ## A lane that takes a record -/

/-- The lane `n` has gained a tote in the step from `s` to `u`, its verify list and streak those given. -/
structure Gained (n : Nat) (verify : List VerifyEntry) (streak : Nat) (s u : State) : Prop where
  verify : (laneOf u n).verify = verify
  streak : (laneOf u n).streak = streak
  occ    : (laneOf u n).occ = min 15 ((laneOf s n).occ + 1)
  kept   : (laneOf u n).deliveries = (laneOf s n).deliveries ∧ (laneOf u n).stray = (laneOf s n).stray ∧
    (laneOf u n).failed = (laneOf s n).failed ∧ (laneOf u n).cfg = (laneOf s n).cfg
  others : ∀ m, m ≠ n → laneOf u m = laneOf s m
  lamp   : LampFollows n s u
  told   : Appends 1 s u
  rest   : u = { s with lan := u.lan, rng := u.rng, ntq := u.ntq }

/-- The delivery after the lane has gained the tote, in the words of the statements. -/
theorem delivery_told {n : Nat} {r : Rec} {confirmed late : Bool} {verify : List VerifyEntry} {streak : Nat} {s u t : State}
    (hg : Gained n verify streak s u) (hd : Delivered n r confirmed late u t) :
    (let l := laneOf s n
     let l' := laneOf t n
     l'.verify = verify ∧ l'.streak = streak ∧ l'.occ = min 15 (l.occ + 1) ∧ l'.deliveries = satInc 65535 l.deliveries ∧
       l'.stray = l.stray ∧ l'.failed = l.failed ∧ l'.cfg = l.cfg) ∧
    (∀ m, m ≠ n → laneOf t m = laneOf s m) ∧
    findRec t r.id = none ∧ t.trk.list.length + 1 = s.trk.list.length ∧
    (∀ k, r.role = .order → r.tote = some k → (r.doubtful = false ∨ n ≠ 0) → findEntry t k = none) ∧
    (∀ k y, r.role = .order → r.tote = some k → r.doubtful = true → n = 0 → findEntry s k = some y →
      findEntry t k = some { y with st := .waiting }) ∧
    TellsDelivery n r confirmed late s t ∧ LampFollows n s t ∧ ReadyExamined s t := by
  obtain ⟨hdeliveries, hstray, hfailed, hcfg⟩ := hg.kept
  have hord : u.ord = s.ord := by rw [hg.rest]
  have htrk : u.trk = s.trk := by rw [hg.rest]
  have hind : u.ind = s.ind := by rw [hg.rest]
  have hpos : u.pos = s.pos := by rw [hg.rest]
  obtain ⟨hremoved, hwaiting⟩ := hd.entry
  refine ⟨?_, fun m hm => (hd.others m hm).trans (hg.others m hm), hd.gone, htrk ▸ hd.length, hremoved,
    fun k y hrole htote hdoubt hn hy => hwaiting k y hrole htote hdoubt hn ((findEntry_of_ord hord k).trans hy),
    hd.tells hg.told (by omega), ?_, ?_⟩
  · rw [hd.lane]
    exact ⟨hg.verify, hg.streak, hg.occ, congrArg (satInc 65535) hdeliveries, hstray, hfailed, hcfg⟩
  · refine hg.lamp.later hpos ?_ hd.gates
    rw [hd.lane]
    exact ⟨rfl, rfl, rfl⟩
  · exact (hd.ready.before hg.told (by rw [hind])).examined (by omega) hd.point

theorem gained_takeEntry {n : Nat} {s : State} (hn : n < Config.lanes) (hocc : (laneOf s n).occ ≤ 15) (es : List VerifyEntry) :
    Gained n es 0 s (modLane n (fun l => { l with verify := es, streak := 0 }) (raiseOccupancy n s)) := by
  have hu := raiseOccupancy_changed hn hocc
  have hlamp := lampFollows_raiseOccupancy (s := s) hn
  generalize raiseOccupancy n s = u at hu hlamp
  have hlane := laneOf_modLane_same n (fun l => { l with verify := es, streak := 0 }) u hn
  have hraised := hu.lane
  constructor
  case verify => rw [hlane]
  case streak => rw [hlane]
  case occ =>
    rw [hlane, hraised]
    exact satInc_eq_min 15 _
  case kept =>
    rw [hlane, hraised]
    exact ⟨rfl, rfl, rfl, rfl⟩
  case others => exact fun m hm => (laneOf_modLane_ne _ _ _ _ hm).trans (hu.others m hm)
  case lamp =>
    refine hlamp.later (by rw [hu.rest]) ?_ (.of_quiet rfl rfl)
    rw [hlane]
    exact ⟨rfl, rfl, rfl⟩
  case told =>
    have hquiet : Appends 0 u (modLane n (fun l => { l with verify := es, streak := 0 }) u) := .of_eq rfl rfl
    exact hu.appends.trans hquiet
  case rest =>
    rw [hu.rest]
    rfl

theorem gained_unconfirmed {n : Nat} {s : State} (hn : n < Config.lanes) (hocc : (laneOf s n).occ ≤ 15)
    (p : VerifyEntry → Bool) : Gained n ((laneOf s n).verify.filter p) (laneOf s n).streak s
      (raiseOccupancy n (modLane n (fun l => { l with verify := l.verify.filter p }) s)) := by
  let v := modLane n (fun l => { l with verify := l.verify.filter p }) s
  have hv : laneOf v n = { laneOf s n with verify := (laneOf s n).verify.filter p } :=
    laneOf_modLane_same n (fun l => { l with verify := l.verify.filter p }) s hn
  have hu := raiseOccupancy_changed (s := v) hn (by rw [hv]; exact hocc)
  have hlamp := lampFollows_raiseOccupancy (s := v) hn
  show Gained _ _ _ s (raiseOccupancy n v)
  generalize raiseOccupancy n v = u at hu hlamp
  have hraised := hu.lane
  rw [hv] at hraised
  constructor
  case verify =>
    rw [hraised]
    rfl
  case streak =>
    rw [hraised]
    rfl
  case occ =>
    rw [hraised]
    exact satInc_eq_min 15 _
  case kept =>
    rw [hraised]
    exact ⟨rfl, rfl, rfl, rfl⟩
  case others => exact fun m hm => (hu.others m hm).trans (laneOf_modLane_ne _ _ _ _ hm)
  case lamp =>
    refine hlamp.before rfl rfl ?_
    rw [hv]
    exact ⟨rfl, rfl, rfl⟩
  case told =>
    have hquiet : Appends 0 s v := .of_eq rfl rfl
    exact hquiet.trans hu.appends
  case rest =>
    rw [hu.rest]
    rfl

/-! ## O26 -/

theorem takeEntry_stray {n : Nat} {s : State} (h : (laneOf (raiseOccupancy n s) n).verify = []) :
    takeEntry n s =
      let u := modLane n (fun l => { l with stray := satInc counterMax l.stray }) (raiseOccupancy n s)
      notify (.strayEntry n (laneOf u n).occ) u := by
  simp only [takeEntry, h]

theorem takeEntry_delivers {n : Nat} {e : VerifyEntry} {es : List VerifyEntry} {s : State}
    (h : (laneOf (raiseOccupancy n s) n).verify = e :: es) :
    takeEntry n s = deliver n e.who true e.late
      (modLane n (fun l => { l with verify := es, streak := 0 }) (raiseOccupancy n s)) := by
  simp only [takeEntry, h]

theorem verifyPoint_first {n : Nat} {pre post : List VerifyEntry} {e : VerifyEntry} {s : State}
    (hverify : (laneOf s n).verify = pre ++ e :: post) (hpre : ∀ z ∈ pre, (s.pos.odo : Int) < z.deadline)
    (he : e.deadline ≤ s.pos.odo) : verifyPoint n s = deliverUnconfirmed n e s := by
  have hfind : (laneOf s n).verify.find? (fun z => decide (z.deadline ≤ now s)) = some e := by
    have hnone : pre.find? (fun z => decide (z.deadline ≤ now s)) = none := by
      rw [List.find?_eq_none]
      intro z hz
      rw [decide_eq_true_eq, not_le]
      exact hpre z hz
    rw [hverify, List.find?_append, hnone, List.find?_cons_of_pos (by exact decide_eq_true he)]
    rfl
  rw [verifyPoint, hfind]

/-- Settles O26: the tote is counted into the lane, then the record is delivered, or the entry is stray. -/
theorem deliveriesAndStrayEntries : Obligations.DeliveriesAndStrayEntries := by
  have hoccOk {s : State} (hinv : Inv s) (n : Nat) : (laneOf s n).occ ≤ 15 := (laneOf_ok (Kept.of_inv hinv).blocks n).occ
  refine ⟨fun src i x s hinv h hn hempty => ?_, fun src i x e es r s hinv h hn hverify hrec => ?_,
    fun n pre post e r s hinv hn hverify hpre he hrec => ?_⟩
  · have hu := raiseOccupancy_changed hn (hoccOk hinv x.laneNumber)
    have hlamp := lampFollows_raiseOccupancy (s := s) hn
    have hexec : exec (.entry src) s = .next (takeEntry x.laneNumber s) := exec_handed rfl h
    have hraised := hu.lane
    rw [takeEntry_stray (by rw [hraised]; exact hempty)] at hexec
    generalize raiseOccupancy x.laneNumber s = u at hexec hu hlamp hraised
    let v := modLane x.laneNumber (fun l => { l with stray := satInc counterMax l.stray }) u
    let t := notify (.strayEntry x.laneNumber (laneOf v x.laneNumber).occ) v
    have hlane : laneOf t x.laneNumber = { laneOf u x.laneNumber with stray := satInc 65535 (laneOf u x.laneNumber).stray } :=
      (laneOf_of_lan (lan_notify _ _) _).trans (laneOf_modLane_same _ _ u hn)
    have hrest : t = { s with lan := t.lan, rng := t.rng, ntq := t.ntq } := by
      have hnotify : t = _ := notify_rest _ v
      rw [hnotify]
      show _ = _
      rw [show v = modLane _ _ u from rfl, hu.rest]
      rfl
    refine ⟨t, hexec, ?_, ?_, fun m hm => ?_, by rw [hrest], by rw [hrest], by rw [hrest], by rw [hrest], by rw [hrest],
      by rw [hrest], by rw [hrest], by rw [hrest]⟩
    · have htold : Told (.strayEntry x.laneNumber (laneOf v x.laneNumber).occ) s t :=
        ((toldAfter_notify _ v).before (hu.appends.trans (Appends.of_eq (t := v) rfl rfl))).told (by omega)
      have hocc : (laneOf v x.laneNumber).occ = (laneOf t x.laneNumber).occ :=
        congrArg Lane.occ (laneOf_of_lan (lan_notify _ v) _).symm
      rw [hocc] at htold
      rw [hraised] at hlane
      have hfields : laneOf t x.laneNumber = { (laneOf s x.laneNumber).raised with
          reported := (laneOf s x.laneNumber).raised.computed, lampOn := (laneOf u x.laneNumber).lampOn
          stray := satInc 65535 (laneOf s x.laneNumber).stray } := hlane
      refine ⟨?_, ?_, ?_, ?_, ?_, ?_, ?_, ?_, ?_, ?_, ?_, ?_, htold⟩
      case refine_1 =>
        rw [hfields]
        exact satInc_eq_min 15 _
      case refine_3 =>
        rw [hfields]
        exact hempty
      case refine_2 => rw [hfields]
      all_goals
        rw [hfields]
        rfl
    · refine hlamp.later (by rw [hu.rest]) ?_ (.of_quiet ?_ ?_)
      · rw [hlane]
        exact ⟨rfl, rfl, rfl⟩
      · rw [show t = _ from notify_rest _ v]
        rfl
      · exact rng_notify _ v
    · exact (laneOf_of_lan (lan_notify _ _) _).trans ((laneOf_modLane_ne _ _ _ _ hm).trans (hu.others m hm))
  · have hexec : exec (.entry src) s = .next (takeEntry x.laneNumber s) := exec_handed rfl h
    have hraised := (raiseOccupancy_changed hn (hoccOk hinv x.laneNumber)).lane
    rw [takeEntry_delivers (by rw [hraised]; exact hverify)] at hexec
    have hgain := gained_takeEntry hn (hoccOk hinv x.laneNumber) es
    generalize modLane x.laneNumber _ (raiseOccupancy x.laneNumber s) = u at hexec hgain
    have htrk : u.trk = s.trk := by rw [hgain.rest]
    have hdel := delivered_deliver hn (htrk ▸ hinv.trk) ((findRec_of_list (by rw [htrk]) e.who).trans hrec) true e.late
    obtain ⟨hlane, hothers, hgone, hrest⟩ := delivery_told hgain hdel
    rw [(findRec_mem hrec).2] at hgone
    obtain ⟨hv, hstreak, hocc, hdeliveries, hkept⟩ := hlane
    exact ⟨_, hexec, ⟨hv, hstreak, hocc, hdeliveries, hkept⟩, hothers, hgone, hrest⟩
  · have hexec : exec (.verifyDeadline n) s = .next (verifyPoint n s) := rfl
    rw [verifyPoint_first hverify hpre he, deliverUnconfirmed] at hexec
    have hgain := gained_unconfirmed hn (hoccOk hinv n) (fun z => z.who ≠ e.who)
    generalize raiseOccupancy n _ = u at hexec hgain
    have htrk : u.trk = s.trk := by rw [hgain.rest]
    have hdel := delivered_deliver hn (htrk ▸ hinv.trk) ((findRec_of_list (by rw [htrk]) e.who).trans hrec) false e.late
    obtain ⟨hlane, hothers, hgone, hrest⟩ := delivery_told hgain hdel
    rw [(findRec_mem hrec).2] at hgone
    obtain ⟨hv, hstreak, hocc, hdeliveries, hkept⟩ := hlane
    exact ⟨_, hexec, ⟨hv, hocc, hstreak, hdeliveries, hkept⟩, hothers, hgone, hrest⟩

end Sys2Proof.Machine
end

section
/-! PROOFS. TO CONFIG (O57). -/

namespace Sys2Proof.Machine

/-! ## The lamps of every lane -/

theorem laneOf_sendLamp (n m : Nat) (b : Bool) (s : State) (hm : m < Config.lanes) : laneOf (sendLamp n b s) m =
    if n = m ∧ (gateRec s n).isSome then { laneOf s m with lampOn := b } else laneOf s m := by
  cases hd : gateRec s n with
  | none => simp [sendLamp_unmapped hd]
  | some d =>
      rw [sendLamp_mapped hd]
      have hlan : ∀ k, laneOf (placeControl ⟨d.sec, lampFor b⟩ s) k = laneOf s k := laneOf_of_lan (lan_placeControl _ _)
      by_cases h : n = m
      · subst h
        simp [laneOf_modLane_same _ _ _ hm, hlan]
      · simp [laneOf_modLane_ne _ _ _ _ (Ne.symm h), hlan, h]

theorem gateRec_sendLamp (n m : Nat) (b : Bool) (s : State) : gateRec (sendLamp n b s) m = gateRec s m :=
  gateRec_of_force (by rw [sendLamp_rest]) m

/-- Each lane's lamp, sent for the lanes of a list in turn. -/
theorem laneOf_lamps (l : List Nat) (s : State) {m : Nat} (hm : m < Config.lanes) :
    laneOf (l.foldl (fun t n => sendLamp n (laneOf t n).full t) s) m =
      if m ∈ l ∧ (gateRec s m).isSome then { laneOf s m with lampOn := (laneOf s m).full } else laneOf s m := by
  induction l generalizing s with
  | nil => simp
  | cons n l ih =>
      rw [List.foldl_cons, ih, gateRec_sendLamp, laneOf_sendLamp _ _ _ _ hm]
      by_cases hd : (gateRec s m).isSome
      · by_cases hn : n = m
        · subst hn
          simp [hd, Lane.full]
        · simp [hd, hn, Ne.symm hn]
      · by_cases hn : n = m
        · subst hn
          simp [hd]
        · simp [hd, hn]

theorem laneOf_sendLamps {s : State} {n : Nat} (hn : n < Config.lanes) {d : Station} (hd : gateRec s n = some d) :
    laneOf (sendLamps s) n = { laneOf s n with lampOn := laneFull s n } := by
  have hmem : n ∈ List.range Config.lanes ∧ (gateRec s n).isSome := ⟨List.mem_range.mpr hn, by simp [hd]⟩
  exact (laneOf_lamps (List.range Config.lanes) s hn).trans (if_pos hmem)

theorem stands_sendLamp {s : State} {n : Nat} {b : Bool} {c : Ctl} (hno : ∀ d, gateRec s n = some d → d.sec ≠ c.dst)
    (hc : c ∈ s.rng.control) : c ∈ (sendLamp n b s).rng.control := by
  cases hd : gateRec s n with
  | none => rwa [sendLamp_unmapped hd]
  | some d =>
      rw [sendLamp_mapped hd]
      exact (mem_placeControl ⟨d.sec, lampFor b⟩ c s).mpr (.inr ⟨(hno d hd).symm, hc⟩)

/-- A command for a node that no lamp command goes to stands. -/
theorem stands_lamps (l : List Nat) {s : State} {c : Ctl} (hno : ∀ n d, gateRec s n = some d → d.sec ≠ c.dst)
    (hc : c ∈ s.rng.control) : c ∈ (l.foldl (fun t n => sendLamp n (laneOf t n).full t) s).rng.control := by
  induction l generalizing s with
  | nil => exact hc
  | cons n l ih =>
      have hrec : ∀ m d, gateRec (sendLamp n (laneOf s n).full s) m = some d → d.sec ≠ c.dst := by
        intro m d hd
        exact hno m d ((gateRec_sendLamp ..).symm.trans hd)
      exact ih hrec (stands_sendLamp (hno n) hc)

/-! ## TO CONFIG -/

theorem notifySome_rest (n : Option Notice) (s : State) : notifySome n s = { s with ntq := (notifySome n s).ntq } := by
  unfold notifySome
  split
  · exact notify_rest ..
  · rfl

theorem initEyes_rest (s : State) : initEyes s = { s with sgt := (initEyes s).sgt } := by
  unfold initEyes
  split <;> rfl

theorem wakeForConfig_rest (s : State) : wakeForConfig s = { s with
    run := { s.run with asleep := false }, lan := (wakeForConfig s).lan, rng := (wakeForConfig s).rng } := by
  unfold wakeForConfig
  split
  · rw [sendLamps_rest, broadcastWake_rest]
  · next h =>
    have hasleep : s.run.asleep = false := by simpa using h
    have hrun : s.run = { s.run with asleep := false } := by rw [← hasleep]
    rw [← hrun]

/-- Run control in CONFIG (R185). -/
def Run.configured (r : Run) : Run := { r with
  st := .config, belt := false, rule := none, asleep := false, stage := .none, endPoint := none, settle := none
  stall := none, idle := none, park := none }

/-- The state in which RUN has entered CONFIG and the eyes are at their initial values (R41, R185). -/
def State.inConfig (s : State) : State :=
  initEyes (enterState .config none .toConfig ((wakeForConfig s).setRun
    { (wakeForConfig s).run with stage := .none, endPoint := none }))

theorem inConfig_rest (s : State) : s.inConfig = { s with
    run := s.run.configured, ind := { s.ind with releasePoint := none, holePoint := none }
    mrg := { s.mrg with mergePoint := none }, ntq := s.inConfig.ntq, sgt := s.inConfig.sgt
    lan := (wakeForConfig s).lan, rng := (wakeForConfig s).rng } := by
  unfold State.inConfig
  generalize hw : wakeForConfig s = w
  have hrest := wakeForConfig_rest s
  rw [hw] at hrest
  rw [initEyes_rest, enterState_quiet _ _ _ _ (by decide), State.entered, notify_rest, hrest]
  rfl

/-- The state in which IND and MRG have acted on CONFIG, but for the hole (R154, R169, R170). -/
def State.unslotted (s : State) : State :=
  let u := configInd s
  let v := notifySome (u.mrg.grant.map fun g => .mergeTimeout g.ready.tote g.ready.len g.goOdo g.forced) u
  v.setMrg { v.mrg with
    grant := none, debt := 0, count := 0, interval := none, hole := .none, arrival := none }

theorem unslotted_rest (s : State) : s.unslotted = { s with
    ind := { s.ind with
      outstanding := none, holeWait := none, releasePoint := s.unslotted.ind.releasePoint, holePoint := none }
    mrg := { s.mrg with grant := none, debt := 0, count := 0, interval := none, hole := .none, arrival := none }
    ntq := s.unslotted.ntq } := by
  unfold State.unslotted configInd
  dsimp only
  rw [notifySome_rest, notifySome_rest]
  rfl

/-- The state in CONFIG (R185). -/
def State.toConfig (s : State) : State :=
  mrgLook (if s.mrg.hole = .travelling then removeHole s.inConfig.unslotted else s.inConfig.unslotted)

theorem toteCount_pos_iff (s : State) : 0 < toteCount s ↔ ∃ r ∈ s.trk.list, r.role ≠ .hole := by
  simp [toteCount, List.countP_pos_iff, Rec.isTote]

theorem hole_inConfig (s : State) : s.inConfig.mrg.hole = s.mrg.hole := by rw [inConfig_rest]

theorem cmdToConfig_done {s : State} (hst : s.run.st = .parked) (hw : s.run.wake = none)
    (hholes : ∀ r ∈ s.trk.list, r.role = .hole) : cmdToConfig s = (s.toConfig, .done, runByte s.toConfig) := by
  have hparked : ¬(s.run.st ≠ .parked ∨ s.run.wake.isSome = true) := by simp [hst, hw]
  have hempty : ¬0 < toteCount s := fun h => by
    obtain ⟨r, hr, hrole⟩ := (toteCount_pos_iff s).mp h
    exact hrole (hholes r hr)
  have hhole : (notifySome ((configInd s.inConfig).mrg.grant.map fun g =>
      .mergeTimeout g.ready.tote g.ready.len g.goOdo g.forced) (configInd s.inConfig)).mrg.hole = s.mrg.hole := by
    have hconfig : (configInd s.inConfig).mrg = s.inConfig.mrg := by
      rw [configInd, notifySome_rest]
      rfl
    rw [notifySome_rest]
    exact (congrArg Mrg.hole hconfig).trans (hole_inConfig s)
  have hmrg : configMrg (configInd s.inConfig) = s.toConfig := by
    unfold configMrg
    dsimp only
    rw [hhole]
    rfl
  unfold cmdToConfig
  rw [if_neg hparked, if_neg hempty]
  show (configMrg (configInd s.inConfig), Result.done, runByte (configMrg (configInd s.inConfig))) = _
  rw [hmrg]

theorem cmdToConfig_refused {s : State} (h : s.run.st ≠ .parked ∨ s.run.wake.isSome) : cmdToConfig s = (s, .state, []) := by
  unfold cmdToConfig
  rw [if_pos h]
  rfl

theorem cmdToConfig_notEmpty {s : State} (hst : s.run.st = .parked) (hw : s.run.wake = none)
    (htote : ∃ r ∈ s.trk.list, r.role ≠ .hole) : cmdToConfig s = (s, .notEmpty, []) := by
  have hparked : ¬(s.run.st ≠ .parked ∨ s.run.wake.isSome = true) := by simp [hst, hw]
  unfold cmdToConfig
  rw [if_neg hparked, if_pos ((toteCount_pos_iff s).mpr htote)]
  rfl

/-- The blocks in CONFIG, before the hole leaves the list. -/
theorem atConfig (s : State) :
    let u := s.inConfig.unslotted
    u.run = s.run.configured ∧ u.indBook = (s.ind.last, none, none, s.ind.reject) ∧
      u.mrg = { s.mrg with
        mergePoint := none, grant := none, debt := 0, count := 0, interval := none, hole := .none, arrival := none } ∧
      u.pos = s.pos ∧ u.ord = s.ord ∧ u.trk = s.trk ∧ u.sgt = s.inConfig.sgt ∧ u.lan = (wakeForConfig s).lan ∧
      u.rng = (wakeForConfig s).rng ∧ u.fpl = s.fpl := by
  intro u
  have hu : u = _ := unslotted_rest s.inConfig
  have hs := inConfig_rest s
  refine ⟨?_, ?_, ?_, ?_, ?_, ?_, ?_, ?_, ?_, ?_⟩
  case refine_2 =>
    rw [hu, hs]
    rfl
  all_goals rw [hu]
  all_goals dsimp only
  all_goals rw [hs]

/-- What the hole's removal leaves of the state in CONFIG. -/
structure InConfig (s t : State) : Prop where
  run    : ∃ x, t.run = { s.run.configured with idle := x }
  ind    : t.indBook = (s.ind.last, none, none, s.ind.reject)
  mrg    : t.mrg.ready = s.mrg.ready ∧ t.mrg.grant = none ∧ t.mrg.debt = 0 ∧ t.mrg.count = 0 ∧ t.mrg.interval = none ∧
    t.mrg.hole = .none ∧ t.mrg.arrival = none
  pos    : t.pos = s.pos
  ord    : t.ord = s.ord
  sgt    : t.sgt = s.inConfig.sgt
  lan    : t.lan = (wakeForConfig s).lan
  stands : ∀ c ∈ (wakeForConfig s).rng.control, (∀ m x, gateRec s m = some x → x.prim ≠ c.dst) → c ∈ t.rng.control
  wakes  : ∀ c ∈ t.rng.control, c.kind = .wake → c ∈ (wakeForConfig s).rng.control
  empty  : s.mrg.hole = .travelling → (∀ r ∈ s.trk.list, r.role = .hole) → t.trk.list = []

theorem inConfig_toConfig {s : State} (h : TrkOk s.trk) : InConfig s s.toConfig := by
  obtain ⟨hrun, hind, hmrg, hpos, hord, htrk, hsgt, hlan, hrng, _⟩ := atConfig s
  unfold State.toConfig
  generalize s.inConfig.unslotted = u at *
  have hrec (m : Nat) : gateRec u m = gateRec s m := gateRec_of_force (by rw [hpos]) m
  split
  · have hole := dehole_removeHole (s := u) (htrk ▸ h)
    generalize removeHole u = v at hole
    obtain ⟨x, hx⟩ := hole.run (by rw [hrun, Run.configured]; simp)
    obtain ⟨hgrant, hdebt, _, hready, hinterval⟩ := mrg_of_spurBook hole.book
    obtain ⟨hcount, _, hhole, harrival⟩ := accrual_of_spurBook hole.book
    rw [hmrg] at hgrant hdebt hready hinterval hcount hhole harrival
    constructor
    case run => exact ⟨x, hx.trans (by rw [hrun])⟩
    case ind => exact hole.ind.trans hind
    case mrg => exact ⟨hready, hgrant, hdebt, hcount, hinterval, hhole, harrival⟩
    case pos => exact (congrArg (·.2.1) hole.core).trans hpos
    case ord => exact hole.ord.trans hord
    case sgt => exact hole.sgt.trans hsgt
    case lan => exact hole.lan.trans hlan
    case stands => exact fun c hc hno => hole.gates.stand c (hrng ▸ hc) fun m y hy => hno m y (hrec m ▸ hy)
    case wakes => exact fun c hc hk => hrng ▸ hole.wakes c hc hk
    case empty =>
      intro _ hholes
      refine List.map_eq_nil_iff.mp (hole.list.trans (List.filter_eq_nil_iff.mpr fun y hy => ?_))
      obtain ⟨r, hr, rfl⟩ := List.mem_map.mp hy
      have hrole : r.role = .hole := hholes r (htrk ▸ hr)
      simp [hrole]
  · next hno =>
    constructor
    case run => exact ⟨none, hrun⟩
    case ind => exact hind
    case mrg =>
      show u.mrg.ready = _ ∧ u.mrg.grant = _ ∧ u.mrg.debt = _ ∧ u.mrg.count = _ ∧ u.mrg.interval = _ ∧ u.mrg.hole = _ ∧
        u.mrg.arrival = _
      rw [hmrg]
      exact ⟨rfl, rfl, rfl, rfl, rfl, rfl, rfl⟩
    case pos => exact hpos
    case ord => exact hord
    case sgt => exact hsgt
    case lan => exact hlan
    case stands => exact fun c hc _ => hrng.symm ▸ hc
    case wakes => exact fun c hc _ => hrng ▸ hc
    case empty => exact fun h => absurd h hno

/-! ## The clauses of TO CONFIG -/

theorem vget_vmap {α β : Type} {n : Nat} (f : α → β) (v : Vector α n) {i : Nat} (h : i < n) (d : α) (e : β) :
    vget (vmap f v) i e = f (vget v i d) := by
  simp [vget, vmap, h]

theorem eyeOf_inConfig {s : State} {m : StationMap} (hm : s.pos.inForce = some m) {i : Nat} (hi : i < 28) :
    eyeOf s.inConfig i = if (vget m i Station.empty).hasEye then some Eye.initial else none := by
  have heyes (u : State) (hu : u.pos.inForce = some m) : (initEyes u).sgt.eyes =
      vmap (fun x => if x.hasEye then some Eye.initial else none) m := by
    unfold initEyes
    rw [hu]
    rfl
  have hforce : (enterState .config none .toConfig ((wakeForConfig s).setRun
      { (wakeForConfig s).run with stage := .none, endPoint := none })).pos.inForce = some m := by
    rw [enterState_rest]
    show (wakeForConfig s).pos.inForce = _
    rw [wakeForConfig_rest]
    exact hm
  unfold eyeOf
  rw [State.inConfig, heyes _ hforce]
  exact vget_vmap _ m hi _ _

theorem wakeForConfig_asleep {s : State} (h : s.run.asleep = true) :
    ((∀ g d, gateRec s g = some d → d.prim ≠ 63 ∧ d.sec ≠ 63) → ⟨63, .wake⟩ ∈ (wakeForConfig s).rng.control) ∧
      ∀ n d, n < 17 → gateRec s n = some d →
        laneOf (wakeForConfig s) n = { laneOf s n with lampOn := laneFull s n } := by
  have hwake : wakeForConfig s = sendLamps (broadcastWake s) := if_pos h
  have hrest := broadcastWake_rest s
  have hrec (m : Nat) : gateRec (broadcastWake s) m = gateRec s m := gateRec_of_force (by rw [hrest]) m
  have hlane (m : Nat) : laneOf (broadcastWake s) m = laneOf s m := laneOf_of_lan (by rw [hrest]) m
  rw [hwake]
  refine ⟨fun hno => ?_, fun n d hn hd => ?_⟩
  · rw [sendLamps]
    refine stands_lamps (List.range Config.lanes) (fun n d hd => (hno n d ((hrec n).symm.trans hd)).2) ?_
    exact (placed_placeControl ⟨broadcast, .wake⟩ (s.setRun { s.run with asleep := false })).stands
  · rw [laneOf_sendLamps hn ((hrec n).trans hd), hlane, laneFull, hlane]
    rfl

theorem wakeForConfig_awake {s : State} (h : s.run.asleep = false) : wakeForConfig s = s :=
  if_neg (by simp [h])

theorem code_config : BitVec.ofNat 8 RunState.config.code = 1#8 := rfl

/-- TO CONFIG with no tote record in the list, in the words of the statement. -/
theorem toConfig_clause {tag : Byte} {s : State} (h : Takes s tag) (hinv : Inv s) (hst : s.run.st = .parked)
    (hw : s.run.wake = none) (hholes : ∀ r ∈ s.trk.list, r.role = .hole) :
    exec (.toConfig tag) s = .next ((takeReached s.toConfig).replied 9 tag .done [1#8]) := by
  have hbody := cmdToConfig_done hst hw hholes
  obtain ⟨x, hrun⟩ := (inConfig_toConfig hinv.trk).run
  have hexec := exec_taken (i := .toConfig tag) rfl h rfl
  dsimp only at hexec
  rw [hbody, runByte, bytesOf_one, hrun] at hexec
  exact hexec

end Sys2Proof.Machine
end

section
/-! PROOFS. RESET TRACK and RESET DEVICE (O57). -/

namespace Sys2Proof.Machine

/-! ## The blocks at a tracking reset -/

theorem settleAll_rest (l : List Rec) (s : State) : l.foldl (fun t r => settleEntry r .waiting t) s =
    { s with ord := (l.foldl (fun t r => settleEntry r .waiting t) s).ord } := by
  induction l generalizing s with
  | nil => rfl
  | cons r l ih =>
      rw [List.foldl_cons, ih, settleEntry_rest]

theorem trackTrk_rest (s : State) :
    trackTrk s = { s with trk := { s.trk with list := [] }, ord := (trackTrk s).ord } := by
  unfold trackTrk
  dsimp only
  rw [settleAll_rest]
  rfl

/-- The entry of a tote number waits again where an ORDER record carries it (R83). -/
theorem findEntry_settleEntry_waiting (r : Rec) (k : Nat) (s : State) : findEntry (settleEntry r .waiting s) k =
    (findEntry s k).map fun e => if r.role = .order ∧ r.tote = some k then { e with st := .waiting } else e := by
  unfold settleEntry
  split
  · next j hrole htote =>
    rw [findEntry_setEntryState]
    cases he : findEntry s k with
    | none => rfl
    | some e =>
        have hk : e.tote = k := findEntry_tote he
        by_cases hj : k = j
        · simp [hrole, htote, hk, hj]
        · simp [hrole, htote, hk, hj, Ne.symm hj]
  · next hno =>
    have hne : ¬(r.role = .order ∧ r.tote = some k) := fun h => hno k h.1 h.2
    simp [hne]

theorem findEntry_settleAll (l : List Rec) (k : Nat) (s : State) :
    findEntry (l.foldl (fun t r => settleEntry r .waiting t) s) k = (findEntry s k).map fun e =>
      if ∃ r ∈ l, r.role = .order ∧ r.tote = some k then { e with st := .waiting } else e := by
  induction l generalizing s with
  | nil => simp
  | cons r l ih =>
      rw [List.foldl_cons, ih, findEntry_settleEntry_waiting, Option.map_map]
      congr 1
      funext e
      by_cases hr : r.role = .order ∧ r.tote = some k
      · by_cases hl : ∃ x ∈ l, x.role = .order ∧ x.tote = some k <;> simp [hr, hl]
      · by_cases hl : ∃ x ∈ l, x.role = .order ∧ x.tote = some k <;> simp [hr, hl]

/-- What a tracking reset makes of a gate record (R114). -/
def trackedGate (s : State) (g : Nat) : Option Gate :=
  (gateOf s g).map fun y => if y.st = .closed then y else
    match gateRec s g with
    | some d => { y with st := .closing, timer := some (2 * d.sc), recovery := false }
    | none => { y with recovery := false }

theorem driveGate_rest (g : Nat) (b : Bool) (s : State) :
    driveGate g b s = { s with gtc := (driveGate g b s).gtc, rng := (driveGate g b s).rng } := by
  unfold driveGate
  split
  · rw [placeControl_rest]
    rfl
  · rfl

theorem trackGate_rest (g : Nat) (s : State) :
    trackGate g s = { s with gtc := (trackGate g s).gtc, rng := (trackGate g s).rng } := by
  unfold trackGate
  split
  · split
    · rfl
    · rw [driveGate_rest]
      rfl
  · rfl

theorem gateOf_setGate (g m : Nat) (x : Gate) (s : State) (hg : g < Config.lanes) :
    gateOf (setGate g x s) m = if g = m then some x else gateOf s m := vget_vset _ _ _ _ _ hg

theorem gateOf_placeControl (c : Ctl) (m : Nat) (s : State) : gateOf (placeControl c s) m = gateOf s m := by
  rw [placeControl_rest]
  rfl

theorem gateOf_trackGate {g : Nat} (m : Nat) (s : State) (hg : g < Config.lanes) :
    gateOf (trackGate g s) m = if g = m then trackedGate s m else gateOf s m := by
  unfold trackGate
  cases hy : gateOf s g with
  | none =>
      by_cases h : g = m
      · subst h
        simp [trackedGate, hy]
      · simp [h]
  | some y =>
      by_cases hclosed : y.st = .closed
      · by_cases h : g = m
        · subst h
          simp [trackedGate, hy, hclosed]
        · simp [h, hclosed]
      · let u := setGate g { y with recovery := false } s
        have hu : gateOf u g = some { y with recovery := false } := by
          rw [gateOf_setGate _ _ _ _ hg, if_pos rfl]
        have hrec : gateRec u g = gateRec s g := rfl
        simp only [hclosed, if_false]
        show gateOf (driveGate g false u) m = _
        unfold driveGate
        rw [hu, hrec]
        cases hd : gateRec s g with
        | none =>
            rw [gateOf_setGate _ _ _ _ hg]
            by_cases h : g = m
            · subst h
              simp [trackedGate, hy, hclosed, hd]
            · simp [h]
        | some d =>
            simp only [gateOf_setGate _ _ _ _ hg, gateOf_placeControl]
            by_cases h : g = m
            · subst h
              simp [trackedGate, hy, hclosed, hd]
            · simp [h, u, gateOf_setGate _ _ _ _ hg]

theorem trackedGate_trackGate {g : Nat} (m : Nat) (s : State) (hg : g < Config.lanes) :
    trackedGate (trackGate g s) m = trackedGate s m := by
  have hrec : gateRec (trackGate g s) m = gateRec s m := gateRec_of_force (by rw [trackGate_rest]) m
  unfold trackedGate
  rw [hrec, gateOf_trackGate m s hg]
  by_cases h : g = m
  · rw [if_pos h, trackedGate, Option.map_map]
    congr 1
    funext y
    simp only [Function.comp_apply]
    by_cases hy : y.st = .closed
    · simp [hy]
    · cases hd : gateRec s m <;> simp [hy]
  · rw [if_neg h]

theorem gateOf_trackAll (l : List Nat) (hl : ∀ g ∈ l, g < Config.lanes) (m : Nat) (s : State) :
    gateOf (l.foldl (fun t g => trackGate g t) s) m = if m ∈ l then trackedGate s m else gateOf s m := by
  induction l generalizing s with
  | nil => simp
  | cons g l ih =>
      have hg := hl g List.mem_cons_self
      rw [List.foldl_cons, ih fun x hx => hl x (List.mem_cons_of_mem _ hx), trackedGate_trackGate m s hg,
        gateOf_trackGate m s hg]
      by_cases hm : g = m
      · subst hm
        simp
      · simp [hm, Ne.symm hm]

theorem trackGates_rest (s : State) :
    trackGates s = { s with gtc := (trackGates s).gtc, rng := (trackGates s).rng } := by
  have hfold (l : List Nat) (t : State) : l.foldl (fun t g => trackGate g t) t =
      { t with gtc := (l.foldl (fun t g => trackGate g t) t).gtc, rng := (l.foldl (fun t g => trackGate g t) t).rng } := by
    induction l generalizing t with
    | nil => rfl
    | cons g l ih => rw [List.foldl_cons, ih, trackGate_rest]
  exact hfold _ s

theorem gateOf_trackGates {g : Nat} (s : State) (hg : g < Config.lanes) : gateOf (trackGates s) g = trackedGate s g := by
  rw [trackGates, gateOf_trackAll (List.range Config.lanes) (fun x hx => List.mem_range.mp hx) g s]
  exact if_pos (List.mem_range.mpr hg)

/-- Accrual starts afresh (R165): no point is taken where the count is 0. -/
theorem accrueIfReady_fresh {s : State} (h : s.mrg.interval = none) (hc : s.mrg.count = 0) :
    accrueIfReady s = if s.mrg.ready.isSome then s.accruing else s := by
  unfold accrueIfReady
  rw [startAccrual_paused h, hc, Nat.zero_div]
  rfl

/-- MRG's registers once a tracking reset has cleared them (R170). -/
def Mrg.cleared (x : Mrg) : Mrg :=
  { x with grant := none, debt := 0, count := 0, interval := none, hole := .none, arrival := none }

/-- MRG at a tracking reset: accrual starts afresh out of CONFIG, with a spur READY pending (R165). -/
def State.resetMrg (s : State) : Mrg :=
  if s.mrg.ready.isSome ∧ s.run.st ≠ .config then
    { s.mrg.cleared with interval := some (now s + s.params.mergeInterval), since := now s }
  else s.mrg.cleared

theorem trackSlots_eq (s : State) : trackSlots s = { s with
    ind := { s.ind with outstanding := none, holeWait := none }, mrg := s.resetMrg } := by
  let u : State := { s with ind := { s.ind with outstanding := none, holeWait := none }, mrg := s.mrg.cleared }
  have hslots : trackSlots s = if s.run.st = .config then u else accrueIfReady u := rfl
  have hfresh : accrueIfReady u = if s.mrg.ready.isSome then u.accruing else u := accrueIfReady_fresh rfl rfl
  have hpoint : now u + (u.params.mergeInterval : Int) - (u.mrg.count : Int) = now s + s.params.mergeInterval :=
    Int.sub_zero _
  rw [hslots, hfresh, State.resetMrg]
  by_cases hst : s.run.st = .config
  · rw [if_pos hst, if_neg fun h => h.2 hst]
  · rw [if_neg hst]
    by_cases hr : s.mrg.ready.isSome = true
    · rw [if_pos hr, if_pos ⟨hr, hst⟩, State.accruing, hpoint]
      rfl
    · rw [if_neg hr, if_neg fun h => hr h.1]

/-! ## The tracking reset -/

/-- The state in which the list, the queues, the gates, the verify lists, the eyes and the slots have been reset, before the
empty list is announced (R40, R64, R83, R114, R135, R154, R170). -/
def State.untracked (s : State) : State := trackSlots (trackEyes (trackLanes (trackGates (emptyQueues (trackTrk s)))))

theorem untracked_rest (s : State) : s.untracked = { s with
    trk := { s.trk with list := [] }, ord := (trackTrk s).ord
    fpl := { s.fpl with queues := Vector.replicate Config.lanes [] }
    gtc := (trackGates (emptyQueues (trackTrk s))).gtc, rng := (trackGates (emptyQueues (trackTrk s))).rng
    lan := { lanes := vmap (fun l => { l with verify := [] }) s.lan.lanes }
    sgt := { s.sgt with eyes := vmap (fun e => e.map trackEye) s.sgt.eyes }
    ind := { s.ind with outstanding := none, holeWait := none }, mrg := s.resetMrg } := by
  have hqueues : emptyQueues (trackTrk s) = { s with
      trk := { s.trk with list := [] }, ord := (trackTrk s).ord
      fpl := { s.fpl with queues := Vector.replicate Config.lanes [] } } := by
    rw [emptyQueues, trackTrk_rest]
    rfl
  have hgates := trackGates_rest (emptyQueues (trackTrk s))
  unfold State.untracked
  generalize trackGates (emptyQueues (trackTrk s)) = g at *
  rw [hqueues] at hgates
  rw [trackSlots_eq, trackEyes, trackLanes, hgates]
  rfl

theorem trackReset_eq (s : State) : trackReset s = trackRun (trackReg (zeroTally (listChange s.untracked))) := rfl

/-- Run control after a tracking reset (R188). -/
theorem run_trackRun (s : State) :
    (trackRun s).run.stage = .none ∧ (trackRun s).run.endPoint = none ∧
      (trackRun s).run.st = (if s.run.st = .fault then .parked else s.run.st) ∧
      (s.run.st = .fault → (trackRun s).run.rule = some .host ∧ (trackRun s).run.cause = .none) := by
  unfold trackRun
  dsimp only
  by_cases hst : s.run.st = .fault
  · rw [if_pos (by exact hst), if_pos hst, leaveFault]
    obtain ⟨hnew, _, hrule, hstage, hend, hcause, _⟩ := run_enterState .parked (some .host) .trackReset
      ((s.setRun { s.run with stage := .none, endPoint := none }).setRun { s.run with
        stage := .none, endPoint := none, cause := .none, detail := 0, further := ⟨false, false, false, false⟩ })
    exact ⟨hstage, hend, hnew, fun _ => ⟨hrule, hcause⟩⟩
  · rw [if_neg (by exact hst), if_neg hst]
    exact ⟨rfl, rfl, rfl, fun h => absurd h hst⟩

/-- IND and MRG have looked again at their points in the step from `s` to `t`, and hold what they held. -/
structure LooksAgain (s t : State) : Prop where
  ready : t.ind.ready = s.ind.ready
  ind   : t.indBook = s.indBook
  book  : t.spurBook = s.spurBook
  point : s.run.st ≠ .running → s.ind.releasePoint = none → t.ind.releasePoint = none

theorem LooksAgain.outstanding {s t : State} (h : LooksAgain s t) : t.ind.outstanding = s.ind.outstanding :=
  congrArg (·.2.1) h.ind

theorem releasePoint_indLook {s : State} (h : s.run.st ≠ .running) : (indLook s).ind.releasePoint = none := by
  rw [indLook_quiet s h]

theorem recomputeGap_step (s : State) : LooksAgain s (recomputeGap s) ∧ recomputeGap s = { s with
    reg := { s.reg with g := min (s.params.gmin + s.reg.s / 4) s.params.gmax }, ind := (recomputeGap s).ind
    mrg := (recomputeGap s).mrg } := by
  have hbook := spurBook_recomputeGap s
  rw [recomputeGap_eq] at *
  split
  · next h =>
    refine ⟨⟨rfl, rfl, rfl, fun _ h => h⟩, ?_⟩
    rw [h]
  · next h =>
    rw [if_neg h] at hbook
    refine ⟨⟨rfl, rfl, hbook, fun hst _ => ?_⟩, rfl⟩
    exact releasePoint_indLook (s := { s with reg := _ }) hst

theorem trackReg_step (s : State) : LooksAgain s (trackReg s) ∧ trackReg s = { s with
    reg := { s.reg with s := 0, g := min s.params.gmin s.params.gmax }, ind := (trackReg s).ind
    mrg := (trackReg s).mrg } := by
  obtain ⟨⟨hready, hind, hbook, hpoint⟩, hrest⟩ := recomputeGap_step (s.setReg { s.reg with s := 0 })
  refine ⟨⟨hready, hind, hbook, hpoint⟩, hrest.trans ?_⟩
  simp only [State.setReg_fields, Nat.zero_div, Nat.add_zero]
  rfl

theorem trackRun_step (s : State) : LooksAgain s (trackRun s) ∧ Appends 1 s (trackRun s) ∧ trackRun s = { s with
    run := (trackRun s).run, ind := (trackRun s).ind, mrg := (trackRun s).mrg, ntq := (trackRun s).ntq } := by
  unfold trackRun
  dsimp only
  split
  · let u := s.setRun { s.run with
      stage := .none, endPoint := none, cause := .none, detail := 0, further := ⟨false, false, false, false⟩ }
    show LooksAgain s (enterState .parked (some .host) .trackReset u) ∧ _
    obtain ⟨release, hole, hind⟩ := ind_enterState .parked (some .host) .trackReset u
    refine ⟨⟨?_, ?_, spurBook_enterState .parked (some .host) .trackReset u, fun _ _ => ?_⟩, ?_, ?_⟩
    · rw [hind]
      rfl
    · rw [State.indBook, hind]
      rfl
    · rw [enterState_quiet _ _ _ _ (by decide), State.entered, notify_rest]
    · exact Appends.trans (j := 0) (.of_eq (s := s) (t := u) rfl rfl) (appends_enterState .parked (some .host) .trackReset u)
    · exact enterState_rest .parked (some .host) .trackReset u
  · refine ⟨⟨rfl, rfl, rfl, fun _ h => h⟩, ?_, rfl⟩
    exact Appends.mono (j := 0) (.of_eq rfl rfl) (by omega)

/-- What the announcement of the empty list and the steps after it leave of a tracking reset. -/
structure Announced (u t : State) : Prop where
  rest  : t = { u with
    pos := { u.pos with tally := 0 }, reg := { u.reg with s := 0, g := min u.params.gmin u.params.gmax }
    ind := t.ind, mrg := t.mrg, run := t.run, ntq := t.ntq }
  ind   : t.indBook = u.indBook
  book  : t.spurBook = u.spurBook
  run   : t.run.stage = .none ∧ t.run.endPoint = none ∧
    t.run.st = (if u.run.st = .fault then .parked else u.run.st) ∧
    (u.run.st = .fault → t.run.rule = some .host ∧ t.run.cause = .none)
  ready : ReadyAnew 0 u t
  point : u.run.st ≠ .running → t.ind.releasePoint = none

theorem announced (u : State) : Announced u (trackRun (trackReg (zeroTally (listChange u)))) := by
  let a := listChange u
  let b := trackReg (zeroTally a)
  let t := trackRun b
  have ha : a = _ := listChange_rest u
  obtain ⟨x, hrun⟩ := run_listChange u
  obtain ⟨hreg, hb⟩ := trackReg_step (zeroTally a)
  obtain ⟨hrunstep, htold, ht⟩ := trackRun_step b
  have hst : b.run.st = u.run.st := by
    show (trackReg (zeroTally a)).run.st = _
    rw [hb]
    show (listChange u).run.st = _
    rw [hrun]
  show Announced u t
  constructor
  case rest =>
    have hab : b = { a with
        pos := { a.pos with tally := 0 }, reg := { a.reg with s := 0, g := min a.params.gmin a.params.gmax }
        ind := b.ind, mrg := b.mrg } := hb
    have hbt : t = { b with run := t.run, ind := t.ind, mrg := t.mrg, ntq := t.ntq } := ht
    generalize t = t' at hbt
    generalize b = b' at hbt hab
    generalize a = a' at ha hab
    rw [hbt, hab, ha]
  case ind => exact hrunstep.ind.trans (hreg.ind.trans (indBook_listChange u))
  case book => exact hrunstep.book.trans (hreg.book.trans (spurBook_listChange u))
  case run =>
    have hfinal := run_trackRun b
    rwa [hst] at hfinal
  case ready =>
    have hab : Appends 0 a b := .of_eq (congrArg (·.pos.odo) hb) (congrArg (·.ntq) hb)
    have hbt : t.trk = b.trk ∧ t.ord = b.ord := ⟨congrArg (·.trk) ht, congrArg (·.ord) ht⟩
    have hba : b.trk = a.trk ∧ b.ord = a.ord := ⟨congrArg (·.trk) hb, congrArg (·.ord) hb⟩
    exact (readyAnew_listChange u).later (hab.trans htold) (records_of_trk (hbt.1.trans hba.1)) (hbt.2.trans hba.2)
      (hrunstep.ready.trans hreg.ready) (hrunstep.outstanding.trans hreg.outstanding)
  case point =>
    intro hne
    have hstopped : a.run.st ≠ .running := by
      show (listChange u).run.st ≠ _
      rw [hrun]
      exact hne
    exact hrunstep.point (hst ▸ hne) (hreg.point hstopped ((pointHeld_listChange u).withdrawn (.inr (.inl hstopped))))

theorem pointHeld_stopped {s : State} (h : s.run.st ≠ .running) (hp : s.ind.releasePoint = none) : PointHeld s :=
  ⟨fun _ _ _ hst => absurd hst h, fun _ => hp⟩

/-! ## The eyes -/

theorem eyeOf_trackEyes {s t : State} (h : t.sgt.eyes = vmap (fun e => e.map trackEye) s.sgt.eyes) {i : Nat} (hi : i < 28)
    {e : Eye} (he : eyeOf s i = some e) : eyeOf t i = some (trackEye e) := by
  have hmap : eyeOf t i = (eyeOf s i).map trackEye := by
    unfold eyeOf
    rw [h]
    exact vget_vmap _ _ hi _ _
  rw [hmap, he]
  rfl

theorem trackEye_noPass {e : Eye} (h : e.pass = .noPass) : trackEye e = { e with prevTrail := none, prevRec := none } := by
  simp [trackEye, h]

theorem trackEye_awaiting {e : Eye} (h : e.pass = .awaiting) : trackEye e = { e with
    pass := .noPass, jam := none, blocked := false, tagLimit := none, crowded := none, prevTrail := none
    prevRec := none } := by
  simp [trackEye, h, Eye.ended]

theorem trackEye_opened {e : Eye} (h : e.pass = .opened) : ∃ res, trackEye e = { e with
      crowded := none, res := res, prevTrail := none, prevRec := none } ∧
    (e.res = .unread → res = .unread) ∧ (e.res ≠ .unread → res = .closed) := by
  cases hres : e.res <;> simp [trackEye, h, hres]

/-! ## O57 -/

theorem resetDevice_exec {tag : Byte} {s : State} (h : Takes s tag) : exec (.resetDevice tag) s = .next { s with
    cmd := { s.cmd with resetWaiting := true }
    rng := { s.rng with replies := s.rng.replies ++ [⟨10, tag, .done, [], true⟩] } } := by
  have hquiet : nextDue (cmdResetDevice s).1 = none := (nextDue_setCmd s _).trans h.settled
  have hexec := exec_order (i := .resetDevice tag) (c := ⟨10, tag, true, cmdResetDevice⟩) rfl s
  rw [takeReached_of_none h.settled, Order.answer, answer_takes_quiet h _ _ _ hquiet] at hexec
  exact hexec

theorem cmdResetTrack_refused {s : State}
    (h : s.run.wake.isSome ∨ (s.run.st ≠ .config ∧ s.run.st ≠ .parked ∧ s.run.st ≠ .fault)) :
    cmdResetTrack s = (s, .state, []) := by
  unfold cmdResetTrack
  split
  · rfl
  · next hw =>
    obtain ⟨hconfig, hparked, hfault⟩ := h.resolve_left hw
    split
    · next hst => exact absurd hst hconfig
    · next hst => exact absurd hst hparked
    · next hst => exact absurd hst hfault
    · rfl

theorem cmdResetTrack_done {s : State} (hw : s.run.wake = none)
    (hst : s.run.st = .config ∨ s.run.st = .parked ∨ s.run.st = .fault) :
    cmdResetTrack s = (trackReset s, .done, runByte (trackReset s)) := by
  unfold cmdResetTrack
  rw [if_neg (by simp [hw])]
  rcases hst with hst | hst | hst <;> simp only [hst]

/-- Settles O57: TO CONFIG by the hole that is left, the tracking reset block by block, RESET DEVICE as it stands. -/
theorem toConfigAndResets : Obligations.ToConfigAndResets := by
  intro tag s h hinv
  have quiet {i : Instr} {c : Order} (hc : orderOf i = some c) (htag : c.tag = tag) (hr : c.resets = false)
      {r : Result} (hbody : c.body s = (s, r, [])) : exec i s = .next (s.replied c.op tag r []) := by
    subst htag
    have hexec := exec_taken_quiet hc h hr (by rw [hbody]; exact h.settled)
    rwa [hbody] at hexec
  refine ⟨fun hrefused => ?_, fun hst hw htote => ?_, fun hst hw hholes => ?_, fun hrefused => ?_, fun hw hst => ?_,
    resetDevice_exec h⟩
  · exact quiet (i := .toConfig tag) rfl rfl rfl (cmdToConfig_refused hrefused)
  · exact quiet (i := .toConfig tag) rfl rfl rfl (cmdToConfig_notEmpty hst hw htote)
  · have hexec := toConfig_clause h hinv hst hw hholes
    have ht := inConfig_toConfig hinv.trk
    generalize s.toConfig = t at hexec ht
    obtain ⟨x, hrun⟩ := ht.run
    obtain ⟨hready, hgrant, hdebt, hcount, hinterval, hhole, harrival⟩ := ht.mrg
    have hind := ht.ind
    simp only [State.indBook, Prod.mk.injEq] at hind
    obtain ⟨hlast, hout, hwait, _⟩ := hind
    have hlane (n : Nat) : laneOf t n = laneOf (wakeForConfig s) n := laneOf_of_lan ht.lan n
    refine ⟨t, hexec, by rw [hrun]; rfl, by rw [hrun]; rfl, by rw [hrun]; rfl, by rw [hrun]; rfl, by rw [hrun]; rfl,
      by rw [hrun]; rfl, by rw [hrun]; rfl, hout, hwait, hlast, hgrant, hdebt, hcount, hinterval, hhole, harrival, hready,
      ht.pos, ht.ord, by rw [hrun]; exact hw, fun hasleep => ?_, fun hawake => ?_, fun hhole => ht.empty hhole hholes,
      fun m hm i hi => ?_⟩
    · obtain ⟨hwake, hlamps⟩ := wakeForConfig_asleep hasleep
      refine ⟨fun hno => ht.stands _ (hwake hno) fun m d hd => (hno m d hd).1, fun n d hn hd => ?_⟩
      rw [hlane]
      exact hlamps n d hn hd
    · have hsame := wakeForConfig_awake hawake
      refine ⟨ht.lan.trans (by rw [hsame]), fun hc => ?_⟩
      have hmem := ht.wakes _ hc rfl
      rwa [hsame] at hmem
    · have heye : eyeOf t i = eyeOf s.inConfig i := by
        unfold eyeOf
        rw [ht.sgt]
      rw [heye]
      exact eyeOf_inConfig hm hi
  · exact quiet (i := .resetTrack tag) rfl rfl rfl (cmdResetTrack_refused hrefused)
  · have hexec := exec_taken (i := .resetTrack tag) rfl h rfl
    dsimp only at hexec
    rw [cmdResetTrack_done hw hst] at hexec
    dsimp only at hexec
    have hu := untracked_rest s
    have ht := announced s.untracked
    rw [← trackReset_eq] at ht
    have hgate {g : Nat} (hg : g < 17) : gateOf (trackGates (emptyQueues (trackTrk s))) g = trackedGate s g := by
      rw [gateOf_trackGates _ hg, emptyQueues, trackTrk_rest]
      rfl
    have hentry (k : Nat) : findEntry (trackTrk s) k = (findEntry s k).map fun e =>
        if ∃ r ∈ s.trk.list, r.role = .order ∧ r.tote = some k then { e with st := .waiting } else e :=
      findEntry_settleAll s.trk.list k s
    generalize trackReset s = t at hexec ht
    generalize s.untracked = u at hu ht
    obtain ⟨hrest, hind, hbook, ⟨hstage, hend, hstate, hfault⟩, hready, hpoint⟩ := ht
    have hust : u.run.st = s.run.st := by rw [hu]
    have hind' : u.indBook = (s.ind.last, none, none, s.ind.reject) := by
      rw [hu]
      rfl
    rw [hind'] at hind
    simp only [State.indBook, Prod.mk.injEq] at hind
    obtain ⟨hlast, hout, hwait, hreject⟩ := hind
    have humrg : u.mrg = s.resetMrg := by rw [hu]
    obtain ⟨hgrant, hdebt, _, hmready, hinterval⟩ := mrg_of_spurBook hbook
    obtain ⟨hcount, hsince, hhole, harrival⟩ := accrual_of_spurBook hbook
    rw [humrg] at hgrant hdebt hmready hinterval hcount hsince hhole harrival
    have hstopped : s.run.st ≠ .running := by rcases hst with h | h | h <;> simp [h]
    have htstopped : t.run.st ≠ .running := by
      rw [hstate, hust]
      split <;> simp [hstopped]
    have hnopoint : t.ind.releasePoint = none := hpoint (hust ▸ hstopped)
    have htord : t.ord = (trackTrk s).ord := by rw [hrest, hu]
    have htgate (g : Nat) : gateOf t g = gateOf (trackGates (emptyQueues (trackTrk s))) g := by
      unfold gateOf
      rw [hrest, hu]
    have hteyes : t.sgt.eyes = vmap (fun e => e.map trackEye) s.sgt.eyes := by rw [hrest, hu]
    have htqueues : t.fpl.queues = Vector.replicate Config.lanes [] := by rw [hrest, hu]
    have hmrg : s.resetMrg.ready = s.mrg.ready ∧ s.resetMrg.grant = none ∧ s.resetMrg.debt = 0 ∧
        s.resetMrg.count = 0 ∧ s.resetMrg.hole = .none ∧ s.resetMrg.arrival = none := by
      unfold State.resetMrg
      split <;> exact ⟨rfl, rfl, rfl, rfl, rfl, rfl⟩
    obtain ⟨hmready', hgrant', hdebt', hcount', hhole', harrival'⟩ := hmrg
    refine ⟨t, by rwa [runByte, bytesOf_one] at hexec, by rw [hrest, hu], fun g => ?_, by rw [hrest, hu], by rw [hrest, hu],
      by rw [hrest, hu], by rw [hrest, hu], fun g y hg hy hclosed => ?_, fun g y d hg hy hclosed hd => ?_,
      fun r k e hr hrole htote he => ?_, fun k hno => ?_, fun i e hi he => ⟨fun hp => ?_, fun hp => ?_, fun hp => ?_⟩,
      by rw [hrest, hu], by rw [hrest, hu], by rw [hrest, hu], hout, hwait, hlast, hnopoint, hreject,
      (hready.before (r := s) (j := 0) (.of_eq (by rw [hu]) (by rw [hu])) (by rw [hu])).examined (by omega)
        (pointHeld_stopped htstopped hnopoint),
      hgrant.trans hgrant', hdebt.trans hdebt', hcount.trans hcount', hhole.trans hhole', harrival.trans harrival',
      hmready.trans hmready', fun hspur hconfig => ?_, fun hidle => ?_, hstage, hend, hust ▸ hstate,
      fun hf => hfault (hust.trans hf)⟩
    · rw [queueOf, htqueues]
      simp [vget]
    · rw [htgate, hgate hg, trackedGate, hy]
      simp [hclosed]
    · rw [htgate, hgate hg, trackedGate, hy]
      simp [hclosed, hd]
    · rw [findEntry_of_ord htord, hentry, he, Option.map_some, if_pos ⟨r, hr, hrole, htote⟩]
    · have hnone : ¬∃ r ∈ s.trk.list, r.role = .order ∧ r.tote = some k := fun ⟨r, hr, hrole, htote⟩ => hno r hr hrole htote
      rw [findEntry_of_ord htord, hentry]
      simp [hnone]
    · rw [eyeOf_trackEyes hteyes hi he, trackEye_noPass hp]
    · rw [eyeOf_trackEyes hteyes hi he, trackEye_awaiting hp]
    · obtain ⟨res, heye, hres⟩ := trackEye_opened hp
      exact ⟨res, by rw [eyeOf_trackEyes hteyes hi he, heye], hres⟩
    · rw [hinterval, hsince, State.resetMrg, if_pos ⟨hspur, hconfig⟩]
      exact ⟨rfl, rfl⟩
    · have hno : ¬(s.mrg.ready.isSome = true ∧ s.run.st ≠ .config) := by
        rcases hidle with h | h <;> simp [h]
      rw [hinterval, State.resetMrg, if_neg hno]
      rfl

end Sys2Proof.Machine
end

section
/-! PROOFS. What a sighting leaves of every block, and what it makes of its record (O22, O30). -/

namespace Sys2Proof.Machine

/-! ## The frame of a sighting -/

/-- The step from `s` to `t` changes no more of the blocks than a sighting does, and queues at most `k` notices. -/
structure Framed (k : Nat) (s t : State) : Prop where
  core   : t.core = s.core
  ind    : t.indBook = s.indBook
  ready  : s.ind.ready = none → t.ind.ready = none
  sgt    : t.sgt = s.sgt
  told   : Appends k s t
  blocks : BlockInv s → BlockInv t ∧ t.trk.list.length = s.trk.list.length

theorem Framed.refl (s : State) : Framed 0 s s := ⟨rfl, rfl, id, rfl, .of_eq rfl rfl, fun h => ⟨h, rfl⟩⟩

theorem Framed.trans {j k : Nat} {s t u : State} (h : Framed j s t) (h' : Framed k t u) : Framed (j + k) s u where
  core   := h'.core.trans h.core
  ind    := h'.ind.trans h.ind
  ready  := fun hn => h'.ready (h.ready hn)
  sgt    := h'.sgt.trans h.sgt
  told   := h.told.trans h'.told
  blocks := fun hb => by
    obtain ⟨ht, hlen⟩ := h.blocks hb
    obtain ⟨hu, hlen'⟩ := h'.blocks ht
    exact ⟨hu, hlen'.trans hlen⟩

theorem Framed.mono {j k : Nat} {s t : State} (h : Framed j s t) (hjk : j ≤ k) : Framed k s t :=
  { h with told := h.told.mono hjk }

/-- The record `id` has become one that stands in the relation `R` to it, in a step that keeps the frame. -/
structure Works (id : Nat) (R : Rec → Rec → Prop) (k : Nat) (s t : State) : Prop extends Framed k s t where
  jumps : t.trk.jumps = s.trk.jumps
  found : ∀ r, findRec s id = some r → ∃ r', findRec t id = some r' ∧ R r r'

theorem Works.comp {id j k : Nat} {R R' : Rec → Rec → Prop} {s t u : State} (h : Works id R j s t)
    (h' : Works id R' k t u) : Works id (Relation.Comp R R') (j + k) s u where
  toFramed := h.toFramed.trans h'.toFramed
  jumps    := h'.jumps.trans h.jumps
  found    := fun r hr => by
    obtain ⟨r', hr', hR⟩ := h.found r hr
    obtain ⟨r'', hr'', hR'⟩ := h'.found r' hr'
    exact ⟨r'', hr'', r', hR, hR'⟩

theorem Works.mono {id j k : Nat} {R R' : Rec → Rec → Prop} {s t : State} (h : Works id R j s t) (hjk : j ≤ k)
    (hR : ∀ {a b}, R a b → R' a b) : Works id R' k s t where
  toFramed := h.toFramed.mono hjk
  jumps    := h.jumps
  found    := fun r hr => by
    obtain ⟨r', hr', h'⟩ := h.found r hr
    exact ⟨r', hr', hR h'⟩

/-! ## The steps that change no record -/

/-- Two records that differ in the marks of plans at most. -/
def Rec.Same (r r' : Rec) : Prop := r'.unmarked = r.unmarked

theorem Framed.works {k : Nat} {s t : State} (h : Framed k s t) (hr : t.records = s.records) (id : Nat) :
    Works id Rec.Same k s t where
  toFramed := h
  jumps    := jumps_of_records hr
  found    := fun r hfind => by
    have hmap := findRec_of_records hr id
    rw [hfind] at hmap
    obtain ⟨r', hr', hsame⟩ := Option.map_eq_some_iff.mp hmap
    exact ⟨r', hr', hsame⟩

/-- A step of the planner keeps the frame. -/
theorem framed_of_planCore {s t : State} (h : t.planCore = s.planCore) (hr : t.records = s.records)
    (hb : BlockInv s → BlockInv t) : Framed 0 s t := by
  have he := eq_of_planCore h
  refine ⟨core_of_planCore h, ?_, ?_, ?_, appends_planCore h, fun hs => ⟨hb hs, length_of_records hr⟩⟩
  · exact indBook_of_ind (by rw [he])
  · rw [he]
    exact id
  · rw [he]

theorem framed_planReq (id : Nat) (s : State) : Framed 0 s (planReq id s) :=
  framed_of_planCore (planCore_planReq ..) (records_planReq ..) inv_planReq

theorem framed_shadowRecheck (id : Nat) (s : State) : Framed 0 s (shadowRecheck id s) :=
  framed_of_planCore (planCore_shadowRecheck ..) (records_shadowRecheck ..) inv_shadowRecheck

theorem framed_detach (id : Nat) (s : State) : Framed 0 s (detach id s).st :=
  framed_of_planCore (planCore_detach ..) (records_detach ..) inv_detach

theorem framed_finishDetach (l : List Nat) (p : Planned) (s : State) : Framed 0 s (finishDetach l p s) :=
  framed_of_planCore (planCore_finishDetach ..) (records_finishDetach ..) inv_finishDetach

theorem framed_notify (n : Notice) (s : State) : Framed 1 s (notify n s) := by
  have hrest := notify_rest n s
  refine ⟨core_notify .., indBook_of_ind (by rw [hrest]), ?_, by rw [hrest], appends_notify .., fun h =>
    ⟨inv_notify h, by rw [hrest]⟩⟩
  rw [hrest]
  exact id

theorem framed_listChange (s : State) : Framed 1 s (listChange s) := by
  refine ⟨core_listChange .., indBook_listChange .., (readyAnew_listChange s).none, ?_, appends_listChange .., fun h =>
    ⟨inv_listChange h, length_of_records (records_listChange s)⟩⟩
  rw [listChange_rest]

theorem framed_lapCheck (s : State) : Framed 1 s (lapCheck s) := by
  obtain ⟨release, hole, hind⟩ := ind_lapCheck s
  refine ⟨core_lapCheck .., indBook_lapCheck .., ?_, ?_, appends_lapCheck .., fun h =>
    ⟨inv_lapCheck h, length_of_records (records_lapCheck s)⟩⟩
  · rw [hind]
    exact id
  · rw [lapCheck_rest]

theorem framed_settleEntry (r : Rec) (x : EntryFate) (s : State) : Framed 0 s (settleEntry r x s) := by
  have hrest := settleEntry_rest r x s
  refine ⟨?_, ?_, ?_, ?_, ?_, fun h => ⟨inv_settleEntry h, ?_⟩⟩
  · rw [hrest]
    rfl
  · rw [hrest]
    rfl
  · rw [hrest]
    exact id
  · rw [hrest]
  · rw [hrest]
    exact .of_eq rfl rfl
  · rw [hrest]

/-! ## The record changed in place -/

theorem works_modRec {id : Nat} {f : Rec → Rec} {s : State} (hf : ∀ r, (f r).id = r.id)
    (hb : BlockInv s → BlockInv (modRec id f s)) : Works id (fun r r' => r' = f r) 0 s (modRec id f s) where
  core   := rfl
  ind    := rfl
  ready  := fun h => h
  sgt    := rfl
  told   := .of_eq rfl rfl
  blocks := fun h => ⟨hb h, List.length_map ..⟩
  jumps  := rfl
  found  := fun r hr => ⟨f r, findRec_modRec_same hf hr, rfl⟩

theorem works_modRec_kept {id : Nat} {f : Rec → Rec} {s : State}
    (hf : ∀ r, (f r).id = r.id ∧ (f r).tote = r.tote ∧ ((f r).role = .hole → r.role = .hole)) :
    Works id (fun r r' => r' = f r) 0 s (modRec id f s) :=
  works_modRec (fun r => (hf r).1) fun h => inv_modRec h hf

/-! ## The turn to RETURN -/

/-- What a turn to RETURN leaves of an ORDER record, and what no turn does to a RETURN record (R28). -/
structure Rec.Turned (r r' : Rec) : Prop where
  spot : (r'.tote, r'.anchor, r'.len, r'.st, r'.missed, r'.doubt, r'.doubtful) =
    (r.tote, r.anchor, r.len, r.st, r.missed, r.doubt, r.doubtful)
  ret  : r.role = .ret → r'.role = .ret ∧ r'.reason = r.reason
  dest : (r'.role = r.role ∧ r'.dest = r.dest) ∨ r'.dest = some 0

theorem Rec.Same.turned {r r' : Rec} (h : Rec.Same r r') : Rec.Turned r r' := by
  simp only [Rec.Same, Rec.unmarked, Rec.mk.injEq] at h
  constructor <;> simp_all

theorem Rec.Turned.trans {a b c : Rec} (h : Rec.Turned a b) (h' : Rec.Turned b c) : Rec.Turned a c where
  spot := h'.spot.trans h.spot
  ret  := fun ha => by
    obtain ⟨hb, hbr⟩ := h.ret ha
    obtain ⟨hc, hcr⟩ := h'.ret hb
    exact ⟨hc, hcr.trans hbr⟩
  dest := by
    rcases h'.dest with ⟨hrole, hdest⟩ | h0
    · rcases h.dest with ⟨hrole', hdest'⟩ | h0
      · exact .inl ⟨hrole.trans hrole', hdest.trans hdest'⟩
      · exact .inr (hdest.trans h0)
    · exact .inr h0

theorem Works.turned {id k : Nat} {s t : State} (h : Works id Rec.Same k s t) : Works id Rec.Turned k s t :=
  h.mono (Nat.le_refl k) Rec.Same.turned

theorem Works.turnedOn {id j k : Nat} {s t u : State} (h : Works id Rec.Turned j s t) (h' : Works id Rec.Turned k t u) :
    Works id Rec.Turned (j + k) s u :=
  (h.comp h').mono (Nat.le_refl _) fun ⟨_, h, h'⟩ => h.trans h'

/-- A step read off from the one record of the handle. -/
theorem Works.at {id k : Nat} {R R' : Rec → Rec → Prop} {s t : State} (h : Works id R k s t) {r : Rec}
    (hr : findRec s id = some r) (hR : ∀ {b}, R r b → R' r b) : Works id R' k s t where
  toFramed := h.toFramed
  jumps    := h.jumps
  found    := fun x hx => by
    obtain rfl : r = x := Option.some.inj (hr.symm.trans hx)
    obtain ⟨b, hb, hRb⟩ := h.found r hr
    exact ⟨b, hb, hR hRb⟩

theorem Works.absent {id k : Nat} {R : Rec → Rec → Prop} {s : State} (h : findRec s id = none) : Works id R k s s where
  toFramed := (Framed.refl s).mono (Nat.zero_le _)
  jumps    := rfl
  found    := fun r hr => by simp [h] at hr

theorem Works.same (id : Nat) (s : State) : Works id Rec.Same 0 s s := (Framed.refl s).works rfl id

theorem works_roleToReturn {id : Nat} {r : Rec} {s : State} (h : findRec s id = some r) (hrole : r.role = .order)
    (reason : Reason) (fate : EntryFate) : Works id Rec.Turned 0 s (roleToReturn id reason fate s) := by
  let turn (x : Rec) : Rec := { x with role := .ret, reason := reason, dest := some 0, laps := 0 }
  let a := settleEntry r fate s
  let b := modRec id turn a
  have heq : roleToReturn id reason fate s = finishDetach [id] (detach id b) (detach id b).st := by
    simp only [roleToReturn, h, hrole]
    rfl
  have hsettle : Works id Rec.Same 0 s a := (framed_settleEntry r fate s).works (by
    show (settleEntry r fate s).records = _
    rw [settleEntry_rest]
    rfl) id
  have hturn : Works id (fun x y => y = turn x) 0 a b := works_modRec_kept fun _ => ⟨rfl, rfl, fun h => by simp [turn] at h⟩
  have hplans : Works id Rec.Same 0 b (finishDetach [id] (detach id b) (detach id b).st) :=
    ((framed_detach id b).trans (framed_finishDetach ..)).works ((records_finishDetach ..).trans (records_detach ..)) id
  rw [heq]
  refine ((hsettle.comp hturn).comp hplans).at h ?_
  rintro y ⟨_, ⟨z, hz, rfl⟩, hy⟩
  have hspot : Rec.Turned r z := hz.turned
  have hy' : Rec.Turned (turn z) y := hy.turned
  refine ⟨hy'.spot.trans hspot.spot, fun hret => absurd (hrole.symm.trans hret) (by decide), .inr ?_⟩
  rcases hy'.dest with ⟨_, hd⟩ | hd
  · exact hd
  · exact hd

theorem linkedEntry_order {s : State} {r : Rec} {e : Entry} (h : linkedEntry s r = some e) : r.role = .order := by
  unfold linkedEntry at h
  split at h
  · assumption
  · exact absurd h (by simp)

theorem works_applyLapLimit (id : Nat) (s : State) : Works id Rec.Turned 1 s (applyLapLimit id s) := by
  have stays : Works id Rec.Turned 1 s s := (Works.same id s).mono (Nat.zero_le _) Rec.Same.turned
  unfold applyLapLimit
  split
  · exact stays
  · next r hr =>
    split
    · exact stays
    · next e he =>
      split
      · exact (works_roleToReturn hr (linkedEntry_order he) ..).turnedOn
          ((framed_notify ..).works (records_notify ..) id).turned
      · exact stays

theorem works_sizeCheck (id : Nat) (s : State) : Works id Rec.Turned 1 s (sizeCheck id s) := by
  have stays : Works id Rec.Turned 1 s s := (Works.same id s).mono (Nat.zero_le _) Rec.Same.turned
  unfold sizeCheck
  split
  · exact stays
  · next r hr =>
    split
    · exact stays
    · next e he =>
      dsimp only
      split
      · exact (works_roleToReturn hr (linkedEntry_order he) ..).turnedOn
          ((framed_notify ..).works (records_notify ..) id).turned
      · exact stays

/-! ## A failed divert -/

/-- A step that goes on beside the records, IND and the eyes, and queues at most `k` notices. -/
structure Beside (k : Nat) (s t : State) : Prop where
  core    : t.core = s.core
  ind     : t.ind = s.ind
  sgt     : t.sgt = s.sgt
  records : t.records = s.records
  told    : Appends k s t

theorem Beside.trans {j k : Nat} {s t u : State} (h : Beside j s t) (h' : Beside k t u) : Beside (j + k) s u :=
  ⟨h'.core.trans h.core, h'.ind.trans h.ind, h'.sgt.trans h.sgt, h'.records.trans h.records, h.told.trans h'.told⟩

theorem Beside.refl (k : Nat) (s : State) : Beside k s s :=
  ⟨rfl, rfl, rfl, rfl, Appends.mono (j := 0) (.of_eq rfl rfl) (Nat.zero_le _)⟩

theorem beside_of_planCore {s t : State} (h : t.planCore = s.planCore) (hr : t.records = s.records) : Beside 0 s t := by
  have he := eq_of_planCore h
  exact ⟨core_of_planCore h, by rw [he], by rw [he], hr, appends_planCore h⟩

theorem beside_sendLamp (n : Nat) (b : Bool) (s : State) : Beside 0 s (sendLamp n b s) := by
  have hrest := sendLamp_rest n b s
  refine ⟨core_sendLamp .., ?_, ?_, ?_, ?_⟩
  · rw [hrest]
  · rw [hrest]
  · rw [hrest]
    rfl
  · rw [hrest]
    exact .of_eq rfl rfl

theorem beside_notify (n : Notice) (s : State) : Beside 1 s (notify n s) := by
  have hrest := notify_rest n s
  exact ⟨core_notify .., by rw [hrest], by rw [hrest], records_notify .., appends_notify ..⟩

theorem beside_laneUpdate (n : Nat) (f : Lane → Lane) (s : State) : Beside 1 s (laneUpdate n f s) := by
  have hmod (g : Lane → Lane) : Beside 0 s (modLane n g s) := ⟨rfl, rfl, rfl, rfl, .of_eq rfl rfl⟩
  have lamp (b c : Bool) (u : State) : Beside 0 u (if b = c then u else sendLamp n c u) := by
    split
    · exact Beside.refl 0 u
    · exact beside_sendLamp ..
  have notice (p : Prop) [Decidable p] (m : Notice) (u : State) : Beside 1 u (if p then u else notify m u) := by
    split
    · exact Beside.refl 1 u
    · exact beside_notify ..
  have withdrawn (b : Bool) (u : State) : Beside 0 u (if b then withdrawLane n u else u) := by
    split
    · exact beside_of_planCore (planCore_withdrawLane ..) (records_withdrawLane ..)
    · exact Beside.refl 0 u
  have planned (b : Bool) (u : State) : Beside 0 u (if b then planLane n u else u) := by
    split
    · exact beside_of_planCore (planCore_planLane ..) (records_planLane ..)
    · exact Beside.refl 0 u
  exact ((((hmod _).trans (lamp _ _ _)).trans (notice _ _ _)).trans (withdrawn _ _)).trans (planned _ _)

theorem Beside.framed {k : Nat} {s t : State} (h : Beside k s t) (hb : BlockInv s → BlockInv t) : Framed k s t := by
  refine ⟨h.core, indBook_of_ind h.ind, ?_, h.sgt, h.told, fun hs => ⟨hb hs, length_of_records h.records⟩⟩
  rw [h.ind]
  exact fun h => h

/-- The lane of a failed divert, its verify list without the record (R128). -/
def Lane.released (id : Nat) (l : Lane) : Lane := { l with verify := l.verify.filter fun x => x.who ≠ id }

/-- The record of a failed divert (R128, step 2). -/
def Rec.thrownBack (dest : Nat) (r : Rec) : Rec := { r with st := .riding, laps := satInc 15 r.laps, dest := some dest }

/-- The lane of a failed divert, counted, with the flag that two in a row set (R128). -/
def Lane.failing (l : Lane) : Lane :=
  { l with failed := satInc counterMax l.failed, streak := satInc 2 l.streak
           faulted := if satInc 2 l.streak = 2 ∧ l.faulted.isNone then some .divert else l.faulted }

/-- What a hand-over leaves of its record (R57, R128). -/
structure Rec.Handed (r r' : Rec) : Prop where
  spot : (r'.tote, r'.anchor, r'.len, r'.missed, r'.doubt, r'.doubtful) =
    (r.tote, r.anchor, r.len, r.missed, r.doubt, r.doubtful)
  ret  : r.role = .ret → r'.role = .ret ∧ r'.reason = r.reason
  dest : r'.role = r.role ∨ r'.dest = some 0

theorem Rec.Same.role {r r' : Rec} (h : Rec.Same r r') : r'.role = r.role := by
  show r'.unmarked.role = r.unmarked.role
  rw [h]

theorem Rec.Same.handed {r r' : Rec} (h : Rec.Same r r') : Rec.Handed r r' := by
  have hspot := h.turned.spot
  simp only [Prod.mk.injEq] at hspot
  exact ⟨by simp only [hspot], h.turned.ret, .inl h.role⟩

theorem works_failedDivert (id : Nat) (s : State) : Works id Rec.Handed 3 s (failedDivert id s) := by
  unfold failedDivert
  split
  · next n e r hv hr =>
    let a := modLane n (Lane.released id) s
    let b := modRec id (Rec.thrownBack (destAfterFail s r)) a
    let c := laneUpdate n Lane.failing b
    let d := match findRec c id with
      | some x => notify (missNotice x .failed e.late) c
      | none => c
    show Works id Rec.Handed 3 s (applyLapLimit id d)
    have hab : Works id Rec.Same 0 s a := by
      have hbeside : Beside 0 s a := ⟨rfl, rfl, rfl, rfl, .of_eq rfl rfl⟩
      refine (hbeside.framed fun h => ?_).works rfl id
      obtain ⟨hocc, hstreak, hverify, hreported⟩ := laneOf_ok h n
      exact inv_modLane h ⟨hocc, hstreak, (List.length_filter_le _ _).trans hverify, hreported⟩
    have hbc : Works id (fun x y => y = x.thrownBack (destAfterFail s r)) 0 a b :=
      works_modRec_kept fun _ => ⟨rfl, rfl, fun h => h⟩
    have hcd : Works id Rec.Same 1 b c := by
      refine ((beside_laneUpdate n Lane.failing b).framed fun h => ?_).works (beside_laneUpdate n Lane.failing b).records id
      have hlane := laneOf_ok h n
      exact inv_laneUpdate h hlane.occ satInc_le hlane.verify
    have hd : Works id Rec.Same 1 c d := by
      show Works id Rec.Same 1 c (match findRec c id with
        | some x => notify (missNotice x .failed e.late) c
        | none => c)
      split
      · exact (framed_notify ..).works (records_notify ..) id
      · exact (Works.same id c).mono (Nat.zero_le _) fun h => h
    have hafter := ((hcd.turned.turnedOn hd.turned).turnedOn (works_applyLapLimit id d))
    refine ((hab.comp hbc).comp hafter).mono (by omega) ?_
    rintro x y ⟨_, ⟨w, hw, rfl⟩, hy⟩
    have hw' := hw.turned
    have hspot := hy.spot
    have hspot' := hw'.spot
    simp only [Rec.thrownBack, Prod.mk.injEq] at hspot hspot'
    refine ⟨?_, fun hret => ?_, ?_⟩
    · simp only [hspot, hspot']
    · obtain ⟨hrole, hreason⟩ := hw'.ret hret
      obtain ⟨hrole', hreason'⟩ := hy.ret hrole
      exact ⟨hrole', hreason'.trans hreason⟩
    · have hrole : w.role = x.role := hw.role
      exact hy.dest.imp (fun h => h.1.trans hrole) fun h => h
  · exact (Works.same id s).mono (Nat.zero_le _) Rec.Same.handed

theorem works_handOver (id : Nat) (s : State) : Works id Rec.Handed 3 s (handOver id s) := by
  have stays : Works id Rec.Handed 3 s s := (Works.same id s).mono (Nat.zero_le _) Rec.Same.handed
  unfold handOver
  split
  · split
    · exact works_failedDivert id s
    · exact stays
  · exact stays

theorem handOver_eq {id : Nat} {r : Rec} {s : State} (h : findRec s id = some r) (hst : r.st ≠ .verifying) :
    handOver id s = s := by
  simp [handOver, h, hst]

end Sys2Proof.Machine
end

section
/-! PROOFS. Matches and jumps: what a sighting makes of the record that takes it (O22, O30). -/

namespace Sys2Proof.Machine

/-! ## The steps of a match -/

/-- A record whose doubt is cleared, its role kept (R50, step 2). -/
structure Rec.Cleared (r r' : Rec) : Prop where
  spot  : (r'.tote, r'.anchor, r'.len, r'.st, r'.missed) = (r.tote, r.anchor, r.len, r.st, r.missed)
  doubt : r'.doubt = 0 ∧ r'.doubtful = false
  ret   : r.role = .ret → r'.role = .ret ∧ r'.reason = r.reason

theorem works_clearDoubt (id : Nat) (s : State) : Works id Rec.Cleared 0 s (clearDoubt id s) := by
  unfold clearDoubt
  split
  · next h => exact Works.absent h
  · dsimp only
    refine (works_modRec_kept (by exact fun _ => ⟨rfl, rfl, fun h => h⟩)).mono (Nat.le_refl _) ?_
    rintro a b rfl
    exact ⟨rfl, ⟨rfl, rfl⟩, fun h => ⟨h, rfl⟩⟩

/-- A record whose length may have been set, and that may have been turned for it (R29, R79). -/
structure Rec.Measured (r r' : Rec) : Prop where
  spot : (r'.tote, r'.anchor, r'.st, r'.missed, r'.doubt, r'.doubtful) =
    (r.tote, r.anchor, r.st, r.missed, r.doubt, r.doubtful)
  ret  : r.role = .ret → r'.role = .ret ∧ r'.reason = r.reason

theorem works_setLength (id : Nat) (len : Option Nat) (s : State) : Works id Rec.Measured 1 s (setLength id len s) := by
  unfold setLength
  split
  · next l =>
    have hset : Works id (fun a b => b = { a with len := l }) 0 s (modRec id (fun x => { x with len := l }) s) :=
      works_modRec_kept fun _ => ⟨rfl, rfl, fun h => h⟩
    refine (hset.comp (works_sizeCheck id _)).mono (by omega) ?_
    rintro a b ⟨_, rfl, hb⟩
    have hspot := hb.spot
    simp only [Prod.mk.injEq] at hspot
    exact ⟨by simp only [hspot], hb.ret⟩
  · refine (Works.same id s).mono (by omega) fun {a b} h => ?_
    have hspot := h.turned.spot
    simp only [Prod.mk.injEq] at hspot
    exact ⟨by simp only [hspot], h.turned.ret⟩

/-- A record that a sighting has found: RIDING, with no missed deadline (R36). -/
structure Rec.Matched (r r' : Rec) : Prop where
  spot   : (r'.tote, r'.anchor, r'.len, r'.doubt, r'.doubtful, r'.role, r'.reason, r'.dest) =
    (r.tote, r.anchor, r.len, r.doubt, r.doubtful, r.role, r.reason, r.dest)
  riding : r'.st = .riding ∧ r'.missed = 0

theorem works_matchDeadline (id p : Nat) (stamp : Int) (s : State) : Works id Rec.Matched 1 s (matchDeadline id p stamp s) := by
  have hride : Works id (fun a b => b = { a with st := .riding, missed := 0 }) 0 s
      (modRec id (fun r => { r with st := .riding, missed := 0 }) s) := works_modRec_kept fun _ => ⟨rfl, rfl, fun h => h⟩
  have hload (u : State) : Works id (fun a b => ∃ i d, b = { a with expected := i, deadline := d }) 0 u
      (loadDeadline id p stamp u.params.window u) := by
    unfold loadDeadline
    split
    · exact (works_modRec_kept (by exact fun _ => ⟨rfl, rfl, fun h => h⟩)).mono (Nat.le_refl _) fun h => ⟨_, _, h⟩
    · exact (works_modRec_kept (by exact fun _ => ⟨rfl, rfl, fun h => h⟩)).mono (Nat.le_refl _) fun h => ⟨_, _, h⟩
  have hlap (u : State) : Works id Rec.Same 1 u (lapCheck u) := (framed_lapCheck u).works (records_lapCheck u) id
  refine ((hride.comp (hload _)).comp (hlap _)).mono (by omega) ?_
  rintro a b ⟨_, ⟨_, rfl, i, d, rfl⟩, hb⟩
  simp only [Rec.Same, Rec.unmarked, Rec.mk.injEq] at hb
  constructor <;> simp only [hb, and_self]

/-- A record whose position has been corrected by `d` (R23). -/
structure Rec.Corrected (l : Nat) (d : Int) (r r' : Rec) : Prop where
  spot  : (r'.tote, r'.len, r'.st, r'.missed, r'.doubt, r'.doubtful, r'.role, r'.reason, r'.dest) =
    (r.tote, r.len, r.st, r.missed, r.doubt, r.doubtful, r.role, r.reason, r.dest)
  place : (r.anchor - d - r'.anchor) % l = 0

theorem works_reseat (id : Nat) (a : Int) (s : State) :
    Works id (fun r r' => r' = { r with anchor := a }) 0 s (reseat id a s) := by
  unfold reseat
  split
  · next r hr =>
    obtain ⟨hmem, hid⟩ := findRec_mem hr
    have hlen (h : BlockInv s) : (seatIn { r with anchor := a } s.trk.list).length = s.trk.list.length := by
      rw [(seatIn_perm ..).length_eq, (h.trk.split hmem).length_eq]
      rfl
    refine ⟨⟨rfl, rfl, fun h => h, rfl, .of_eq rfl rfl, fun h => ⟨?_, hlen h⟩⟩, rfl, fun x hx => ?_⟩
    · have hinv := inv_reseat (id := id) (a := a) h
      unfold reseat at hinv
      rwa [hr] at hinv
    · obtain rfl : r = x := Option.some.inj (hr.symm.trans hx)
      refine ⟨_, ?_, rfl⟩
      subst hid
      exact find?_seatIn_same (r := { r with anchor := a })
  · next h => exact Works.absent h

theorem works_moveRec (id : Nat) (d : Int) (s : State) : Works id (Rec.Corrected s.params.loopLen d) 0 s (moveRec id d s) := by
  unfold moveRec
  split
  · next r hr =>
    split
    · next hd =>
      refine (Works.same id s).mono (Nat.le_refl _) fun {a b} h => ?_
      simp only [Rec.Same, Rec.unmarked, Rec.mk.injEq] at h
      constructor <;> simp [h, hd]
    · refine (works_reseat id _ s).at hr ?_
      rintro b rfl
      exact ⟨rfl, anchor_mod s (r.anchor - d)⟩
  · next h => exact Works.absent h

theorem works_correct (id : Nat) (d : Int) (s : State) : Works id (Rec.Corrected s.params.loopLen d) 1 s (correct id d s) := by
  unfold correct
  split
  · have hmove := works_moveRec id d s
    have hplan (u : State) : Works id Rec.Same 1 u (shadowRecheck id (planReq id (listChange u))) :=
      (((framed_listChange u).trans (framed_planReq id _)).trans (framed_shadowRecheck id _)).works (by simp) id
    refine (hmove.comp (hplan _)).mono (by omega) ?_
    rintro a b ⟨c, hc, hb⟩
    have hspot := hc.spot
    have hplace := hc.place
    simp only [Rec.Same, Rec.unmarked, Rec.mk.injEq] at hb
    simp only [Prod.mk.injEq] at hspot
    refine ⟨by simp only [hb, hspot], ?_⟩
    simp only [hb]
    exact hplace
  · next h => exact Works.absent h

/-! ## Matches -/

/-- A record that a READ has found (R50): no doubt is left of it. -/
structure Rec.Read (l : Nat) (d : Int) (r r' : Rec) : Prop where
  tote   : r'.tote = r.tote
  place  : (r.anchor - d - r'.anchor) % l = 0
  riding : r'.st = .riding ∧ r'.missed = 0
  doubt  : r'.doubt = 0 ∧ r'.doubtful = false
  ret    : r.role = .ret → r'.role = .ret ∧ r'.reason = r.reason

theorem params_of_core {s t : State} (h : t.core = s.core) : t.params = s.params := congrArg (·.2.2.1) h

theorem works_matchRead (id : Nat) (d : Int) (x : Sighting) (s : State) :
    Works id (Rec.Read s.params.loopLen d) 6 s (matchRead id d x s) := by
  let a := handOver id s
  let b := clearDoubt id a
  let c := setLength id x.len b
  let e := matchDeadline id x.point x.stamp c
  have hab := (works_handOver id s).comp (works_clearDoubt id a)
  have hac := (hab.comp (works_setLength id x.len b)).comp (works_matchDeadline id x.point x.stamp c)
  have hcorrect := works_correct id d e
  rw [params_of_core hac.core] at hcorrect
  refine (hac.comp hcorrect).mono (by omega) ?_
  rintro r r' ⟨r4, ⟨r3, ⟨r2, ⟨r1, h1, h2⟩, h3⟩, h4⟩, h5⟩
  have s1 := h1.spot
  have s2 := h2.spot
  have s3 := h3.spot
  have s4 := h4.spot
  have s5 := h5.spot
  have hplace := h5.place
  simp only [Prod.mk.injEq] at s1 s2 s3 s4 s5
  refine ⟨by simp only [s1, s2, s3, s4, s5], ?_, ?_, ?_, fun hret => ?_⟩
  · have hanchor : r4.anchor = r.anchor := by simp only [s1, s2, s3, s4]
    rwa [hanchor] at hplace
  · simp only [s5, h4.riding, and_self]
  · simp only [s5, s4, s3, h2.doubt, and_self]
  · obtain ⟨hrole1, hreason1⟩ := h1.ret hret
    obtain ⟨hrole2, hreason2⟩ := h2.ret hrole1
    obtain ⟨hrole3, hreason3⟩ := h3.ret hrole2
    simp only [s5, s4, hrole3, hreason3, hreason2, hreason1, and_self]

/-- The NOREADs of the sighting leave no doubt: its reader is DEGRADED (R55). -/
def Exempt (x : Sighting) (s : State) : Prop :=
  x.source = .reader ∧ ∃ w, vget s.sgt.windows x.station none = some w ∧ w.degraded = true

/-- A record that a NOREAD has doubted once more (R55). -/
structure Rec.Doubting (r r' : Rec) : Prop where
  spot  : (r'.tote, r'.anchor, r'.len, r'.st, r'.missed) = (r.tote, r.anchor, r.len, r.st, r.missed)
  doubt : r'.doubt = min 2 (r.doubt + 1) ∧ r'.doubtful = (r.doubtful || decide (r.doubt = 1))
  dest  : r.doubt = 1 → r'.dest = if r.role = .order then some 0 else r.dest

theorem takeDoubt_exempt {x : Sighting} {s : State} (h : Exempt x s) (id : Nat) : takeDoubt id x s = s := by
  obtain ⟨hsource, w, hw, hdegraded⟩ := h
  simp [takeDoubt, hsource, hw, hdegraded]

theorem takeDoubt_doubts {x : Sighting} {s : State} (h : ¬Exempt x s) {id : Nat} {r : Rec} (hr : findRec s id = some r) :
    takeDoubt id x s = if r.doubt = 1 then
        let u := modRec id (fun y => { y with
          doubt := 2, doubtful := true, dest := if y.role = .order then some 0 else y.dest }) s
        if r.role = .order then notify (.doubt r.tote r.ref x.station) u else u
      else modRec id (fun y => { y with doubt := satInc 2 y.doubt }) s := by
  cases hw : vget s.sgt.windows x.station none with
  | none => simp [takeDoubt, hw, hr]
  | some w =>
      have hno : ¬(x.source = .reader ∧ w.degraded = true) := fun hd => h ⟨hd.1, w, hw, hd.2⟩
      simp [takeDoubt, hw, hr, hno]

theorem works_takeDoubt {x : Sighting} {s : State} (h : ¬Exempt x s) (id : Nat) :
    Works id Rec.Doubting 1 s (takeDoubt id x s) := by
  cases hr : findRec s id with
  | none =>
      have heq : takeDoubt id x s = s := by
        unfold takeDoubt
        simp [hr]
      rw [heq]
      exact Works.absent hr
  | some r =>
      rw [takeDoubt_doubts h hr]
      split
      · next hd =>
        have hset : Works id Rec.Doubting 0 s (modRec id (fun y => { y with
            doubt := 2, doubtful := true, dest := if y.role = .order then some 0 else y.dest }) s) := by
          refine (works_modRec_kept (by exact fun _ => ⟨rfl, rfl, fun h => h⟩)).at hr ?_
          rintro b rfl
          exact ⟨rfl, ⟨by simp [hd], by simp [hd]⟩, fun _ => rfl⟩
        dsimp only
        split
        · refine (hset.comp ((framed_notify ..).works (records_notify ..) id)).mono (by omega) ?_
          rintro a b ⟨c, hc, hb⟩
          have hspot := hc.spot
          have hdoubt := hc.doubt
          have hdest := hc.dest
          simp only [Rec.Same, Rec.unmarked, Rec.mk.injEq] at hb
          simp only [Prod.mk.injEq] at hspot
          exact ⟨by simp only [hb, hspot], by simpa only [hb] using hdoubt, by simpa only [hb] using hdest⟩
        · exact hset.mono (by omega) fun h => h
      · next hd =>
        refine ((works_modRec_kept (by exact fun _ => ⟨rfl, rfl, fun h => h⟩)).at hr ?_).mono (by omega) fun h => h
        rintro b rfl
        exact ⟨rfl, ⟨satInc_eq_min .., by simp [hd]⟩, fun h => absurd h hd⟩

/-- A record that a NOREAD has found (R54, R55). -/
structure Rec.Unread (exempt : Prop) (l : Nat) (d : Int) (r r' : Rec) : Prop where
  kept   : (r'.tote, r'.len) = (r.tote, r.len)
  place  : (r.anchor - d - r'.anchor) % l = 0
  riding : r'.st = .riding ∧ r'.missed = 0
  spared : exempt → r'.doubt = r.doubt ∧ r'.doubtful = r.doubtful
  doubt  : ¬exempt → r'.doubt = min 2 (r.doubt + 1) ∧ r'.doubtful = (r.doubtful || decide (r.doubt = 1)) ∧
    (r.doubt = 1 → r.role = .order → r'.dest = some 0)

theorem works_matchNoread (id : Nat) (d : Int) (x : Sighting) (s : State) :
    Works id (Rec.Unread (Exempt x s) s.params.loopLen d) 6 s (matchNoread id d x s) := by
  let a := handOver id s
  let b := takeDoubt id x a
  let c := matchDeadline id x.point x.stamp b
  have hsa := works_handOver id s
  have hexempt : Exempt x a ↔ Exempt x s := by
    unfold Exempt
    rw [hsa.sgt]
  have hbc := works_matchDeadline id x.point x.stamp b
  have hct := works_correct id d c
  by_cases hex : Exempt x s
  · have hab : b = a := takeDoubt_exempt (hexempt.mpr hex) id
    rw [hab] at hbc
    have hsc := hsa.comp hbc
    have hcore : c.core = s.core := by
      show (matchDeadline id x.point x.stamp b).core = _
      rw [hab]
      exact hsc.core
    rw [params_of_core hcore] at hct
    have hall := hsc.comp (u := matchNoread id d x s) (R' := Rec.Corrected s.params.loopLen d) (k := 1) (by
      rw [← hab]
      exact hct)
    refine hall.mono (by omega) ?_
    rintro r r' ⟨r2, ⟨r1, h1, h2⟩, h3⟩
    have s1 := h1.spot
    have s2 := h2.spot
    have s3 := h3.spot
    have hplace := h3.place
    simp only [Prod.mk.injEq] at s1 s2 s3
    refine ⟨by simp only [s1, s2, s3], ?_, ?_, fun _ => by simp only [s1, s2, s3, and_self], fun hno => absurd hex hno⟩
    · have hanchor : r2.anchor = r.anchor := by simp only [s1, s2]
      rwa [hanchor] at hplace
    · simp only [s3, h2.riding, and_self]
  · have hab := works_takeDoubt (mt hexempt.mp hex) id
    have hsc := (hsa.comp hab).comp hbc
    rw [params_of_core hsc.core] at hct
    refine (hsc.comp hct).mono (by omega) ?_
    rintro r r' ⟨r3, ⟨r2, ⟨r1, h1, h2⟩, h3⟩, h4⟩
    have s1 := h1.spot
    have s2 := h2.spot
    have s3 := h3.spot
    have s4 := h4.spot
    have hdoubt := h2.doubt
    have hdest := h2.dest
    have hplace := h4.place
    simp only [Prod.mk.injEq] at s1 s2 s3 s4
    refine ⟨by simp only [s1, s2, s3, s4], ?_, ?_, fun h => absurd h hex, fun _ => ?_⟩
    · have hanchor : r3.anchor = r.anchor := by simp only [s1, s2, s3]
      rwa [hanchor] at hplace
    · simp only [s4, h3.riding, and_self]
    · simp only [s4, s3, hdoubt, s1, true_and]
      intro hone horder
      rw [hdest (by simp only [s1, hone])]
      split
      · rfl
      · next hrole => exact h1.dest.resolve_left fun h => hrole (h.trans horder)

/-- The doubt that a NOREAD raises to 2 is told, where the record is not handed over (R55). -/
theorem toldAfter_matchNoread {id : Nat} {d : Int} {x : Sighting} {s : State} {r : Rec} (h : ¬Exempt x s)
    (hr : findRec s id = some r) (hone : r.doubt = 1) (hrole : r.role = .order) (hst : r.st ≠ .verifying) :
    ToldAfter 0 (.doubt r.tote r.ref x.station) s (matchNoread id d x s) := by
  have htake : ToldAfter 0 (.doubt r.tote r.ref x.station) s (takeDoubt id x s) := by
    rw [takeDoubt_doubts h hr, if_pos hone]
    dsimp only
    rw [if_pos hrole]
    exact (toldAfter_notify _ _).before (j := 0) (.of_eq rfl rfl)
  unfold matchNoread
  rw [handOver_eq hr hst]
  exact (htake.later (works_matchDeadline id x.point x.stamp _).told).later (works_correct id d _).told

/-! ## A jump -/

/-- A record that a sighting has put at its point (R32). -/
structure Rec.Relocated (l : Nat) (stamp : Int) (p : Nat) (r r' : Rec) : Prop where
  kept   : (r'.tote, r'.doubt, r'.doubtful) = (r.tote, r.doubt, r.doubtful)
  place  : (stamp - p - r'.anchor) % l = 0
  riding : r'.st = .riding ∧ r'.missed = 0

/-- A record has jumped in the step from `s` to `t` (R32). -/
structure Jumped (id : Nat) (r : Rec) (stamp : Int) (p station : Nat) (s t : State) : Prop extends Framed 6 s t where
  jumps : t.trk.jumps = satInc 65535 s.trk.jumps
  found : ∃ r', findRec t id = some r' ∧ Rec.Relocated s.params.loopLen stamp p r r'
  tells : ToldAfter 4 (.jump r.tote station ((stamp - r.anchor) % s.params.loopLen).toNat p) s t

/-- The jumps counted (R32). -/
def State.jumped (s : State) : State := s.setTrk { s.trk with jumps := satInc counterMax s.trk.jumps }

theorem framed_jumped (s : State) : Framed 0 s s.jumped :=
  ⟨rfl, rfl, fun h => h, rfl, .of_eq rfl rfl, fun h =>
    ⟨inv_setTrk h ⟨h.trk.size, h.trk.hole, h.trk.totes, h.trk.ids, h.trk.given⟩, rfl⟩⟩

theorem findRec_jumped (s : State) (id : Nat) : findRec s.jumped id = findRec s id := rfl

theorem jumps_jumped (s : State) : s.jumped.trk.jumps = satInc 65535 s.trk.jumps := rfl

theorem jumped_relocate {id : Nat} {r : Rec} {s : State} (hr : findRec s id = some r) (stamp : Int) (p station : Nat) :
    Jumped id r stamp p station s (relocate id stamp p station s) := by
  let a := handOver id s
  let b := reseat id (normAnchor a (stamp - p)) a
  let c := matchDeadline id p stamp (detach id b).st
  let n : Notice := .jump r.tote station (onLoop s.params.loopLen (stamp - r.anchor)).toNat p
  let e := notify n c.jumped
  let t := shadowRecheck id (finishDetach [id] (detach id b) (listChange e))
  have ht : relocate id stamp p station s = t := by
    unfold relocate
    rw [hr]
    rfl
  have hsa := works_handOver id s
  have hplace := anchor_mod a (stamp - p)
  rw [params_of_core hsa.core] at hplace
  have hsb := hsa.comp (works_reseat id (normAnchor a (stamp - p)) a)
  have hsc := (hsb.comp ((framed_detach id b).works (records_detach ..) id)).comp
    (works_matchDeadline id p stamp (detach id b).st)
  have het : Framed 1 e t := ((framed_listChange e).trans (framed_finishDetach ..)).trans (framed_shadowRecheck ..)
  have hrecords : t.records = c.jumped.records := by
    have h1 : t.records = e.records := by simp [t]
    exact h1.trans (records_notify n c.jumped)
  have hlater : Framed 2 c.jumped t := (framed_notify n c.jumped).trans het
  obtain ⟨r', hr', r3, ⟨r2, ⟨r1, h1, rfl⟩, h2⟩, h3⟩ := hsc.found r hr
  obtain ⟨r'', hr'', hsame⟩ := (hlater.works hrecords id).found r' ((findRec_jumped c id).trans hr')
  rw [ht]
  refine ⟨((hsc.toFramed.trans (framed_jumped c)).trans hlater).mono (by omega), ?_, ⟨r'', hr'', ?_⟩, ?_⟩
  · rw [jumps_of_records hrecords, jumps_jumped, hsc.jumps]
  · have s1 := h1.spot
    have s2 := h2.turned.spot
    have s3 := h3.spot
    have s4 := hsame.turned.spot
    simp only [Prod.mk.injEq] at s1 s2 s3 s4
    refine ⟨by simp only [s1, s2, s3, s4], ?_, by simp only [s4, h3.riding, and_self]⟩
    have hanchor : r''.anchor = normAnchor a (stamp - p) := by simp only [s4, s3, s2]
    rw [hanchor]
    exact hplace
  · have htold : ToldAfter 0 n c.jumped e := toldAfter_notify n _
    have hbefore := (htold.later het.told).before ((hsc.toFramed.trans (framed_jumped c)).told.mono (k := 4) (by omega))
    exact hbefore

end Sys2Proof.Machine
end

section
/-! PROOFS. The nearest record, the place of a record, and the record that an insertion brings (O22, O30). -/

namespace Sys2Proof.Machine

/-! ## Places -/

theorem circ_mod (l : Nat) (x : Int) : (x - circ l x) % l = 0 := by
  have h : x - circ l x = l * ((x + (l / 2 : Nat)) / l) := by
    rw [circ, Int.emod_def]
    ring
  rw [h, Int.mul_emod_right]

/-- A record corrected by its difference to the sighting stands at the sighting's point. -/
theorem place_of_diff {s : State} {x : Sighting} {r : Rec} {a : Int} (h : (r.anchor - diffAt s x r - a) % s.params.loopLen = 0) :
    (x.stamp - a - x.point) % s.params.loopLen = 0 := by
  have hdiff := Int.dvd_of_emod_eq_zero (circ_mod s.params.loopLen (x.point - (x.stamp - r.anchor)))
  have hplace := Int.dvd_of_emod_eq_zero h
  refine Int.emod_eq_zero_of_dvd ?_
  have hsplit : x.stamp - a - x.point = (r.anchor - diffAt s x r - a) -
      (x.point - (x.stamp - r.anchor) - circ s.params.loopLen (x.point - (x.stamp - r.anchor))) := by
    rw [diffAt]
    ring
  rw [hsplit]
  exact Int.dvd_sub hplace hdiff

theorem Rec.Read.atPoint {s : State} {x : Sighting} {r r' : Rec} (h : Rec.Read s.params.loopLen (diffAt s x r) r r') :
    AtPoint s x r' := ⟨place_of_diff h.place, h.riding.1, h.riding.2⟩

/-! ## The record of a number -/

/-- A number names one record. -/
theorem TrkOk.named {x : Trk} (h : TrkOk x) {r r' : Rec} {n : Nat} (hr : r ∈ x.list) (hr' : r' ∈ x.list)
    (hn : r.tote = some n) (hn' : r'.tote = some n) : r' = r := by
  have hnodup := ((h.split hr).filterMap (·.tote)).nodup_iff.mp h.totes
  simp only [List.filterMap_cons, hn, List.nodup_cons] at hnodup
  obtain ⟨hfresh, _⟩ := hnodup
  by_contra hne
  have hid : r'.id ≠ r.id := fun e => hne (h.unique hr' hr e)
  exact hfresh (List.mem_filterMap.mpr ⟨r', List.mem_filter.mpr ⟨hr', by simpa using hid⟩, hn'⟩)

theorem carrier_of_mem {s : State} (h : TrkOk s.trk) {r : Rec} {n : Nat} (hr : r ∈ s.trk.list) (hn : r.tote = some n) :
    carrier s n = some r := by
  cases hc : carrier s n with
  | none => exact absurd (List.mem_filterMap.mpr ⟨r, hr, hn⟩) (carrier_none hc)
  | some y =>
      obtain ⟨hy, hyn⟩ := carrier_mem hc
      rw [h.named hr hy hn hyn]

theorem carrier_of_findRec {s : State} (h : TrkOk s.trk) {id n : Nat} {r : Rec} (hr : findRec s id = some r)
    (hn : r.tote = some n) : carrier s n = some r ∧ r.id = id := by
  obtain ⟨hmem, hid⟩ := findRec_mem hr
  exact ⟨carrier_of_mem h hmem hn, hid⟩

/-! ## The nearest record -/

/-- The better of two records, the first kept where both are equally near (R52, R54). -/
def nearer (s : State) (x : Sighting) (best : Option Rec) (r : Rec) : Option Rec :=
  match best with
  | some b => if (diffAt s x r).natAbs < (diffAt s x b).natAbs then some r else best
  | none => some r

/-- A tote record with a property lies within W of a sighting (R49). -/
def near (s : State) (x : Sighting) (p : Rec → Bool) (r : Rec) : Bool := r.isTote && p r && within s x s.params.window r

theorem nearest_eq (s : State) (x : Sighting) (p : Rec → Bool) :
    nearest s x p = (s.trk.list.filter (near s x p)).foldl (nearer s x) none := rfl

theorem nearer_before {s : State} {x : Sighting} {r : Rec} (l : List Rec)
    (h : ∀ y ∈ l, (diffAt s x r).natAbs < (diffAt s x y).natAbs) (best : Option Rec)
    (hb : ∀ b, best = some b → (diffAt s x r).natAbs < (diffAt s x b).natAbs) :
    ∀ b, l.foldl (nearer s x) best = some b → (diffAt s x r).natAbs < (diffAt s x b).natAbs := by
  induction l generalizing best with
  | nil => exact hb
  | cons y l ih =>
      refine ih (fun z hz => h z (List.mem_cons_of_mem _ hz)) (nearer s x best y) fun b hbest => ?_
      have hy := h y List.mem_cons_self
      cases best with
      | none => exact Option.some.inj hbest ▸ hy
      | some c =>
          simp only [nearer] at hbest
          split at hbest
          · exact Option.some.inj hbest ▸ hy
          · exact hb b hbest

theorem nearer_after {s : State} {x : Sighting} {r : Rec} (l : List Rec)
    (h : ∀ y ∈ l, (diffAt s x r).natAbs ≤ (diffAt s x y).natAbs) : l.foldl (nearer s x) (some r) = some r := by
  induction l with
  | nil => rfl
  | cons y l ih =>
      have hy : nearer s x (some r) y = some r := if_neg (Nat.not_lt.mpr (h y List.mem_cons_self))
      rw [List.foldl_cons, hy]
      exact ih fun z hz => h z (List.mem_cons_of_mem _ hz)

theorem near_iff {s : State} {x : Sighting} {p : Rec → Prop} {q : Rec → Bool} (hq : ∀ r, q r = true ↔ p r) (r : Rec) :
    near s x q r = true ↔ Near s x p r := by
  simp [near, Rec.isTote, within, Near, hq, and_assoc]

theorem nearest_of_nearest {s : State} {x : Sighting} {p : Rec → Prop} {q : Rec → Bool} (hq : ∀ r, q r = true ↔ p r)
    {r : Rec} (h : Nearest s x p r) : nearest s x q = some r := by
  obtain ⟨hr, pre, post, hlist, hpre, hpost⟩ := h
  rw [nearest_eq, hlist, List.filter_append, List.filter_cons_of_pos (p := near s x q) ((near_iff hq r).mpr hr),
    List.foldl_append, List.foldl_cons]
  have hbefore := nearer_before (s := s) (x := x) (r := r) (pre.filter (near s x q))
    (fun y hy => by
      obtain ⟨hmem, hnear⟩ := List.mem_filter.mp hy
      exact hpre y hmem ((near_iff hq y).mp hnear)) none (by simp)
  have hhit : nearer s x ((pre.filter (near s x q)).foldl (nearer s x) none) r =
      some r := by
    cases hbest : (pre.filter (near s x q)).foldl (nearer s x) none with
    | none => rfl
    | some b => exact if_pos (hbefore b hbest)
  rw [hhit]
  refine nearer_after _ fun y hy => ?_
  obtain ⟨hmem, hnear⟩ := List.mem_filter.mp hy
  exact hpost y hmem ((near_iff hq y).mp hnear)

theorem nearest_none {s : State} {x : Sighting} {p : Rec → Prop} {q : Rec → Bool} (hq : ∀ r, q r = true ↔ p r)
    (h : ∀ r ∈ s.trk.list, ¬Near s x p r) : nearest s x q = none := by
  have hnil : (s.trk.list.filter (near s x q)) = [] :=
    List.filter_eq_nil_iff.mpr fun r hr => mt (near_iff hq r).mp (h r hr)
  rw [nearest_eq, hnil]
  rfl

end Sys2Proof.Machine
end

section
/-! PROOFS. The record that an insertion brings, for every request but that of a hole (O22, O30). -/

namespace Sys2Proof.Machine

/-! ## The checks of a request -/

/-- The record of a request, before the checks (R25). -/
def InsertReq.fresh (q : InsertReq) (s : State) : Rec := q.record s.trk.nextId (normAnchor s (q.stamp - q.point))

/-- The state, the record and the answer that the checks of a request give (R24, R26). -/
def InsertReq.settled (q : InsertReq) (s : State) : State × Rec × Answer := settleNew q (q.fresh s) s

/-- The list with the settled record seated, before its deadline and its plan (R17). -/
def InsertReq.placed (q : InsertReq) (s : State) : State :=
  (q.settled s).1.setTrk { (q.settled s).1.trk with
    list := seatIn (q.settled s).2.1 (q.settled s).1.trk.list, nextId := s.trk.nextId + 1 }

theorem linkNew_rest (q : InsertReq) (r : Rec) (n : Nat) (s : State) :
    (linkNew q r n s).1 = { s with ord := (linkNew q r n s).1.ord, ntq := (linkNew q r n s).1.ntq } := by
  unfold linkNew
  split
  · split
    · rfl
    · dsimp only
      split
      · dsimp only
        rw [notify_rest]
        rfl
      · rfl
  · rfl

theorem settled_rest (q : InsertReq) (s : State) :
    (q.settled s).1 = { s with ord := (q.settled s).1.ord, ntq := (q.settled s).1.ntq } := by
  unfold InsertReq.settled settleNew
  split
  · rfl
  · split
    · rfl
    · split
      · exact linkNew_rest ..
      · rfl

/-- The list holds the settled record and every record that it held (R17). -/
theorem placed_perm (q : InsertReq) {s : State} (h : BlockInv s) :
    (q.placed s).trk.list.Perm ((q.settled s).2.1 :: s.trk.list) := by
  obtain ⟨_, htrk, hid, _⟩ := settleNew_spec q (q.fresh s) s h rfl rfl
  have hfresh : ∀ x ∈ s.trk.list, x.id ≠ (q.settled s).2.1.id := fun x hx => by
    rw [InsertReq.settled, hid]
    exact Nat.ne_of_lt (h.trk.given x hx)
  have hlist : (q.placed s).trk.list = seatIn (q.settled s).2.1 s.trk.list := by
    show seatIn _ (q.settled s).1.trk.list = _
    rw [InsertReq.settled, htrk]
  rw [hlist]
  refine (seatIn_perm ..).trans (List.Perm.of_eq ?_)
  rw [List.filter_eq_self.mpr fun x hx => decide_eq_true (hfresh x hx)]

theorem insertRec_full {s : State} (h : 96 ≤ s.trk.list.length) (q : InsertReq) : insertRec q s = (s, .full, none) := if_pos h

theorem insertRec_room {q : InsertReq} (hq : q.role ≠ .hole) {s : State} (hroom : s.trk.list.length < 96) :
    insertRec q s = (shadowRecheck s.trk.nextId (planReq s.trk.nextId (listChange
      (loadDeadline s.trk.nextId q.point q.stamp s.params.window (q.placed s)))), (q.settled s).2.2, some s.trk.nextId) := by
  unfold insertRec
  dsimp only
  rw [if_neg (by simpa [Config.maxRecords] using hroom), if_neg (by simp [hq]), if_neg hq]
  rfl

/-! ## The record that enters -/

/-- A record without its marks of plans and its deadline. -/
def Rec.bare (r : Rec) : Rec := { r with refusal := .none, watch := none, deadline := none, expected := none }

theorem Rec.bare_unmarked (r : Rec) : r.unmarked.bare = r.bare := rfl

theorem bare_loadDeadline (id p : Nat) (x : Int) (w : Nat) (s : State) :
    (loadDeadline id p x w s).trk.list.map Rec.bare = s.trk.list.map Rec.bare := by
  have hmod (f : Rec → Rec) (hf : ∀ r, (f r).bare = r.bare) :
      (modRec id f s).trk.list.map Rec.bare = s.trk.list.map Rec.bare := by
    simp only [modRec, State.setTrk_fields, List.map_map]
    refine List.map_congr_left fun r _ => ?_
    simp only [Function.comp_apply]
    split
    · exact hf r
    · rfl
  unfold loadDeadline
  split
  · exact hmod _ (by exact fun _ => rfl)
  · exact hmod _ (by exact fun _ => rfl)

/-- The record of a request has entered in the step from `s` to `t`: what the checks made of it, of its entry and of the
notices, and one list change (R24 to R27). -/
structure Entered (q : InsertReq) (s t : State) : Prop where
  core   : t.core = s.core
  ord    : t.ord = (q.settled s).1.ord
  sgt    : t.sgt = s.sgt
  ind    : t.indBook = s.indBook
  told   : Appends 1 (q.settled s).1 t
  ready  : ReadyAnew 0 (q.settled s).1 t
  blocks : BlockInv s → BlockInv t ∧ t.trk.list.length = s.trk.list.length + 1 ∧
    ∃ r ∈ t.trk.list, r.bare = (q.settled s).2.1.bare

theorem entered_insertRec {q : InsertReq} (hq : q.role ≠ .hole) {s : State} (hroom : s.trk.list.length < 96) :
    Entered q s (insertRec q s).1 := by
  let z := (q.settled s).1
  let r := (q.settled s).2.1
  let a := q.placed s
  let b := loadDeadline s.trk.nextId q.point q.stamp s.params.window a
  let c := listChange b
  let t := shadowRecheck s.trk.nextId (planReq s.trk.nextId c)
  have ht : (insertRec q s).1 = t := congrArg Prod.fst (insertRec_room hq hroom)
  have hplan : t.planCore = c.planCore := (planCore_shadowRecheck ..).trans (planCore_planReq ..)
  have hrecords : t.records = c.records := (records_shadowRecheck ..).trans (records_planReq ..)
  have heq := eq_of_planCore hplan
  have hc : c = _ := listChange_rest b
  have hb : b = { a with trk := b.trk } := loadDeadline_rest ..
  have ha : a = { z with trk := a.trk } := rfl
  have hz : z = _ := settled_rest q s
  have hzb : Appends 0 z b := by
    rw [hb, ha]
    exact .of_eq rfl rfl
  have hbind : b.ind = z.ind := by rw [hb, ha]
  have hzind : z.ind = s.ind := by rw [hz]
  have hbare : t.trk.list.map Rec.bare = a.trk.list.map Rec.bare := by
    have htc : t.trk.list.map Rec.bare = c.trk.list.map Rec.bare := map_of_records Rec.bare_unmarked hrecords
    rw [htc, hc]
    exact bare_loadDeadline ..
  refine ⟨core_insertRec .., ?_, ?_, ?_, ?_, ?_, fun h => ⟨inv_insertRec h, ?_, ?_⟩⟩
  all_goals rw [ht]
  · rw [heq, hc, hb, ha]
  · rw [heq, hc, hb, ha, hz]
  · have hct : t.indBook = c.indBook := indBook_of_ind (by rw [heq])
    rw [hct, indBook_listChange, indBook_of_ind hbind, indBook_of_ind hzind]
  · exact (hzb.trans (appends_listChange b)).trans (appends_planCore hplan)
  · exact ((readyAnew_listChange b).before hzb (congrArg Ind.ready hbind)).planned hplan hrecords
  · have hlen := congrArg List.length hbare
    simp only [List.length_map] at hlen
    rw [hlen, (placed_perm q h).length_eq, List.length_cons]
  · obtain ⟨x, hx, hsame⟩ := List.mem_map.mp (hbare.symm ▸ List.mem_map_of_mem ((placed_perm q h).mem_iff.mpr List.mem_cons_self))
    exact ⟨x, hx, hsame⟩

/-! ## What the checks make of a request -/

theorem settled_return {q : InsertReq} (hq : q.role = .ret) {s : State} (hfree : ∀ n, q.tote = some n → carrier s n = none) :
    q.settled s = (s, q.fresh s, .taken) := by
  unfold InsertReq.settled settleNew
  split
  · rfl
  · next n hn => simp [hfree n hn, hq]

theorem settled_duplicate {q : InsertReq} (hq : q.role = .order) {s : State} {n : Nat} (hn : q.tote = some n)
    (hc : (carrier s n).isSome) :
    q.settled s = (s, { q.fresh s with tote := none, role := .ret, reason := .stray }, .duplicate) := by
  simp [InsertReq.settled, settleNew, hn, hc, hq]

/-- A request for an ORDER record whose number no record carries is settled by the entry of the number (R26). -/
theorem settled_order {q : InsertReq} (hq : q.role = .order) {s : State} {n : Nat} (hn : q.tote = some n)
    (hc : carrier s n = none) : q.settled s = linkNew q (q.fresh s) n s := by
  simp [InsertReq.settled, settleNew, hn, hc, hq]

theorem settled_stray {q : InsertReq} (hq : q.role = .order) {s : State} {n : Nat} (hn : q.tote = some n)
    (hc : carrier s n = none) (he : findEntry s n = none) :
    q.settled s = (s, { q.fresh s with role := .ret, reason := .stray }, .stray) := by
  simp [settled_order hq hn hc, linkNew, he]

/-- The measured length of a request is above the maximum of a lane (R78). -/
def InsertReq.TooLong (q : InsertReq) (s : State) (e : Entry) : Prop :=
  q.measured = true ∧ (laneOf s e.lane).cfg.maxLen < q.len

theorem settled_tooLong {q : InsertReq} (hq : q.role = .order) {s : State} {n : Nat} (hn : q.tote = some n)
    (hc : carrier s n = none) {e : Entry} (he : findEntry s n = some e) (hst : e.st ≠ .riding) (hlong : q.TooLong s e) :
    q.settled s = (notify (.size (some n) e.ref e.lane q.len (laneOf s e.lane).cfg.maxLen) (setEntryState n .waiting s),
      { q.fresh s with role := .ret, reason := .size, ref := e.ref }, .taken) := by
  obtain ⟨hmeasured, hlen⟩ := hlong
  simp [settled_order hq hn hc, linkNew, he, hst, hmeasured, hlen]

theorem settled_rides {q : InsertReq} (hq : q.role = .order) {s : State} {n : Nat} (hn : q.tote = some n)
    (hc : carrier s n = none) {e : Entry} (he : findEntry s n = some e) (hst : e.st ≠ .riding) (hfits : ¬q.TooLong s e) :
    q.settled s = (setEntryState n .riding s, { q.fresh s with dest := some e.lane, ref := e.ref }, .taken) := by
  have hfits' : ¬(q.measured = true ∧ (laneOf s e.lane).cfg.maxLen < q.len) := hfits
  simp [settled_order hq hn hc, linkNew, he, hst, hfits']

/-! ## Where and how the record enters -/

/-- A record has entered under a fresh handle, RIDING at the point of its request, with the length of the request (R25). -/
structure Rec.Fresh (q : InsertReq) (s : State) (r : Rec) : Prop where
  id     : r.id = s.trk.nextId
  place  : (q.stamp - q.point - r.anchor) % s.params.loopLen = 0
  len    : r.len = q.len
  laps   : r.laps = 0
  riding : r.st = .riding ∧ r.missed = 0

theorem Rec.Fresh.of_bare {q : InsertReq} {s : State} {r y : Rec} (h : r.bare = y.bare)
    (hy : (y.id, y.anchor, y.len, y.laps, y.st, y.missed) =
      ((q.fresh s).id, (q.fresh s).anchor, (q.fresh s).len, (q.fresh s).laps, (q.fresh s).st, (q.fresh s).missed)) :
    Rec.Fresh q s r := by
  simp only [Rec.bare, Rec.mk.injEq] at h
  simp only [Prod.mk.injEq] at hy
  obtain ⟨hid, hanchor, hlen, hlaps, hst, hmissed⟩ := hy
  refine ⟨by simp only [h, hid]; rfl, ?_, by simp only [h, hlen]; rfl, by simp only [h, hlaps]; rfl, by simp only [h, hst]; rfl,
    by simp only [h, hmissed]; rfl⟩
  have hplace : r.anchor = normAnchor s (q.stamp - q.point) := by
    simp only [h, hanchor]
    rfl
  rw [hplace]
  exact anchor_mod s (q.stamp - q.point)

/-- A record of role RETURN stands for the request, with a reason, for the return line (R24, R78). -/
structure Rec.Sent (why : Reason) (r : Rec) : Prop where
  role   : r.role = .ret
  reason : r.reason = why
  dest   : r.dest = some 0

theorem Entered.returned {q : InsertReq} (hq : q.role = .ret) {s t : State} (h : Entered q s t) (hb : BlockInv s)
    (hfree : ∀ n, q.tote = some n → carrier s n = none) :
    t.ord = s.ord ∧ Appends 1 s t ∧ ∃ r ∈ t.trk.list, Rec.Fresh q s r ∧ r.tote = q.tote ∧ r.Sent q.reason := by
  have hsettled := settled_return hq hfree
  obtain ⟨_, _, r, hr, hbare⟩ := h.blocks hb
  have hord := h.ord
  have htold := h.told
  rw [hsettled] at hbare hord htold
  refine ⟨hord, htold, r, hr, .of_bare hbare rfl, ?_, ?_⟩
  all_goals simp only [Rec.bare, InsertReq.fresh, InsertReq.record, hq, Rec.mk.injEq] at hbare
  · simp only [hbare]
  · exact ⟨by simp only [hbare], by simp only [hbare], by simp [hbare]⟩

/-- The record has adopted the entry `e` of its number in the step from `s` to `t` (R26, R77, R78). -/
structure Adopted (q : InsertReq) (n : Nat) (e : Entry) (s t : State) (r : Rec) : Prop where
  fresh : Rec.Fresh q s r
  named : r.tote = some n ∧ r.ref = e.ref
  rides : ¬q.TooLong s e → r.role = .order ∧ r.dest = some e.lane ∧ findEntry t n = some { e with st := .riding }
  turns : q.TooLong s e → r.Sent .size ∧ findEntry t n = some { e with st := .waiting } ∧
    ToldAfter 0 (.size (some n) e.ref e.lane q.len (laneOf s e.lane).cfg.maxLen) s t

theorem Entered.adopted {q : InsertReq} (hq : q.role = .order) {s t : State} (h : Entered q s t) (hb : BlockInv s) {n : Nat}
    (hn : q.tote = some n) (hc : carrier s n = none) {e : Entry} (he : findEntry s n = some e) (hst : e.st ≠ .riding) :
    ∃ r ∈ t.trk.list, Adopted q n e s t r := by
  obtain ⟨_, _, r, hr, hbare⟩ := h.blocks hb
  have hord := h.ord
  have htold := h.told
  refine ⟨r, hr, ?_⟩
  by_cases hlong : q.TooLong s e
  · rw [settled_tooLong hq hn hc he hst hlong] at hbare hord htold
    have hfresh : Rec.Fresh q s r := .of_bare hbare rfl
    simp only [Rec.bare, InsertReq.fresh, InsertReq.record, hq, hn, Rec.mk.injEq] at hbare
    refine ⟨hfresh, by simp only [hbare, and_self], fun hno => absurd hlong hno, fun _ => ⟨⟨?_, ?_, ?_⟩, ?_, ?_⟩⟩
    · simp only [hbare]
    · simp only [hbare]
    · simp [hbare]
    · have hentry : t.ord = (setEntryState n .waiting s).ord := by
        rw [hord, notify_rest]
      rw [findEntry_of_ord hentry]
      exact findEntry_setEntryState_same he _
    · exact ((toldAfter_notify _ (setEntryState n .waiting s)).later htold).before (j := 0) (.of_eq rfl rfl)
  · rw [settled_rides hq hn hc he hst hlong] at hbare hord
    have hfresh : Rec.Fresh q s r := .of_bare hbare rfl
    simp only [Rec.bare, InsertReq.fresh, InsertReq.record, hq, hn, Rec.mk.injEq] at hbare
    refine ⟨hfresh, by simp only [hbare, and_self], fun _ => ⟨by simp only [hbare], by simp only [hbare], ?_⟩,
      fun h => absurd h hlong⟩
    rw [findEntry_of_ord hord]
    exact findEntry_setEntryState_same he _

/-- With no entry, and with a record that carries the number, the request becomes a STRAY (R24, R26). -/
theorem Entered.strayed {q : InsertReq} {s t : State} (h : Entered q s t) (hb : BlockInv s) {tote : Option Nat} {a : Answer}
    (hsettled : q.settled s = (s, { q.fresh s with tote := tote, role := .ret, reason := .stray }, a)) (hq : q.role = .order) :
    t.ord = s.ord ∧ Appends 1 s t ∧ ReadyAnew 0 s t ∧
      ∃ r ∈ t.trk.list, Rec.Fresh q s r ∧ r.tote = tote ∧ r.Sent .stray := by
  obtain ⟨_, _, r, hr, hbare⟩ := h.blocks hb
  have hord := h.ord
  have htold := h.told
  have hready := h.ready
  rw [hsettled] at hbare hord htold hready
  refine ⟨hord, htold, hready, r, hr, .of_bare hbare rfl, ?_, ?_⟩
  all_goals simp only [Rec.bare, InsertReq.fresh, InsertReq.record, hq, Rec.mk.injEq] at hbare
  · simp only [hbare]
  · exact ⟨by simp only [hbare], by simp only [hbare], by simp [hbare]⟩

end Sys2Proof.Machine
end

section
/-! PROOFS. RELEASED with a release outstanding (O30). -/

namespace Sys2Proof.Machine

/-! ## The confirmation -/

/-- IND with the release confirmed (R145). -/
def State.confirmed (s : State) : State := s.setInd { s.ind with outstanding := none }

/-- The insertion that a confirmed release asks for (R145). -/
def Release.req (o : Release) (stamp : Nat) : InsertReq := ⟨.order, .none, 0, stamp, some o.tote, o.len, true⟩

/-- What follows TRK's answer: its notice, and the READY examined again (R139, R145). -/
def State.answeredRelease (o : Release) (a : Answer) (u : State) : State := runIdle (reexamine (confirmAnswer o a u))

theorem takeReleased_held {s : State} {o : Release} (h : s.ind.outstanding = some o) (stamp : Nat) :
    takeReleased stamp s =
      State.answeredRelease o (insertRec (o.req stamp) s.confirmed).2.1 (insertRec (o.req stamp) s.confirmed).1 := by
  unfold takeReleased
  rw [h]
  rfl

/-- The answer counts the record with the strays (R145). -/
def Answer.counts (a : Answer) : Prop := a = .stray ∨ a = .duplicate

/-- The notice that an answer to a release brings (R145). -/
def Answer.releaseNotice (o : Release) (station : Nat) : Answer → Option Notice
  | .stray => some (.stray (some o.tote) station 0)
  | .duplicate => some (.duplicate (some o.tote) o.len .confirm)
  | .full => some (.untracked (some o.tote) station 0)
  | .taken | .holePresent => none

theorem confirmAnswer_rest (o : Release) (a : Answer) (s : State) :
    confirmAnswer o a s = { s with sgt := (confirmAnswer o a s).sgt, ntq := (confirmAnswer o a s).ntq } := by
  unfold confirmAnswer
  split
  · rw [notify_rest]
    rfl
  · rw [notify_rest]
    rfl
  · rw [notify_rest]
  all_goals rfl

theorem sgt_confirmAnswer (o : Release) (a : Answer) (s : State) :
    (a.counts → (confirmAnswer o a s).sgt = (countStray s).sgt) ∧ (¬a.counts → (confirmAnswer o a s).sgt = s.sgt) := by
  cases a <;> simp [Answer.counts, confirmAnswer, notify_eq]

theorem appends_countStray (s : State) : Appends 0 s (countStray s) := .of_eq rfl rfl

theorem appends_confirmAnswer (o : Release) (a : Answer) (s : State) : Appends 1 s (confirmAnswer o a s) := by
  have quiet : Appends 1 s s := Appends.mono (j := 0) (.of_eq rfl rfl) (Nat.zero_le _)
  cases a with
  | stray => exact (appends_countStray s).trans (appends_notify _ _)
  | duplicate => exact (appends_countStray s).trans (appends_notify _ _)
  | full => exact appends_notify _ s
  | taken => exact quiet
  | holePresent => exact quiet

theorem told_confirmAnswer {o : Release} {a : Answer} {s : State} {n : Notice}
    (h : a.releaseNotice o (indexOf s .induct) = some n) : ToldAfter 0 n s (confirmAnswer o a s) := by
  cases a with
  | stray =>
      obtain rfl := Option.some.inj h
      exact (toldAfter_notify _ _).before (appends_countStray s)
  | duplicate =>
      obtain rfl := Option.some.inj h
      exact (toldAfter_notify _ _).before (appends_countStray s)
  | full =>
      obtain rfl := Option.some.inj h
      exact toldAfter_notify _ s
  | taken => exact absurd h (by simp [Answer.releaseNotice])
  | holePresent => exact absurd h (by simp [Answer.releaseNotice])

/-- TRK's answer has been taken in the step from `u` to `t` (R139, R145). -/
structure AnswerTaken (o : Release) (a : Answer) (u t : State) : Prop where
  trk   : t.trk = u.trk
  ord   : t.ord = u.ord
  ind   : t.indBook = u.indBook
  count : a.counts → t.sgt = (countStray u).sgt
  kept  : ¬a.counts → t.sgt = u.sgt
  told  : Appends 2 u t
  tells : ∀ n, a.releaseNotice o (indexOf u .induct) = some n → ToldAfter 0 n u t
  ready : ReadyAnew 1 u t
  point : PointHeld t

theorem answerTaken (o : Release) (a : Answer) (u : State) : AnswerTaken o a u (u.answeredRelease o a) := by
  let v := confirmAnswer o a u
  let w := reexamine v
  let t := runIdle w
  have hv : v = _ := confirmAnswer_rest o a u
  obtain ⟨ready, release, hole, ntq, hw⟩ : ∃ ready release hole ntq, w = _ := reexamine_rest v
  have ht : t = _ := runIdle_rest w
  have hwt : Appends 0 w t := by
    rw [ht]
    exact .of_eq rfl rfl
  have hvt : Appends 1 v t := (appends_reexamine v).trans hwt
  obtain ⟨hcount, hkept⟩ := sgt_confirmAnswer o a u
  have hsgt : t.sgt = v.sgt := by rw [ht, hw]
  have huv : Appends 1 u v := appends_confirmAnswer o a u
  show AnswerTaken o a u t
  constructor
  case trk => rw [ht, hw, hv]
  case ord => rw [ht, hw, hv]
  case ind =>
    have htw : t.indBook = w.indBook := indBook_of_ind (by rw [ht])
    have hvu : v.indBook = u.indBook := indBook_of_ind (by rw [hv])
    rw [htw, indBook_reexamine, hvu]
  case count => exact fun h => hsgt.trans (hcount h)
  case kept => exact fun h => hsgt.trans (hkept h)
  case told => exact huv.trans hvt
  case tells => exact fun n hn => (told_confirmAnswer hn).later hvt
  case ready =>
    refine ((readyAnew_reexamine v).before huv (by rw [hv])).later hwt (records_of_trk ?_) ?_ ?_ ?_ <;> rw [ht]
  case point => exact pointHeld_runIdle (pointHeld_reexamine v)

/-! ## The clauses of the confirmation -/

/-- A release has been confirmed in the step from `s` to `t`, whatever TRK answers (R145). -/
structure ReleaseTaken (s t : State) : Prop where
  ind   : t.ind.outstanding = none ∧ t.ind.last = s.ind.last
  ready : ReadyExamined s t

theorem appends_confirmed (s : State) : Appends 0 s s.confirmed := .of_eq rfl rfl

theorem indBook_confirmed (s : State) : s.confirmed.indBook = (s.ind.last, none, s.ind.holeWait, s.ind.reject) := rfl

theorem AnswerTaken.taken {o : Release} {a : Answer} {k : Nat} {s u t : State} (h : AnswerTaken o a u t)
    (hind : u.indBook = s.confirmed.indBook) (hready : ReadyAnew k s.confirmed t) (hk : k < 16) : ReleaseTaken s t := by
  have hbook := (h.ind.trans hind).trans (indBook_confirmed s)
  simp only [State.indBook, Prod.mk.injEq] at hbook
  obtain ⟨hlast, hout, _⟩ := hbook
  have hanew := hready.before (appends_confirmed s) rfl
  exact ⟨⟨hout, hlast⟩, hanew.examined (by omega) h.point⟩

/-- The record of a confirmed release has entered in the step from `s` to `t`, at the origin at the frame's stamp (R145). -/
structure ReleaseEntered (o : Release) (stamp : Nat) (s t : State) : Prop where
  entered : Entered (o.req stamp) s.confirmed (insertRec (o.req stamp) s.confirmed).1
  taken   : AnswerTaken o ((o.req stamp).settled s.confirmed).2.2 (insertRec (o.req stamp) s.confirmed).1 t

theorem releaseEntered {s : State} {o : Release} (ho : s.ind.outstanding = some o) (hroom : s.trk.list.length < 96)
    (stamp : Nat) : ReleaseEntered o stamp s (takeReleased stamp s) := by
  have hrole : (o.req stamp).role ≠ .hole := by simp [Release.req]
  have hroom' : s.confirmed.trk.list.length < 96 := hroom
  have hanswer : (insertRec (o.req stamp) s.confirmed).2.1 = ((o.req stamp).settled s.confirmed).2.2 := by
    rw [insertRec_room hrole hroom']
  have htaken := answerTaken o (insertRec (o.req stamp) s.confirmed).2.1 (insertRec (o.req stamp) s.confirmed).1
  rw [takeReleased_held ho]
  refine ⟨entered_insertRec hrole hroom', ?_⟩
  rwa [hanswer] at htaken ⊢

theorem blocks_confirmed {s : State} (h : BlockInv s) : BlockInv s.confirmed := inv_setInd h

/-- The records of the list after the answer are those that the insertion has left. -/
theorem ReleaseEntered.listed {o : Release} {stamp : Nat} {s t : State} (h : ReleaseEntered o stamp s t) (hb : BlockInv s) :
    TrkOk t.trk ∧ t.trk.list.length = s.trk.list.length + 1 := by
  obtain ⟨hinv, hlen, _⟩ := h.entered.blocks (blocks_confirmed hb)
  rw [h.taken.trk]
  exact ⟨hinv.trk, hlen⟩

theorem ReleaseEntered.told {o : Release} {stamp : Nat} {s t : State} (h : ReleaseEntered o stamp s t)
    (hu : Appends 1 s.confirmed (insertRec (o.req stamp) s.confirmed).1) {n : Notice}
    (hn : ((o.req stamp).settled s.confirmed).2.2.releaseNotice o (indexOf s .induct) = some n) : Told n s t := by
  have hindex : indexOf (insertRec (o.req stamp) s.confirmed).1 .induct = indexOf s .induct := by
    have hcore := h.entered.core
    unfold indexOf firstOf inForce
    rw [show (insertRec (o.req stamp) s.confirmed).1.pos = s.confirmed.pos from congrArg (·.2.1) hcore]
    rfl
  have htold := h.taken.tells n (by rw [hindex]; exact hn)
  exact ((htold.before hu).before (appends_confirmed s)).told (by omega)

theorem appends_settled (q : InsertReq) (s : State) : Appends 1 s (q.settled s).1 := by
  have quiet (o : OrdTable) : Appends 1 s (s.setOrd o) := Appends.mono (j := 0) (.of_eq rfl rfl) (by omega)
  have link (r : Rec) (n : Nat) : Appends 1 s (linkNew q r n s).1 := by
    unfold linkNew
    split
    · split
      · exact quiet s.ord
      · dsimp only
        split
        · have hset : Appends 0 s (setEntryState n .waiting s) := .of_eq rfl rfl
          exact hset.trans (appends_notify _ _)
        · exact quiet _
    · exact quiet s.ord
  unfold InsertReq.settled settleNew
  split
  · exact quiet s.ord
  · split
    · exact quiet s.ord
    · split
      · exact link ..
      · exact quiet s.ord

theorem Entered.appends {q : InsertReq} {s t : State} (h : Entered q s t) : Appends 2 s t :=
  (appends_settled q s).trans h.told

theorem ReleaseEntered.released {o : Release} {stamp : Nat} {s t : State} (h : ReleaseEntered o stamp s t) :
    ReleaseTaken s t := by
  have hentered := h.entered.ready.before (appends_settled ..) (by rw [settled_rest])
  exact h.taken.taken h.entered.ind (hentered.trans h.taken.ready h.entered.appends h.taken.told) (by omega)

theorem Rec.Fresh.ofConfirmed {q : InsertReq} {s : State} {r : Rec} (h : Rec.Fresh q s.confirmed r) : Rec.Fresh q s r :=
  ⟨h.id, h.place, h.len, h.laps, h.riding⟩

theorem ReleaseEntered.adopted {o : Release} {stamp : Nat} {s t : State} (h : ReleaseEntered o stamp s t) (hb : BlockInv s)
    (hc : carrier s o.tote = none) {e : Entry} (he : findEntry s o.tote = some e) (hst : e.st ≠ .riding) :
    t.sgt = s.sgt ∧ ∃ r, carrier t o.tote = some r ∧ Adopted (o.req stamp) o.tote e s t r := by
  obtain ⟨r, hr, hadopted⟩ := h.entered.adopted rfl (blocks_confirmed hb) rfl hc he hst
  obtain ⟨htrk, _⟩ := h.listed hb
  have hanswer : ¬((o.req stamp).settled s.confirmed).2.2.counts := by
    by_cases hlong : (o.req stamp).TooLong s.confirmed e
    · rw [settled_tooLong (s := s.confirmed) rfl rfl hc he hst hlong]
      simp [Answer.counts]
    · rw [settled_rides (s := s.confirmed) rfl rfl hc he hst hlong]
      simp [Answer.counts]
  have hmem : r ∈ t.trk.list := by
    rw [h.taken.trk]
    exact hr
  obtain ⟨hfresh, hnamed, hrides, hturns⟩ := hadopted
  refine ⟨(h.taken.kept hanswer).trans h.entered.sgt, r, carrier_of_mem htrk hmem hnamed.1, hfresh.ofConfirmed, hnamed,
    fun hfits => ?_, fun hlong => ?_⟩
  · obtain ⟨hrole, hdest, hentry⟩ := hrides hfits
    exact ⟨hrole, hdest, (findEntry_of_ord h.taken.ord _).trans hentry⟩
  · obtain ⟨hsent, hentry, htold⟩ := hturns hlong
    exact ⟨hsent, (findEntry_of_ord h.taken.ord _).trans hentry, (htold.later h.taken.told).before (appends_confirmed s)⟩

/-- The request of a release becomes a STRAY, with its notice and its count (R145). -/
theorem ReleaseEntered.strayed {o : Release} {stamp : Nat} {s t : State} (h : ReleaseEntered o stamp s t) (hb : BlockInv s)
    {tote : Option Nat} {a : Answer} (hsettled : (o.req stamp).settled s.confirmed =
      (s.confirmed, { (o.req stamp).fresh s.confirmed with tote := tote, role := .ret, reason := .stray }, a))
    (ha : a.counts) {n : Notice} (hn : a.releaseNotice o (indexOf s .induct) = some n) :
    t.ord = s.ord ∧ t.sgt.strays = satInc 65535 s.sgt.strays ∧ Told n s t ∧
      ∃ r ∈ t.trk.list, Rec.Fresh (o.req stamp) s r ∧ r.tote = tote ∧ r.Sent .stray := by
  obtain ⟨hord, htold, _, r, hr, hfresh, hrec⟩ := h.entered.strayed (blocks_confirmed hb) hsettled rfl
  have hanswer : ((o.req stamp).settled s.confirmed).2.2 = a := by rw [hsettled]
  refine ⟨h.taken.ord.trans hord, ?_, h.told htold (by rw [hanswer]; exact hn), r, ?_, hfresh.ofConfirmed,
    hrec⟩
  · rw [h.taken.count (by rw [hanswer]; exact ha), countStray, h.entered.sgt]
    rfl
  · rw [h.taken.trk]
    exact hr

theorem releaseTaken_full {s : State} {o : Release} (ho : s.ind.outstanding = some o) (hfull : 96 ≤ s.trk.list.length)
    (stamp : Nat) : AnswerTaken o .full s.confirmed (takeReleased stamp s) := by
  have hfull' : 96 ≤ s.confirmed.trk.list.length := hfull
  rw [takeReleased_held ho, insertRec_full hfull']
  exact answerTaken o .full s.confirmed

end Sys2Proof.Machine
end

section
/-! PROOFS. A sighting that a record of the list takes (O22, O30). -/

namespace Sys2Proof.Machine

/-! ## READs -/

/-- The record that a READ has put at its point, with no doubt left (R50 to R52). -/
structure ReadAt (x : Sighting) (n : Nat) (r : Rec) (s t : State) (r' : Rec) : Prop where
  carrier : carrier t n = some r'
  id      : r'.id = r.id
  atPoint : AtPoint s x r'
  doubt   : r'.doubt = 0 ∧ r'.doubtful = false

theorem blocks_of_works {id k : Nat} {R : Rec → Rec → Prop} {s t : State} (h : Works id R k s t) (hb : BlockInv s) :
    TrkOk t.trk ∧ t.trk.list.length = s.trk.list.length := by
  obtain ⟨hinv, hlen⟩ := h.blocks hb
  exact ⟨hinv.trk, hlen⟩

/-- A match by number (R50). -/
theorem readAt_matchRead {x : Sighting} {n : Nat} {r : Rec} {s : State} (hb : BlockInv s) (hc : carrier s n = some r) :
    ∃ r', ReadAt x n r s (matchRead r.id (diffAt s x r) x s) r' ∧ (r.role = .ret → r'.role = .ret ∧ r'.reason = r.reason) := by
  obtain ⟨hr, hn⟩ := carrier_mem hc
  have hworks := works_matchRead r.id (diffAt s x r) x s
  obtain ⟨r', hr', hread⟩ := hworks.found r (findRec_of_mem hb.trk hr)
  obtain ⟨hcarrier, hid⟩ := carrier_of_findRec (blocks_of_works hworks hb).1 hr' (hread.tote.trans hn)
  exact ⟨r', ⟨hcarrier, hid, hread.atPoint, hread.doubt⟩, hread.ret⟩

/-- The record that a READ finds too far away, its doubt cleared and its length set (R51). -/
def State.readAfar (x : Sighting) (r : Rec) (s : State) : State := setLength r.id x.len (clearDoubt r.id s)

/-- What the clearing of the doubt and the setting of the length leave of a record (R51). -/
structure Rec.Prepared (r r' : Rec) : Prop where
  kept  : (r'.tote, r'.anchor) = (r.tote, r.anchor)
  doubt : r'.doubt = 0 ∧ r'.doubtful = false

theorem works_readAfar (x : Sighting) (r : Rec) (s : State) : Works r.id Rec.Prepared 1 s (s.readAfar x r) := by
  refine ((works_clearDoubt r.id s).comp (works_setLength r.id x.len _)).mono (by omega) ?_
  rintro a b ⟨c, hc, hb⟩
  have hspot := hc.spot
  have hspot' := hb.spot
  simp only [Prod.mk.injEq] at hspot hspot'
  exact ⟨by simp only [hspot, hspot'], by simp only [hspot', hc.doubt, and_self]⟩

/-- A jump (R51). -/
structure ReadJumps (x : Sighting) (n : Nat) (r : Rec) (s t : State) : Prop extends Framed 7 s t where
  jumps : t.trk.jumps = satInc 65535 s.trk.jumps
  found : ∃ r', ReadAt x n r s t r'
  tells : Told (.jump (some n) x.station ((x.stamp - r.anchor) % s.params.loopLen).toNat x.point) s t

theorem readJumps_relocate {x : Sighting} {n : Nat} {r : Rec} {s : State} (hb : BlockInv s) (hc : carrier s n = some r) :
    ReadJumps x n r s (relocate r.id x.stamp x.point x.station (s.readAfar x r)) := by
  obtain ⟨hr, hn⟩ := carrier_mem hc
  have hprep := works_readAfar x r s
  obtain ⟨r1, hr1, hkept, hdoubt⟩ := hprep.found r (findRec_of_mem hb.trk hr)
  obtain ⟨hbprep, _⟩ := hprep.blocks hb
  have hjump := jumped_relocate hr1 x.stamp x.point x.station
  obtain ⟨r', hr', hkept', hplace, hriding⟩ := hjump.found
  obtain ⟨hbjump, _⟩ := hjump.blocks hbprep
  simp only [Prod.mk.injEq] at hkept hkept'
  have hparams := params_of_core hprep.core
  obtain ⟨hcarrier, hid⟩ := carrier_of_findRec hbjump.trk hr' (n := n) (by simp only [hkept', hkept, hn])
  refine ⟨(hprep.toFramed.trans hjump.toFramed).mono (by omega), ?_, ⟨r', hcarrier, hid, ⟨?_, hriding.1, hriding.2⟩, ?_⟩, ?_⟩
  · rw [hjump.jumps, hprep.jumps]
  · rw [hparams] at hplace
    rwa [sub_right_comm]
  · simp only [hkept', hdoubt, and_self]
  · have htold := (hjump.tells.before hprep.told).told (by omega)
    rwa [hparams, hkept.1, hkept.2, hn] at htold

/-- The nearest record without a number takes it, and is matched (R52). -/
theorem filledIn_matchRead {x : Sighting} {n : Nat} {r : Rec} {s : State} (hb : BlockInv s) (hc : carrier s n = none)
    (hr : r ∈ s.trk.list) (hn : r.tote = none) :
    let t := matchRead r.id (diffAt s x r) x (modRec r.id (fun y => { y with tote := some n }) s)
    Framed 6 s t ∧ t.trk.jumps = s.trk.jumps ∧
      ∃ r', ReadAt x n r s t r' ∧ (r.role = .ret → r'.role = .ret ∧ r'.reason = r.reason) := by
  intro t
  have hnumber : Works r.id (fun a b => b = { a with tote := some n }) 0 s
      (modRec r.id (fun y => { y with tote := some n }) s) :=
    works_modRec (by exact fun _ => rfl) fun h => inv_takeNumber h hr hn hc
  have hworks := works_matchRead r.id (diffAt s x r) x (modRec r.id (fun y => { y with tote := some n }) s)
  have hall := hnumber.comp hworks
  obtain ⟨r', hr', _, rfl, hread⟩ := hall.found r (findRec_of_mem hb.trk hr)
  obtain ⟨hcarrier, hid⟩ := carrier_of_findRec (blocks_of_works hall hb).1 hr' hread.tote
  exact ⟨hall.toFramed.mono (by omega), hall.jumps, r',
    ⟨hcarrier, hid, ⟨place_of_diff hread.place, hread.riding.1, hread.riding.2⟩, hread.doubt⟩, hread.ret⟩

/-! ## The resolution -/

theorem within_iff (s : State) (x : Sighting) (w : Nat) (r : Rec) : within s x w r = true ↔ (diffAt s x r).natAbs ≤ w := by
  simp [within]

theorem resolve_carried {x : Sighting} {n : Nat} {r : Rec} {s : State} (hx : x.read = some n) (hc : carrier s n = some r) :
    (resolve x s).1 = if (diffAt s x r).natAbs ≤ readReach s r then matchRead r.id (diffAt s x r) x s
      else relocate r.id x.stamp x.point x.station (s.readAfar x r) := by
  have hreach : within s x (readWindow s r) r = true ↔ (diffAt s x r).natAbs ≤ readReach s r := within_iff ..
  unfold resolve
  simp only [hx, hc, hreach]
  split <;> rfl

theorem tote_none_iff (r : Rec) : r.tote.isNone = true ↔ r.tote = none := Option.isNone_iff_eq_none

theorem sure_iff (r : Rec) : decide (r.st ≠ .unsure) = true ↔ r.st ≠ .unsure := decide_eq_true_iff

theorem resolve_filledIn {x : Sighting} {n : Nat} {r : Rec} {s : State} (hx : x.read = some n) (hc : carrier s n = none)
    (hr : Nearest s x (fun r => r.tote = none) r) :
    (resolve x s).1 = matchRead r.id (diffAt s x r) x (modRec r.id (fun y => { y with tote := some n }) s) := by
  have hnearest : nearest s x (fun r => r.tote.isNone) = some r := nearest_of_nearest tote_none_iff hr
  unfold resolve
  simp only [hx, hc, hnearest]

theorem resolve_noread {x : Sighting} {r : Rec} {s : State} (hx : x.read = none)
    (hr : Nearest s x (fun r => r.st ≠ .unsure) r) : (resolve x s).1 = matchNoread r.id (diffAt s x r) x s := by
  have hnearest : nearest s x (fun r => r.st ≠ .unsure) = some r := nearest_of_nearest sure_iff hr
  unfold resolve
  simp only [hx, hnearest]

theorem resolve_unmatched {x : Sighting} {s : State} (h : Unmatched s x) : resolve x s = sightNew x s := by
  unfold Unmatched at h
  unfold resolve
  cases hx : x.read with
  | some n =>
      simp only [hx] at h
      obtain ⟨hc, hnone⟩ := h
      have hnearest : nearest s x (fun r => r.tote.isNone) = none := nearest_none tote_none_iff hnone
      simp only [hc, hnearest]
  | none =>
      simp only [hx] at h
      have hnearest : nearest s x (fun r => r.st ≠ .unsure) = none := nearest_none sure_iff h
      simp only [hnearest]

end Sys2Proof.Machine
end

section
/-! PROOFS. A sighting that no record takes, and the resolution of every sighting (O22, O30). -/

namespace Sys2Proof.Machine

/-! ## The insertion of a sighting -/

theorem not_full_settled (q : InsertReq) (s : State) : (q.settled s).2.2 ≠ .full := by
  have link (r : Rec) (n : Nat) : (linkNew q r n s).2.2 ≠ .full := by
    unfold linkNew
    split
    · split
      · simp
      · dsimp only
        split <;> simp
    · simp
  unfold InsertReq.settled settleNew
  split
  · simp
  · split
    · simp
    · split
      · intro h
        exact link _ _ h
      · simp

theorem sightInsert_room {x : Sighting} {role : Role} {why : Reason} {after : State → State} {s : State}
    (hrole : role ≠ .hole) (hroom : s.trk.list.length < 96) :
    (sightInsert x role why after s).1 = after (insertRec (sightingReq x role why) s).1 := by
  have hanswer := insertRec_room (q := sightingReq x role why) hrole hroom
  have hno := not_full_settled (sightingReq x role why) s
  unfold sightInsert
  split
  · next h =>
    rw [h] at hanswer
    simp only [Prod.mk.injEq] at hanswer
    exact absurd hanswer.2.1.symm hno
  · next h => rw [h]

theorem sightInsert_full {x : Sighting} {role : Role} {why : Reason} {after : State → State} {s : State}
    (hfull : 96 ≤ s.trk.list.length) :
    (sightInsert x role why after s).1 = notify (.untracked x.read x.station x.point) s := by
  unfold sightInsert
  simp only [insertRec_full hfull]

theorem closes_iff (x : Source) : (x = .inductEye ∨ x = .spurEye) ↔ ¬x.creates := by
  cases x <;> simp [Source.creates]

theorem sightNew_closed {x : Sighting} (h : ¬x.source.creates) (s : State) : sightNew x s = (s, none) :=
  if_pos ((closes_iff _).mpr h)

theorem creates_opens {x : Source} (h : x.creates) : ¬(x = .inductEye ∨ x = .spurEye) := fun hc => (closes_iff x).mp hc h

/-- A READ that no record takes creates an ORDER record for an entry that does not ride, a STRAY without one (R53). -/
theorem sightNew_read {x : Sighting} (h : x.source.creates) {n : Nat} (hx : x.read = some n) (s : State) :
    sightNew x s = if adopts s n then sightInsert x .order .none id s
      else sightInsert x .ret .stray (fun u => notify (.stray x.read x.station x.point) (countStray u)) s := by
  simp [sightNew, creates_opens h, hx]

/-- A NOREAD that no record takes creates a PHANTOM (R56). -/
theorem sightNew_noread {x : Sighting} (h : x.source.creates) (hx : x.read = none) (s : State) :
    sightNew x s = sightInsert x .ret .phantom (reportPhantom x) s := by
  simp [sightNew, creates_opens h, hx]

theorem sightNew_full {x : Sighting} (h : x.source.creates) {s : State} (hfull : 96 ≤ s.trk.list.length) :
    (sightNew x s).1 = notify (.untracked x.read x.station x.point) s := by
  cases hx : x.read with
  | some n =>
      rw [sightNew_read h hx, ← hx]
      split <;> exact sightInsert_full hfull
  | none =>
      rw [sightNew_noread h hx, ← hx]
      exact sightInsert_full hfull

theorem Rec.Fresh.atPoint {x : Sighting} {role : Role} {why : Reason} {s : State} {r : Rec}
    (h : Rec.Fresh (sightingReq x role why) s r) : AtPoint s x r := by
  refine ⟨?_, h.riding.1, h.riding.2⟩
  rw [sub_right_comm]
  exact h.place

/-- The entry for a number adopts the tote (R53, R77). -/
theorem sightNew_adopts {x : Sighting} {n : Nat} {e : Entry} (h : x.source.creates) (hx : x.read = some n) {s : State}
    (hroom : s.trk.list.length < 96) (he : findEntry s n = some e) (hst : e.st ≠ .riding) :
    (sightNew x s).1 = (insertRec (sightingReq x .order .none) s).1 := by
  have hadopts : adopts s n = true := by simp [adopts, he, hst]
  rw [sightNew_read h hx, if_pos hadopts]
  exact sightInsert_room (by simp) hroom

theorem sightNew_strays {x : Sighting} {n : Nat} (h : x.source.creates) (hx : x.read = some n) {s : State}
    (hroom : s.trk.list.length < 96) (he : findEntry s n = none) : (sightNew x s).1 =
      notify (.stray (some n) x.station x.point) (countStray (insertRec (sightingReq x .ret .stray) s).1) := by
  have hadopts : adopts s n = false := by simp [adopts, he]
  rw [sightNew_read h hx, if_neg (by simp [hadopts]), ← hx]
  exact sightInsert_room (by simp) hroom

theorem sightNew_phantom {x : Sighting} (h : x.source.creates) (hx : x.read = none) {s : State}
    (hroom : s.trk.list.length < 96) :
    (sightNew x s).1 = reportPhantom x (insertRec (sightingReq x .ret .phantom) s).1 := by
  rw [sightNew_noread h hx]
  exact sightInsert_room (by simp) hroom

/-! ## Sighted -/

/-- What the sighting of a tote that no record takes brings, where a RETURN record enters for it (R53, R56). -/
theorem enters_return {x : Sighting} {why : Reason} {s : State} (hb : BlockInv s) (hroom : s.trk.list.length < 96)
    (hfree : ∀ n, x.read = some n → carrier s n = none) {u : State} {f : Sgt → Sgt} {m : Notice}
    (hu : u = notify m ((insertRec (sightingReq x .ret why) s).1.setSgt (f (insertRec (sightingReq x .ret why) s).1.sgt))) :
    (∃ r ∈ u.trk.list, r.id = s.trk.nextId ∧ AtPoint s x r ∧ r.len = x.len.getD 255 ∧ r.tote = x.read ∧ r.Sent why) ∧
      u.trk.list.length = s.trk.list.length + 1 ∧ TrkOk u.trk ∧ u.ord = s.ord ∧ u.sgt = f s.sgt ∧ Told m s u := by
  have hent := entered_insertRec (q := sightingReq x .ret why) (by simp [sightingReq]) hroom
  obtain ⟨hinv, hlen, _⟩ := hent.blocks hb
  obtain ⟨hord, htold, r, hr, hfresh, htote, hsent⟩ := hent.returned rfl hb hfree
  have hsgt := hent.sgt
  generalize (insertRec (sightingReq x .ret why) s).1 = v at *
  have htell : ToldAfter 0 m (v.setSgt (f v.sgt)) u := by
    rw [hu]
    exact toldAfter_notify m _
  have hrest : u = { v with sgt := f v.sgt, ntq := u.ntq } := by
    rw [hu, notify_rest]
    rfl
  have hset : Appends 0 v (v.setSgt (f v.sgt)) := .of_eq rfl rfl
  refine ⟨⟨r, ?_, hfresh.id, hfresh.atPoint, hfresh.len, htote, hsent⟩, ?_, ?_, ?_, ?_, ?_⟩
  · rwa [hrest]
  · rwa [hrest]
  · rw [hrest]
    exact hinv.trk
  · rwa [hrest]
  · rw [hrest, ← hsgt]
  · exact ((htell.before hset).before htold).told (by omega)

theorem Unmatched.free {x : Sighting} {s : State} (h : Unmatched s x) {n : Nat} (hx : x.read = some n) : carrier s n = none := by
  unfold Unmatched at h
  simp only [hx] at h
  exact h.1

/-- The measured length of a sighting is above the maximum of the entry's lane (R78). -/
theorem tooLong_iff {x : Sighting} {s : State} {e : Entry} {l : Nat} (h : x.len = some l) :
    (sightingReq x .order .none).TooLong s e ↔ (laneOf s e.lane).cfg.maxLen < l := by
  simp [InsertReq.TooLong, sightingReq, h]

theorem sighted_resolve {x : Sighting} {s : State} (hb : BlockInv s) : Sighted x s (resolve x s).1 := by
  constructor
  case carried =>
    intro n r hx hc
    rw [resolve_carried hx hc]
    split
    · next hreach =>
      have hworks := works_matchRead r.id (diffAt s x r) x s
      obtain ⟨r', hread, _⟩ := readAt_matchRead (x := x) hb hc
      exact ⟨⟨r', hread.carrier, hread.id, hread.atPoint, hread.doubt⟩, (blocks_of_works hworks hb).2, by rw [hworks.sgt],
        by rw [hworks.sgt], fun _ => hworks.jumps, fun hfar => absurd hreach (Nat.not_le.mpr hfar)⟩
    · next hfar =>
      have hjump := readJumps_relocate (x := x) hb hc
      obtain ⟨r', hread⟩ := hjump.found
      exact ⟨⟨r', hread.carrier, hread.id, hread.atPoint, hread.doubt⟩, (hjump.blocks hb).2, by rw [hjump.sgt],
        by rw [hjump.sgt], fun hreach => absurd hreach hfar, fun _ => ⟨hjump.jumps, hjump.tells⟩⟩
  case filledIn =>
    intro n r hx hc hr
    rw [resolve_filledIn hx hc hr]
    obtain ⟨⟨_, hnone, _⟩, pre, post, hlist, _⟩ := hr
    have hmem : r ∈ s.trk.list := by simp [hlist]
    obtain ⟨hframed, hjumps, r', hread, hret⟩ := filledIn_matchRead (x := x) hb hc hmem hnone
    exact ⟨r', hread.carrier, hread.id, hread.atPoint, hread.doubt.1, hread.doubt.2, hret, (hframed.blocks hb).2, hjumps⟩
  case doubted =>
    intro r hx hr exempt
    rw [resolve_noread hx hr]
    obtain ⟨_, pre, post, hlist, _⟩ := hr
    have hrec : findRec s r.id = some r := findRec_of_mem hb.trk (by simp [hlist])
    have hworks := works_matchNoread r.id (diffAt s x r) x s
    obtain ⟨r', hr', hunread⟩ := hworks.found r hrec
    have hkept := hunread.kept
    simp only [Prod.mk.injEq] at hkept
    refine ⟨r', hr', ⟨place_of_diff hunread.place, hunread.riding.1, hunread.riding.2⟩, hkept.2, hkept.1,
      (blocks_of_works hworks hb).2, hunread.spared, fun hex => ?_⟩
    obtain ⟨hdoubt, hdoubtful, hdest⟩ := hunread.doubt hex
    exact ⟨hdoubt, hdoubtful, fun hone hrole => ⟨hdest hone hrole, fun hst =>
      (toldAfter_matchNoread hex hrec hone hrole hst).told (by omega)⟩⟩
  case closed =>
    intro hun hno
    rw [resolve_unmatched hun, sightNew_closed hno]
    exact ⟨rfl, rfl, rfl, rfl⟩
  case untracked =>
    intro hun hyes hfull
    have htold := (toldAfter_notify (.untracked x.read x.station x.point) s).told (by omega)
    rw [resolve_unmatched hun, sightNew_full hyes hfull]
    refine ⟨?_, ?_, htold⟩
    all_goals rw [notify_rest]
  case adopted =>
    intro n e hx hun hyes hroom he hst maxLen
    have hc := hun.free hx
    rw [resolve_unmatched hun, sightNew_adopts hyes hx hroom he hst]
    have hent := entered_insertRec (q := sightingReq x .order .none) (by simp [sightingReq]) hroom
    obtain ⟨hinv, hlen, _⟩ := hent.blocks hb
    obtain ⟨r, hr, hfresh, hnamed, hrides, hturns⟩ := hent.adopted rfl hb hx hc he hst
    have hsgt := hent.sgt
    generalize (insertRec (sightingReq x .order .none) s).1 = t at *
    refine ⟨r, carrier_of_mem hinv.trk hr hnamed.1, hfresh.id, hfresh.atPoint, hfresh.len, hnamed.2, hfresh.laps, hlen,
      by rw [hsgt], fun hfits => hrides fun hl => ?_, fun l hl hmax => ?_⟩
    · have hmeasured : x.len.isSome = true := hl.1
      obtain ⟨l, hl'⟩ := Option.isSome_iff_exists.mp hmeasured
      exact absurd ((tooLong_iff hl').mp hl) (Nat.not_lt.mpr (hfits l hl'))
    · obtain ⟨⟨hrole, hreason, hdest⟩, hentry, htold⟩ := hturns ((tooLong_iff hl).mpr hmax)
      have hlen' : (sightingReq x .order .none).len = l := by simp [sightingReq, hl]
      rw [hlen'] at htold
      exact ⟨hrole, hreason, hdest, hentry, htold.told (by omega)⟩
  case strayed =>
    intro n hx hun hyes hroom he
    obtain ⟨⟨r, hr, hid, hpoint, hlen, htote, hrole, hreason, hdest⟩, hlength, htrk, hord, hsgt, htold⟩ :=
      enters_return (f := fun g => { g with strays := satInc counterMax g.strays }) hb hroom (fun _ => hun.free)
        ((congrArg Prod.fst (resolve_unmatched hun)).trans (sightNew_strays hyes hx hroom he))
    exact ⟨⟨r, carrier_of_mem htrk hr (htote.trans hx), hid, hpoint, hlen, hrole, hreason, hdest⟩, hlength, hord,
      by rw [hsgt], htold⟩
  case phantom =>
    intro hx hun hyes hroom
    obtain ⟨⟨r, hr, hid, hpoint, hlen, htote, hrole, hreason, hdest⟩, hlength, _, hord, hsgt, htold⟩ :=
      enters_return (f := fun g => { g with phantoms := satInc counterMax g.phantoms }) hb hroom (fun _ => hun.free)
        ((congrArg Prod.fst (resolve_unmatched hun)).trans (sightNew_phantom hyes hx hroom))
    exact ⟨⟨r, hr, hid, hpoint, hlen, htote.trans hx, hrole, hreason, hdest⟩, hlength, hord, by rw [hsgt], htold⟩

end Sys2Proof.Machine
end

section
/-! PROOFS. RELEASED: IND beside a sighting, and the three clauses (O30). -/

namespace Sys2Proof.Machine

/-! ## IND beside a sighting -/

/-- IND keeps its book, and no READY becomes pending, in the step from `s` to `t`. -/
structure BesideInd (s t : State) : Prop where
  book  : t.indBook = s.indBook
  ready : s.ind.ready = none → t.ind.ready = none

theorem BesideInd.of_ind {s t : State} (h : t.ind = s.ind) : BesideInd s t := ⟨indBook_of_ind h, fun hn => by rw [h, hn]⟩

theorem BesideInd.trans {s t u : State} (h : BesideInd s t) (h' : BesideInd t u) : BesideInd s u :=
  ⟨h'.book.trans h.book, fun hn => h'.ready (h.ready hn)⟩

theorem Framed.besideInd {k : Nat} {s t : State} (h : Framed k s t) : BesideInd s t := ⟨h.ind, h.ready⟩

theorem besideInd_notify (n : Notice) (s : State) : BesideInd s (notify n s) := .of_ind (by rw [notify_rest])

theorem besideInd_relocate (id : Nat) (stamp : Int) (p station : Nat) (s : State) :
    BesideInd s (relocate id stamp p station s) := by
  cases hr : findRec s id with
  | none =>
      have heq : relocate id stamp p station s = s := by simp [relocate, hr]
      rw [heq]
      exact .of_ind rfl
  | some r => exact (jumped_relocate hr stamp p station).toFramed.besideInd

theorem besideInd_sightInsert {x : Sighting} {role : Role} {why : Reason} {after : State → State} {s : State}
    (hrole : role ≠ .hole) (hafter : ∀ u, BesideInd u (after u)) : BesideInd s (sightInsert x role why after s).1 := by
  by_cases hroom : s.trk.list.length < 96
  · rw [sightInsert_room hrole hroom]
    have hent := entered_insertRec (q := sightingReq x role why) hrole hroom
    have hind : ((sightingReq x role why).settled s).1.ind = s.ind := by rw [settled_rest]
    have hinserted : BesideInd s (insertRec (sightingReq x role why) s).1 :=
      ⟨hent.ind, fun hn => hent.ready.none (by rw [hind, hn])⟩
    exact hinserted.trans (hafter _)
  · rw [sightInsert_full (Nat.le_of_not_lt hroom)]
    exact besideInd_notify ..

theorem besideInd_sightNew (x : Sighting) (s : State) : BesideInd s (sightNew x s).1 := by
  by_cases h : x.source.creates
  · cases hx : x.read with
    | some n =>
        rw [sightNew_read h hx]
        split
        · exact besideInd_sightInsert (by simp) fun _ => .of_ind rfl
        · exact besideInd_sightInsert (by simp) fun u => .of_ind (by rw [notify_rest]; rfl)
    | none =>
        rw [sightNew_noread h hx]
        exact besideInd_sightInsert (by simp) fun u => .of_ind (by rw [reportPhantom, notify_rest]; rfl)
  · rw [sightNew_closed h]
    exact .of_ind rfl

theorem besideInd_matchRead (id : Nat) (d : Int) (x : Sighting) (s : State) : BesideInd s (matchRead id d x s) :=
  (works_matchRead id d x s).toFramed.besideInd

theorem besideInd_resolve (x : Sighting) (s : State) : BesideInd s (resolve x s).1 := by
  unfold resolve
  split
  · split
    · next r _ =>
      split
      · exact besideInd_matchRead ..
      · exact (works_readAfar x r s).toFramed.besideInd.trans (besideInd_relocate ..)
    · split
      · next r _ =>
        have hnumber (n : Nat) : BesideInd s (modRec r.id (fun y => { y with tote := some n }) s) := .of_ind rfl
        exact (hnumber _).trans (besideInd_matchRead ..)
      · exact besideInd_sightNew x s
  · split
    · exact (works_matchNoread ..).toFramed.besideInd
    · exact besideInd_sightNew x s

/-! ## A RELEASED with no release outstanding -/

theorem atPoint_parts (s : State) (x : Sighting) (i : Ind) (r : Run) :
    AtPoint { s with ind := i, run := r } x = AtPoint s x := by
  funext y
  exact propext ⟨fun h => ⟨h.place, h.riding, h.missed⟩, fun h => ⟨h.place, h.riding, h.missed⟩⟩

/-- A resolution does not see IND nor run control. -/
theorem Sighted.of_parts {x : Sighting} {s t : State} {i : Ind} {r : Run} (h : Sighted x { s with ind := i, run := r } t) :
    Sighted x s t := by
  obtain ⟨hcarried, hfilled, hdoubted, hclosed, huntracked, hadopted, hstrayed, hphantom⟩ := h
  rw [atPoint_parts] at hcarried hfilled hdoubted hadopted hstrayed hphantom
  exact ⟨hcarried, hfilled, hdoubted, hclosed, huntracked, hadopted, hstrayed, hphantom⟩

/-- The state in which a pending READY has been cleared before the sighting (R147). -/
def State.unready (s : State) : State := runIdle (indLook (s.setInd { s.ind with ready := none }))

theorem unready_rest (s : State) : s.unready = { s with ind := s.unready.ind, run := s.unready.run } := by
  unfold State.unready
  rw [runIdle_rest]
  rfl

theorem ind_unready (s : State) : s.unready.indBook = s.indBook ∧ s.unready.ind.ready = none := by
  have hind : s.unready.ind = (indLook (s.setInd { s.ind with ready := none })).ind := by rw [State.unready, runIdle_rest]
  rw [State.indBook, hind]
  exact ⟨rfl, rfl⟩

theorem takeReleased_config {s : State} (h : s.ind.outstanding = none) (hst : s.run.st = .config) (stamp : Nat) :
    takeReleased stamp s = s := by
  simp [takeReleased, h, hst]

theorem takeReleased_sights {s : State} (h : s.ind.outstanding = none) (hst : s.run.st ≠ .config) (stamp : Nat) :
    takeReleased stamp s = (resolve (originSighting stamp s) s.unready).1 := by
  unfold takeReleased
  rw [h]
  exact if_neg hst

theorem sighted_unready {x : Sighting} {s : State} (hb : BlockInv s) : Sighted x s (resolve x s.unready).1 := by
  have hblocks : BlockInv s.unready := by
    unfold State.unready
    exact inv_runIdle (inv_indLook (inv_setInd hb))
  have hsighted := sighted_resolve (x := x) hblocks
  rw [unready_rest] at hsighted
  have hsame : resolve x { s with ind := s.unready.ind, run := s.unready.run } = resolve x s.unready := by rw [← unready_rest]
  rw [hsame] at hsighted
  exact hsighted.of_parts

/-- Settles O30: by whether a release is outstanding, and then by what TRK answers. -/
theorem releasedIsTaken : Obligations.ReleasedIsTaken := by
  refine ⟨fun src i x o s hinv h ho => ?_, fun src i x s h hnone => ⟨fun hst => ?_, fun hst => ?_, fun hst hinv => ?_⟩⟩
  · intro atOrigin station
    have hexec : exec (.released src) s = .next (takeReleased (s.pos.odo - x.lat) s) := exec_handed rfl h
    obtain ⟨stamp, hstamp⟩ : ∃ n, n = s.pos.odo - x.lat := ⟨_, rfl⟩
    rw [← hstamp] at hexec
    have hb := (Kept.of_inv hinv).blocks
    have horigin {r : Rec} (hr : Rec.Fresh (o.req stamp) s r) : atOrigin r := by
      have hplace := hr.place
      simp only [Release.req, Nat.cast_zero, Int.sub_zero] at hplace
      show (((s.pos.odo - x.lat : Nat) : Int) - r.anchor) % s.params.loopLen = 0
      rw [← hstamp]
      exact hplace
    by_cases hroom : s.trk.list.length < 96
    · have ht := releaseEntered ho hroom stamp
      generalize takeReleased stamp s = t at *
      obtain ⟨⟨hout, hlast⟩, hready⟩ := ht.released
      obtain ⟨htrk, hlen⟩ := ht.listed hb
      refine ⟨t, hexec, hout, hlast, hready, fun e _ hc he hst => ?_, fun _ hc he => ?_, fun _ hc => ?_,
        fun hfull => absurd hroom (by omega)⟩
      · obtain ⟨hsgt, r, hr, hfresh, hnamed, hrides, hturns⟩ := ht.adopted hb hc he hst
        refine ⟨hlen, by rw [hsgt], r, hr, horigin hfresh, hnamed.2, hfresh.len, hfresh.laps, hfresh.riding.1, fun hle => ?_,
          fun hlong => ?_⟩
        · exact hrides fun hlong => absurd hlong.2 (by simpa [Release.req] using hle)
        · obtain ⟨⟨hrole, hreason, hdest⟩, hentry, htold⟩ := hturns ⟨rfl, hlong⟩
          exact ⟨hrole, hreason, hdest, hentry, htold.told (by omega)⟩
      · have hsettled := settled_stray (q := o.req stamp) (s := s.confirmed) rfl rfl hc he
        obtain ⟨hord, hcount, htold, r, hr, hfresh, htote, hrole, hreason, hdest⟩ := ht.strayed hb hsettled (.inl rfl) rfl
        exact ⟨hlen, hord, hcount, htold, r, carrier_of_mem htrk hr htote, horigin hfresh, hrole, hreason, hdest⟩
      · have hsettled := settled_duplicate (q := o.req stamp) (s := s.confirmed) rfl rfl hc
        obtain ⟨hord, hcount, htold, r, hr, hfresh, htote, hrole, hreason, hdest⟩ := ht.strayed hb hsettled (.inr rfl) rfl
        exact ⟨hlen, hord, hcount, htold, r, hr, hfresh.id, horigin hfresh, htote, hrole, hreason, hdest⟩
    · have hfull : 96 ≤ s.trk.list.length := Nat.le_of_not_lt hroom
      have ht := releaseTaken_full ho hfull stamp
      generalize takeReleased stamp s = t at *
      obtain ⟨⟨hout, hlast⟩, hready⟩ := ht.taken rfl ht.ready (by omega)
      refine ⟨t, hexec, hout, hlast, hready, fun e h => absurd h hroom, fun h => absurd h hroom, fun h => absurd h hroom, fun _ =>
        ⟨congrArg Trk.list ht.trk, ht.ord, ht.kept (by simp [Answer.counts]), ?_⟩⟩
      exact ((ht.tells _ rfl).before (appends_confirmed s)).told (by omega)
  all_goals have hexec : exec (.released src) s = .next (takeReleased (s.pos.odo - x.lat) s) := exec_handed rfl h
  · rwa [takeReleased_config hnone hst] at hexec
  · refine ⟨_, hexec, ?_⟩
    rw [takeReleased_sights hnone hst]
    obtain ⟨hbook, hready⟩ := besideInd_resolve (originSighting (s.pos.odo - x.lat) s) s.unready
    obtain ⟨hbook', hready'⟩ := ind_unready s
    rw [hbook'] at hbook
    simp only [State.indBook, Prod.mk.injEq] at hbook
    obtain ⟨hlast, hout, _⟩ := hbook
    exact ⟨hready hready', hout.trans hnone, hlast⟩
  · refine ⟨_, hexec, ?_⟩
    rw [takeReleased_sights hnone hst]
    exact sighted_unready (Kept.of_inv hinv).blocks

end Sys2Proof.Machine
end

section
/-! PROOFS. A READ at a station: what follows its resolution leaves the record where it is (O22). -/

namespace Sys2Proof.Machine

/-! ## The spots of the records -/

/-- What a crowded pair leaves of a record (R60). -/
def Rec.spot (r : Rec) : Nat × Option Nat × Int × Track × Nat × Nat × Bool :=
  (r.id, r.tote, r.anchor, r.st, r.missed, r.doubt, r.doubtful)

/-- The records keep their order and their spots in the step from `s` to `t`. -/
def SameSpots (s t : State) : Prop := t.trk.list.map Rec.spot = s.trk.list.map Rec.spot

theorem SameSpots.refl (s : State) : SameSpots s s := rfl

theorem SameSpots.trans {s t u : State} (h : SameSpots s t) (h' : SameSpots t u) : SameSpots s u := Eq.trans h' h

theorem sameSpots_of_trk {s t : State} (h : t.trk = s.trk) : SameSpots s t := by rw [SameSpots, h]

theorem sameSpots_of_records {s t : State} (h : t.records = s.records) : SameSpots s t := map_of_records (fun _ => rfl) h

theorem sameSpots_modRec (id : Nat) {f : Rec → Rec} (hf : ∀ r, (f r).spot = r.spot) (s : State) :
    SameSpots s (modRec id f s) := by
  unfold SameSpots modRec
  simp only [State.setTrk_fields, List.map_map]
  refine List.map_congr_left fun r _ => ?_
  simp only [Function.comp_apply]
  split
  · exact hf r
  · rfl

theorem SameSpots.length {s t : State} (h : SameSpots s t) : t.trk.list.length = s.trk.list.length := by
  simpa using congrArg List.length h

theorem SameSpots.carrier {s t : State} (h : SameSpots s t) {n : Nat} {r : Rec} (hr : carrier s n = some r) :
    ∃ r', carrier t n = some r' ∧ r'.spot = r.spot := by
  have hfind (u : State) : (Machine.carrier u n).map Rec.spot = (u.trk.list.map Rec.spot).find? fun x => x.2.1 = some n := by
    rw [List.find?_map]
    rfl
  have hmap : (Machine.carrier t n).map Rec.spot = some r.spot := by
    rw [hfind, h, ← hfind, hr]
    rfl
  exact Option.map_eq_some_iff.mp hmap

/-! ## What follows a resolution -/

theorem sameSpots_settleEntry (r : Rec) (x : EntryFate) (s : State) : SameSpots s (settleEntry r x s) :=
  sameSpots_of_trk (by rw [settleEntry_rest])

theorem sameSpots_roleToReturn (id : Nat) (why : Reason) (fate : EntryFate) (s : State) :
    SameSpots s (roleToReturn id why fate s) := by
  unfold roleToReturn
  split
  · exact .refl s
  · next r _ =>
    split
    · exact .refl s
    · exact sameSpots_modRec id (by exact fun _ => rfl) s
    · have hturn (f : Rec → Rec) (hf : ∀ y, (f y).spot = y.spot) :
          SameSpots s (modRec id f (settleEntry r fate s)) :=
        (sameSpots_settleEntry r fate s).trans (sameSpots_modRec id hf _)
      have hplan (u : State) : SameSpots u (finishDetach [id] (detach id u) (detach id u).st) :=
        sameSpots_of_records ((records_finishDetach ..).trans (records_detach ..))
      exact (hturn _ (by exact fun _ => rfl)).trans (hplan _)

theorem sameSpots_crowdOne (id : Nat) (s : State) : SameSpots s (crowdOne id s) := by
  unfold crowdOne
  split
  · exact .refl s
  · have hmark : SameSpots s (modRec id (fun x => { x with crowded := true }) s) := sameSpots_modRec id (by exact fun _ => rfl) s
    dsimp only
    split
    · exact .refl s
    · split
      · exact hmark
      · exact hmark.trans (sameSpots_roleToReturn ..)

theorem sameSpots_crowdAll (ids : List Nat) (s : State) : SameSpots s (ids.foldl (fun t id => crowdOne id t) s) := by
  induction ids generalizing s with
  | nil => exact .refl s
  | cons id ids ih => exact (sameSpots_crowdOne id s).trans (ih _)

theorem sameSpots_notify (n : Notice) (s : State) : SameSpots s (notify n s) := sameSpots_of_records (records_notify n s)

theorem sameSpots_crowdPair (station gap : Nat) (prev cur : Option Nat) (s : State) :
    SameSpots s (crowdPair station gap prev cur s) := (sameSpots_crowdAll _ s).trans (sameSpots_notify ..)

theorem trk_modEye (i : Nat) (f : Eye → Eye) (s : State) : (modEye i f s).trk = s.trk := by
  unfold modEye
  split <;> rfl

theorem sameSpots_modEye (i : Nat) (f : Eye → Eye) (s : State) : SameSpots s (modEye i f s) :=
  sameSpots_of_trk (trk_modEye i f s)

theorem sameSpots_endWindow (i : Nat) (w : ReaderWindow) (s : State) : SameSpots s (endWindow i w s) := by
  unfold endWindow
  dsimp only
  split
  · exact sameSpots_of_trk rfl
  · split
    · exact sameSpots_of_trk rfl
    · have hset (x : Sgt) : SameSpots s (s.setSgt x) := sameSpots_of_trk rfl
      exact (hset _).trans (sameSpots_notify ..)

theorem sameSpots_countSighting (x : Sighting) (s : State) : SameSpots s (countSighting x s) := by
  have hset (y : Sgt) : SameSpots s (s.setSgt y) := sameSpots_of_trk rfl
  unfold countSighting
  split
  · dsimp only
    split
    · exact (hset _).trans (sameSpots_endWindow ..)
    · exact hset _
  · exact .refl s

/-- The counts and the crowded pair of a resolved pass move no record (R59 to R61). -/
theorem sameSpots_resolvePass (i : Nat) (e : Eye) (read len : Option Nat) (s : State) :
    SameSpots (resolve (eyeSighting s i read (e.lead.getD 0) len) s).1 (resolvePass i e read len s).1 := by
  have hcount (x : Sighting) (f : Eye → Eye) (u : State) : SameSpots u (countSighting x (modEye i f u)) :=
    (sameSpots_modEye i f u).trans (sameSpots_countSighting x _)
  unfold resolvePass
  dsimp only
  split
  · exact (hcount ..).trans (sameSpots_crowdPair ..)
  · exact hcount ..

/-! ## The record of a READ -/

/-- The record `r` stands at a point at a stamp in `t`, RIDING and without doubt, and no record has come or gone since `s`. -/
structure PutAt (stamp : Int) (p n : Nat) (r : Rec) (s t : State) : Prop where
  length : t.trk.list.length = s.trk.list.length
  found  : ∃ r', carrier t n = some r' ∧ r'.id = r.id ∧ (stamp - r'.anchor - p) % s.params.loopLen = 0 ∧
    r'.st = .riding ∧ r'.missed = 0 ∧ r'.doubt = 0 ∧ r'.doubtful = false

theorem PutAt.later {stamp : Int} {p n : Nat} {r : Rec} {s t u : State} (h : PutAt stamp p n r s t) (hu : SameSpots t u) :
    PutAt stamp p n r s u := by
  obtain ⟨hlen, r', hc, hid, hplace, hst, hmissed, hdoubt, hdoubtful⟩ := h
  obtain ⟨r'', hc', hspot⟩ := hu.carrier hc
  simp only [Rec.spot, Prod.mk.injEq] at hspot
  obtain ⟨hid', _, hanchor, hst', hmissed', hdoubt', hdoubtful'⟩ := hspot
  exact ⟨hu.length.trans hlen, r'', hc', hid'.trans hid, by rwa [hanchor], hst'.trans hst, hmissed'.trans hmissed,
    hdoubt'.trans hdoubt, hdoubtful'.trans hdoubtful⟩

theorem putAt_resolve {x : Sighting} {n : Nat} {r : Rec} {s : State} (hb : BlockInv s) (hx : x.read = some n)
    (hc : carrier s n = some r) : PutAt x.stamp x.point n r s (resolve x s).1 := by
  obtain ⟨⟨r', hr', hid, hpoint, hdoubt⟩, hlen, _⟩ := (sighted_resolve (x := x) hb).carried n r hx hc
  exact ⟨hlen, r', hr', hid, hpoint.place, hpoint.riding, hpoint.missed, hdoubt⟩

theorem putAt_resolvePass {i n : Nat} {e : Eye} {len : Option Nat} {r : Rec} {s : State} (hb : BlockInv s)
    (hc : carrier s n = some r) :
    PutAt (e.lead.getD 0 : Nat) (stationAt s i).pos n r s (resolvePass i e (some n) len s).1 :=
  (putAt_resolve (x := eyeSighting s i (some n) (e.lead.getD 0) len) hb rfl hc).later (sameSpots_resolvePass ..)

theorem takeTag_noPass {i stamp : Nat} {read : Option Nat} {e : Eye} {s : State} (he : eyeOf s i = some e)
    (hp : e.pass = .noPass) : takeTag i stamp read s =
      countSighting (eyeSighting s i (read.bind readNumber) stamp none)
        (resolve (eyeSighting s i (read.bind readNumber) stamp none) s).1 := by
  simp [takeTag, he, hp]

theorem takeTag_awaiting {i stamp : Nat} {read : Option Nat} {e : Eye} {s : State} (he : eyeOf s i = some e)
    (hp : e.pass = .awaiting) : takeTag i stamp read s =
      (resolvePass i e (read.bind readNumber) (some (passLen (e.lead.getD 0) (e.trail.getD 0))) (setEye i e.ended s)).1 := by
  simp [takeTag, he, hp]

theorem takeTag_opened {i stamp n : Nat} {read : Option Nat} {e : Eye} {s : State} (he : eyeOf s i = some e)
    (hp : e.pass = .opened) (hres : e.res = .unread) (hn : read.bind readNumber = some n) :
    ∃ f, takeTag i stamp read s = modEye i f (resolvePass i e (some n) none s).1 := by
  simp only [takeTag, he, hp, hres, hn, if_true]
  exact ⟨_, rfl⟩

theorem readNumber_valid {n : Nat} (h1 : 1 ≤ n) (h2 : n ≤ 4094) : readNumber n = some n :=
  if_neg (by simp only [Config.maxTote]; omega)

/-- Settles O22: by the pass of the eye. -/
theorem aReadPutsItsRecordAtTheStation : Obligations.AReadPutsItsRecordAtTheStation := by
  intro src i n x e r s hinv h he hst h1 h2 hc hopen stamp
  have hb := (Kept.of_inv hinv).blocks
  have hexec : exec (.tag src (some n)) s = .next (takeTag i (s.pos.odo - x.lat) (some n) s) := by
    rw [exec_handed rfl h]
    exact congrArg _ (if_neg hst)
  have hread : (some n).bind readNumber = some n := readNumber_valid h1 h2
  have hput : PutAt stamp (stationAt s i).pos n r s (takeTag i (s.pos.odo - x.lat) (some n) s) := by
    cases hp : e.pass with
    | noPass =>
        have hstamp : stamp = s.pos.odo - x.lat := if_pos hp
        rw [takeTag_noPass he hp, hread, hstamp]
        exact (putAt_resolve (x := eyeSighting s i (some n) (s.pos.odo - x.lat : Nat) none) hb rfl hc).later
          (sameSpots_countSighting ..)
    | opened =>
        have hstamp : stamp = e.lead.getD 0 := if_neg (by simp [hp])
        obtain ⟨f, hf⟩ := takeTag_opened (stamp := s.pos.odo - x.lat) he hp (hopen hp) hread
        rw [hf, hstamp]
        exact (putAt_resolvePass hb hc).later (sameSpots_modEye ..)
    | awaiting =>
        have hstamp : stamp = e.lead.getD 0 := if_neg (by simp [hp])
        have hended : BlockInv (setEye i e.ended s) := inv_setSgt hb
        rw [takeTag_awaiting he hp, hread, hstamp]
        obtain ⟨hlen, hfound⟩ := putAt_resolvePass (i := i) (e := e)
          (len := some (passLen (e.lead.getD 0) (e.trail.getD 0))) hended (by exact hc)
        exact ⟨hlen, hfound⟩
  obtain ⟨hlen, r', hr', hid, hplace, hriding, hmissed, hdoubt, hdoubtful⟩ := hput
  exact ⟨_, r', hexec, hr', hid, hplace, hriding, hmissed, hdoubt, hdoubtful, hlen⟩

end Sys2Proof.Machine
end
